-- ==== Sys2Proof/Word.lean ====
section
/-! DEFINITION. The word types of the Ivvik V128 and their plainest arithmetic: 32-bit registers (R15), 64-bit memory
words (R238), bytes. -/

namespace Sys2Proof

/-- A 32-bit register or instruction word (R15, R125). -/
abbrev Word := BitVec 32

/-- A 64-bit memory word or counter (R238). -/
abbrev Dword := BitVec 64

/-- A byte of the address space (R9). -/
abbrev Byte := BitVec 8

end Sys2Proof
end

