-- ==== Sys2Proof/Machine/Bits.lean ====
section
/-! DEFINITION. Bit fields, bytes and saturating counters: the helpers that every register and record layout of the
spec is read with. -/

namespace Sys2Proof.Machine

/-- The unsigned value of the `n` bits of `w` from bit `lo` up. -/
def fld (w : Word) (lo n : Nat) : Nat := w.toNat / 2 ^ lo % 2 ^ n

/-- The mask of `n` bits from bit `lo` up. -/
def fldMask (lo n : Nat) : Word := BitVec.ofNat 32 ((2 ^ n - 1) * 2 ^ lo)

/-- `w` with the `n` bits from bit `lo` up replaced by `v`. -/
def putFld (w : Word) (lo n v : Nat) : Word :=
  (w &&& ~~~ fldMask lo n) ||| BitVec.ofNat 32 (v % 2 ^ n * 2 ^ lo)

/-- The word of one set bit. -/
def bitMask (i : Nat) : Word := BitVec.ofNat 32 (2 ^ i)

/-- A number as a word. -/
def w32 (n : Nat) : Word := BitVec.ofNat 32 n

/-- A number as a double word. -/
def w64 (n : Nat) : Dword := BitVec.ofNat 64 n

/-- The double word of a low and a high word (R16: the low word lies lower). -/
def join64 (lo hi : Word) : Dword := hi ++ lo

/-- The low word of a double word. -/
def lo32 (d : Dword) : Word := BitVec.ofNat 32 d.toNat

/-- The high word of a double word. -/
def hi32 (d : Dword) : Word := BitVec.ofNat 32 (d.toNat / 2 ^ 32)

/-- A 32-bit count increased by `n`, saturating. -/
def satAdd (w : Word) (n : Nat) : Word := BitVec.ofNat 32 (min (w.toNat + n) (2 ^ 32 - 1))

/-- A count of at most `top`, increased by one. -/
def satTo (top n : Nat) : Nat := if n < top then n + 1 else top

/-- The `n` bytes of a number, least significant first (R9, R21). -/
def leBytes : Nat → Nat → List Byte
  | 0, _ => []
  | n + 1, v => BitVec.ofNat 8 v :: leBytes n (v / 256)

/-- The number that bytes spell, least significant first (R9, R21). -/
def ofLe : List Byte → Nat
  | [] => 0
  | b :: r => b.toNat + 256 * ofLe r

/-- `n` bytes from offset `o`. -/
def slice (b : List Byte) (o n : Nat) : List Byte := (b.drop o).take n

/-- The field of `n` bytes at offset `o`, least significant first. -/
def leAt (b : List Byte) (o n : Nat) : Nat := ofLe (slice b o n)

/-- The signed value of an `n`-bit field. -/
def signed (n v : Nat) : Int := if v % 2 ^ n < 2 ^ (n - 1) then (v % 2 ^ n : Nat) else (v % 2 ^ n : Nat) - (2 ^ n : Nat)

/-- The low `n` bits of an integer, as a number. -/
def unsign (n : Nat) (i : Int) : Nat := (i % (2 ^ n : Nat)).toNat

/-- A Boolean as the number 0 or 1. -/
def b2n (b : Bool) : Nat := if b then 1 else 0

/-- The numbers of the set bits of `w` below `n`, lowest first. -/
def bitsOf (n w : Nat) : List Nat := (List.range n).filter fun i => w.testBit i

/-- `f` applied for each element in turn, state first. -/
def forEach {σ α : Type} (l : List α) (s : σ) (f : σ → α → σ) : σ := l.foldl f s

end Sys2Proof.Machine
end

