-- ==== Sys2Proof/Syntax.lean ====
section
/-! DEFINITION. The commands of the block: one constructor of `Instr` per row of the opcode table, in the table's
order, with the row's operands. Operand types stand first. A command names a unit by its logical number: a core 0 to 127,
a cluster 0 to 15, a partition 0 to 7, a memory 0 to 144 (R297), a port 0 to 3, a mirror lane 0 or 1. -/

namespace Sys2Proof

/-- Bits [24:0] of an instruction word (R125); the command itself gives the opcode in [31:25]. -/
abbrev IsaFields := BitVec 25

/-- What is loaded into the TAP instruction register (R452, R462). The encodings lie in the BSDL file. -/
inductive TapInstr where
  | bypass | idcode | samplePreload | extest | clamp | highz | extestPulse | extestTrain
  | privateInstr
  deriving DecidableEq, Repr

/-- What a training run finds of the fitted memory: GiB per channel, two ranks or one, and the channels that fail,
each with its step of R304 (1 to 6). -/
structure MemFit where
  chGib : Nat
  ranks : Bool
  fails : List (Nat × Nat)
  deriving DecidableEq, Repr

/-- An engine that has a queue (R82, R95): a core sequencer, a Fennel engine, a DMA channel (cluster × 8 + channel), or
the commit lane of a partition. -/
inductive Engine where
  | seq (core : Nat) | fen (cluster : Nat) | dma (chan : Nat) | carr (part : Nat)
  deriving DecidableEq, Repr

/-- The compiled length of one command of a slot, and the arrays it names (R104). -/
structure ManifestSlot where
  len    : Nat
  arrays : BitVec 8
  deriving DecidableEq, Repr

/-- The group B commands of one job class: their work tiles as (instruction index, cycles) (R96). -/
structure ManifestClass where
  jclass : Nat
  tiles  : List (Nat × Nat)
  deriving DecidableEq, Repr

/-- What the manifest lists (R104, R109, R173, R394). The spec gives the manifest no byte layout, so a load command
carries it as data (DESIGN CHOICE, log entry 6). -/
structure Manifest where
  portable : Bool
  cores    : Nat
  contexts : List Nat
  objects  : List Nat
  handles  : List Nat
  slots    : List ManifestSlot
  groupB   : List ManifestClass
  images   : List (Nat × Nat)
  weightHandle : Nat
  descriptors  : List Nat
  bhash    : Dword
  deriving DecidableEq, Repr

/-- A Fennel op: its stream and its four words (R213). -/
structure FenOp where
  fstream : Bool
  w0 : Word
  w1 : Word
  w2 : Word
  w3 : Word
  deriving DecidableEq, Repr

/-- An Ethernet frame: `tci` the tag control information of a single C-tag, `badTag` a frame with TPID 0x88A8 or two tags
(R325), `etype` the EtherType after any tag, `body` the bytes after it, `len` the whole length with FCS. -/
structure EthFrame where
  dst    : BitVec 48
  src    : BitVec 48
  tci    : Option (BitVec 16)
  badTag : Bool
  etype  : BitVec 16
  body   : List Byte
  len    : Nat
  fcsOk  : Bool
  deriving DecidableEq, Repr

/-- A frame as it arrives: the port (0 to 3, or 4 + k for mirror lane k) and the raw counter at the recognition of its SFD
less the variable receive latency that the PCS measured (R328). -/
structure RxFrame where
  port  : Nat
  raw   : Dword
  frame : EthFrame
  deriving DecidableEq, Repr

/-- How an outbound request completes (R406). -/
inductive CplStatus where
  | success | unsupported | abort | poisoned
  deriving DecidableEq, Repr

/-- The PCIe configuration requests that have an effect the spec names (R400, R401, R405, R406, R458). -/
inductive CfgReq where
  /-- Resizable BAR control of BAR2: log2 of the size, 28 to 36. -/
  | resizeBar2 (log2 : Nat)
  | busMaster (on : Bool)
  /-- Completion Timeout Value of Device Control 2. -/
  | completionTimeout (value : BitVec 4)
  /-- Max_Read_Request_Size of Device Control: reads of 128 × 2^code bytes, code 0 to 5. -/
  | maxReadRequest (code : BitVec 3)
  /-- Power state: true is D3hot. -/
  | dState (d3hot : Bool)
  /-- Enter or leave a compliance pattern through Link Control 2. -/
  | compliance (on : Bool)
  /-- A configuration read, which changes nothing. -/
  | read
  deriving DecidableEq, Repr

/-- The commands (R434 to R484): one constructor per row of the opcode table. -/
inductive Instr where
  /-- PORST_N (R434): A low level on the power-on reset ball resets the whole device. -/
  | porstN (lowNs : Nat)
  /-- PERST_N (R434): The PCIe fundamental reset input holds the link in Detect and resets the PCIe function only. -/
  | perstN (level : Bool)
  /-- CHIP_RESET (R434): The two-word write sequence to SEC_CHIPRST requests a chip reset equal to a PORST_N pulse. -/
  | chipReset (value : Word)
  /-- RESET_RELEASE (R435): When a reset source ends, the straps are sampled, the raw counter is zeroed and registers take their reset values. -/
  | resetRelease (pairRole bootSrc : Bool)
  /-- BROWNOUT (R473): VDD_CORE or VDD_SRAM below range for more than 2 µs causes a chip reset. -/
  | brownout (ns : Nat)
  /-- TEMPERATURE_SENSOR_READ (R477): Every 100 µs each of the 17 temperature sensors is read. -/
  | temperatureSensorRead (temps : List (BitVec 16))
  /-- TAP_INSTRUCTION (R462): An instruction is loaded into the JTAG TAP instruction register. -/
  | tapInstruction (ir : TapInstr)
  /-- TAP_TEST_LOGIC_RESET (R462): The TAP returning to Test-Logic-Reset after an instruction other than BYPASS or IDCODE takes the device through a chip reset. -/
  | tapTestLogicReset
  /-- BOOT_FUSE_DONE (R443): Fuse sensing at two margins completes and the boot proceeds to LOAD. -/
  | bootFuseDone
  /-- BOOT_IMAGE_LOAD (R438): The image header of a flash copy or the host image has been read. -/
  | bootImageLoad (flash : List Byte)
  /-- BOOT_VERIFY_DONE (R442): The image checks and payload hash finish with an acceptance or a failure code. -/
  | bootVerifyDone (payload : List Byte)
  /-- BOOT_CONFIG (R441): Measurements are recorded, revocations applied and the configuration list written. -/
  | bootConfig
  /-- LPDDR6_TRAINING (R304): LPDDR6 training completes on every channel or fails on one. -/
  | lpddr6Training (fit : MemFit)
  /-- SEC_BOOTCTL_GO (R439): A GO write starts verification of the host-supplied image. -/
  | secBootctlGo
  /-- ARB_RAISE_REQUEST (R443): A write of TARGET to SEC_ARBREQ requests a raise of the anti-rollback counter. -/
  | arbRaiseRequest (target : BitVec 8)
  /-- ARB_RAISED (R443): The anti-rollback fuses have been blown and verified up to the target. -/
  | arbRaised
  /-- ARTIFACT_VERIFY (R447): A GO write to SEC_VCTL starts verification of an artifact image for a partition. -/
  | artifactVerify (part : Nat)
  /-- ARTIFACT_VERIFY_DONE (R447): Artifact verification ends, extending M4 + p, locking parts and writing SCH_MANp, or failing. -/
  | artifactVerifyDone
  /-- SEC_UNLOCK (R448): A write of a partition bit ends the lock on that partition's artifact parts. -/
  | secUnlock (parts : BitVec 8)
  /-- ATTEST_REPORT_REQUEST (R451): A GO write to SEC_ACTL requests an attestation report to a destination address. -/
  | attestReportRequest
  /-- ATTEST_REPORT_DONE (R450): The security controller finishes signing an attestation report and delivers it. -/
  | attestReportDone
  /-- SECURITY_WATCHDOG_EXPIRY (R429): A security operation exceeding 500 ms restarts the controller from its service entry. -/
  | securityWatchdogExpiry
  /-- MEMORY_BIST_START (R455): A GO write to TST_MBCTL starts March C− BIST on named banks. -/
  | memoryBistStart (mem : Nat) (banks : BitVec 16)
  /-- MEMORY_BIST_DONE (R455): BIST completes, recording failing words and NFAIL. -/
  | memoryBistDone (fails : List (BitVec 20))
  /-- TST_MEMCTL_OFF (R460): OFF takes LPDDR6 out of service into self-refresh when the state allows. -/
  | tstMemctlOff
  /-- TST_MEMCTL_ON (R460): ON returns LPDDR6 to service with retraining. -/
  | tstMemctlOn (fit : MemFit)
  /-- PWR_REQ_RUN (R479): A GLB_PWRCTL request for the RUN state is checked and accepted or refused. -/
  | pwrReqRun
  /-- PWR_REQ_FENCED (R479): A GLB_PWRCTL request for the FENCED state is checked and accepted or refused. -/
  | pwrReqFenced
  /-- PWR_REQ_QUIESCE (R479): A GLB_PWRCTL request for the QUIESCE state is checked and accepted or refused. -/
  | pwrReqQuiesce
  /-- PWR_STATE (R480): A power-state transition completes and PWR_STATE is logged. -/
  | pwrState
  /-- TB_COMMIT_TIME (R49): Committing the TIME group applies rate and offset in the next cycle, continuously if CONT is set. -/
  | tbCommitTime
  /-- TB_COMMIT_PH (R75): Committing the PH group applies the phase-clock configuration in the next cycle. -/
  | tbCommitPh
  /-- TB_COMMIT_EVT (R66): Committing the EVT group checks the event list and makes it pending. -/
  | tbCommitEvt
  /-- EVENT_LIST_TAKES_EFFECT (R66): At the first phase wrap after acceptance the pending event list becomes active and W is zeroed. -/
  | eventListTakesEffect
  /-- TB_SNAP_TAKE (R75): A write of TAKE latches raw counter, disciplined time and phase of one cycle. -/
  | tbSnapTake
  /-- TB_COAST_END (R72): A write requests the end of coasting for named partitions. -/
  | tbCoastEnd (parts : BitVec 8)
  /-- PHASE_WRAP (R53): The phase accumulator passes through zero and the wrap counter W increments. -/
  | phaseWrap
  /-- PHASE_IN_EDGE (R55): A level change arrives on a PHASE_IN input and enters the synchroniser and glitch filter. -/
  | phaseInEdge (pin : Nat) (level : Bool)
  /-- CANDIDATE_EDGE (R56): A filtered, divided edge is compensated and accepted or rejected by the loop state. -/
  | candidateEdge (pin : Nat)
  /-- PHASE_MISS (R56): A wrap or window passes with no accepted edge and a miss is counted. -/
  | phaseMiss
  /-- PHASE_TRIGGER (R63): A PHASE event entry's trigger phase is reached in a selected period and the entry fires. -/
  | phaseTrigger (entry : Nat)
  /-- TIME_TRIGGER (R64): Disciplined time reaches a TIME entry's next trigger instant and the entry fires. -/
  | timeTrigger (entry : Nat)
  /-- PULSE_END (R65): The PULSE width count expires and TB_PPS_OUT returns low. -/
  | pulseEnd
  /-- EFFECTIVE_ANCHOR (R68): After running atomic commands finish, the effective anchor settles the previous frame with slip S. -/
  | effectiveAnchor (part group : Nat)
  /-- PHASE_COAST_END (R72): Coasting ends once the main and coast clocks agree with no trigger between them. -/
  | phaseCoastEnd (part : Nat)
  /-- SLOT_START (R83): A Sedge slot reaches its start cycle on its engine. -/
  | slotStart (part slot : Nat)
  /-- SLOT_END (R83): A slot reaches its planned end or FEN deadline and its running commands end. -/
  | slotEnd (part slot : Nat)
  /-- SEQ_INSTANCE_START (R94): A SEQ instance position starts, writing g28 to g31 and QMASK before its first instruction. -/
  | seqInstanceStart (core part slot pos : Nat)
  /-- GROUP_B_TILE_START (R96): A group B work tile starts in a gap in which it fits; `gap` is the sender's notion of the gap, in cycles. -/
  | groupBTileStart (part slot : Nat) (eng : Engine) (gap : Nat)
  /-- COMMAND_WATCHDOG_EXPIRY (R427): A command holding its engine for twice its compiled length is torn down. -/
  | commandWatchdogExpiry (eng : Engine)
  /-- SCH_TDREQ_WRITE (R101): A write of a context number to SCH_TDREQ requests its teardown. -/
  | schTdreqWrite (value : Word)
  /-- REEDBED_WRITE (R90): A write to a Reedbed entry word is applied, or ignored and counted while ACTIVE is 1. -/
  | reedbedWrite (ctx word : Nat) (value : Word) (be : BitVec 4)
  /-- SCH_COMMIT_LOAD (R104): A LOAD write for a partition starts the admission checks. -/
  | schCommitLoad (parts : BitVec 8) (man : Manifest)
  /-- ADMISSION_DONE (R105): The admission checks finish, accepting the load or refusing it with a code. -/
  | admissionDone
  /-- TABLE_APPLIED (R107): At the first HP anchor after acceptance the pending partition set becomes active. -/
  | tableApplied (part : Nat)
  /-- BEST_EFFORT_TABLE_APPLY (R79): A best-effort table applies in the first cycle with no atomic or privileged command running. -/
  | bestEffortTableApply (part : Nat)
  /-- SPILL_MOVE_DONE (R321): A service channel finishes spilling a displaced group B handle to LPDDR6. -/
  | spillMoveDone (part handle unit : Nat)
  /-- SCH_COMMIT_UNLOAD (R108): An UNLOAD write requests removal of a partition at its next HP anchor. -/
  | schCommitUnload (parts : BitVec 8)
  /-- PARTITION_UNLOAD (R108): At the HP anchor the partition is removed, its contexts inactive and non-retained handles freed. -/
  | partitionUnload (part : Nat)
  /-- SCH_HOTREQ_GO (R111): A GO write requests a hot-set model swap, accepted or refused with a code. -/
  | schHotreqGo (part model : Nat)
  /-- HOTSET_RESIDENT_NONE (R111): At the next HP anchor RESIDENT becomes none and reloads start. -/
  | hotsetResidentNone (part : Nat)
  /-- HOTSET_RELOAD_DONE (R321): The service channel of a cluster completes reloading the weight handle. -/
  | hotsetReloadDone (cluster : Nat)
  /-- HOTSET_SWAPPED (R111): At the first HP anchor after all clusters complete, RESIDENT is set. -/
  | hotsetSwapped (part : Nat)
  /-- BEST_EFFORT_POLL_TIMER (R409): With every partition best-effort, a command-ring poll is made every 200,000 cycles. -/
  | bestEffortPollTimer
  /-- RING_WRITEBACK (R413): After the slot, DONE, CODE, DONEFC and CONS are written back and the ring vector raised. -/
  | ringWriteback
  /-- ALU (R128): Register-register integer operation selected by func. -/
  | alu (core : Nat) (f : IsaFields)
  /-- ADDI (R128): Add immediate. -/
  | addi (core : Nat) (f : IsaFields)
  /-- ANDI (R128): AND immediate. -/
  | andi (core : Nat) (f : IsaFields)
  /-- ORI (R128): OR immediate. -/
  | ori (core : Nat) (f : IsaFields)
  /-- XORI (R128): XOR immediate. -/
  | xori (core : Nat) (f : IsaFields)
  /-- SHI (R128): Shift by immediate amount. -/
  | shi (core : Nat) (f : IsaFields)
  /-- SLTI (R128): Set if signed less than immediate. -/
  | slti (core : Nat) (f : IsaFields)
  /-- SLTIU (R128): Set if unsigned less than immediate. -/
  | sltiu (core : Nat) (f : IsaFields)
  /-- LIH (R128): Load immediate high. -/
  | lih (core : Nat) (f : IsaFields)
  /-- CSEL (R128): Conditional select of a general register. -/
  | csel (core : Nat) (f : IsaFields)
  /-- MUL (R131): Integer multiply with fixed or operand-dependent latency. -/
  | mul (core : Nat) (f : IsaFields)
  /-- DIV (R132): Integer divide or remainder in 18 cycles with defined special cases. -/
  | div (core : Nat) (f : IsaFields)
  /-- DEC (R134): Packed-decimal add or subtract on register pairs. -/
  | dec (core : Nat) (f : IsaFields)
  /-- LB (R128): Load signed byte. -/
  | lb (core : Nat) (f : IsaFields)
  /-- LBU (R128): Load unsigned byte. -/
  | lbu (core : Nat) (f : IsaFields)
  /-- LH (R128): Load signed halfword. -/
  | lh (core : Nat) (f : IsaFields)
  /-- LHU (R128): Load unsigned halfword. -/
  | lhu (core : Nat) (f : IsaFields)
  /-- LW (R128): Load word. -/
  | lw (core : Nat) (f : IsaFields)
  /-- LWP (R128): 64-bit load to a register pair. -/
  | lwp (core : Nat) (f : IsaFields)
  /-- FLW (R128): Load binary32 to a floating register. -/
  | flw (core : Nat) (f : IsaFields)
  /-- FLD (R128): Load 64 bits to a floating register. -/
  | fld (core : Nat) (f : IsaFields)
  /-- SB (R279): Store byte by read-modify-write into the pod buffer. -/
  | sb (core : Nat) (f : IsaFields)
  /-- SH (R279): Store halfword by read-modify-write. -/
  | sh (core : Nat) (f : IsaFields)
  /-- SW (R279): Store word by read-modify-write. -/
  | sw (core : Nat) (f : IsaFields)
  /-- SWP (R128): 64-bit store of a register pair. -/
  | swp (core : Nat) (f : IsaFields)
  /-- FSW (R279): Store binary32 by read-modify-write. -/
  | fsw (core : Nat) (f : IsaFields)
  /-- FSD (R128): Store 64 bits of a floating register. -/
  | fsd (core : Nat) (f : IsaFields)
  /-- BR_EQ (R128): Branch if equal. -/
  | brEq (core : Nat) (f : IsaFields)
  /-- BR_NE (R128): Branch if not equal. -/
  | brNe (core : Nat) (f : IsaFields)
  /-- BR_LT (R128): Branch if signed less. -/
  | brLt (core : Nat) (f : IsaFields)
  /-- BR_GE (R128): Branch if signed greater or equal. -/
  | brGe (core : Nat) (f : IsaFields)
  /-- BR_LTU (R128): Branch if unsigned less. -/
  | brLtu (core : Nat) (f : IsaFields)
  /-- BR_GEU (R128): Branch if unsigned greater or equal. -/
  | brGeu (core : Nat) (f : IsaFields)
  /-- CALL (R128): Call by relative offset, saving the return index. -/
  | call (core : Nat) (f : IsaFields)
  /-- CALLR (R128): Call to a register-computed index. -/
  | callr (core : Nat) (f : IsaFields)
  /-- LOOP (R151): Set up a hardware loop. -/
  | loop (core : Nat) (f : IsaFields)
  /-- END (R120): End of a sequencer command. -/
  | seqEnd (core : Nat) (f : IsaFields)
  /-- END_COMPLETE (R120): END completes once earlier instructions and pending FBAR snapshots complete. -/
  | endComplete (core : Nat)
  /-- IDLE (R128): Timed idle of a given number of cycles. -/
  | idle (core : Nat) (f : IsaFields)
  /-- NOP (R128): No operation. -/
  | nop (core : Nat) (f : IsaFields)
  /-- FBAR (R142): Flag barrier that schedules a sticky-bit snapshot 20 cycles later. -/
  | fbar (core : Nat) (f : IsaFields)
  /-- FBAR_SNAPSHOT (R142): The FBAR snapshot of sticky bits is taken. -/
  | fbarSnapshot (core : Nat)
  /-- CSR (R123): Read, write, set or clear a core status register. -/
  | csr (core : Nat) (f : IsaFields)
  /-- ERET (R143): Return from a trap handler to EPC. -/
  | eret (core : Nat) (f : IsaFields)
  /-- BRK (R140): Breakpoint trap, a NOP in a real-time partition. -/
  | brk (core : Nat) (f : IsaFields)
  /-- COR_TRAP_CLR (R143): A write discards the oldest halted command and releases its class. -/
  | corTrapClr (core : Nat)
  /-- RESERVED_ENCODING (R127): A reserved encoding executes as a NOP setting ILL, or traps in best-effort. -/
  | reservedEncoding (core : Nat) (word : Word)
  /-- FOP (R135): Scalar floating operation selected by func. -/
  | fop (core : Nat) (f : IsaFields)
  /-- FMADD (R128): Fused multiply-add. -/
  | fmadd (core : Nat) (f : IsaFields)
  /-- FMSUB (R128): Fused multiply-subtract. -/
  | fmsub (core : Nat) (f : IsaFields)
  /-- FNMADD (R128): Negated fused multiply-add. -/
  | fnmadd (core : Nat) (f : IsaFields)
  /-- FNMSUB (R128): Negated fused multiply-subtract. -/
  | fnmsub (core : Nat) (f : IsaFields)
  /-- FCMP (R138): Floating comparison into a general register. -/
  | fcmp (core : Nat) (f : IsaFields)
  /-- FCVT (R137): Floating or integer conversion. -/
  | fcvt (core : Nat) (f : IsaFields)
  /-- FMV (R138): Move or classify between register files. -/
  | fmv (core : Nat) (f : IsaFields)
  /-- FSEL (R128): Conditional select of a floating register. -/
  | fsel (core : Nat) (f : IsaFields)
  /-- VLD (R144): Row-unit load of 64 bytes through the wide view. -/
  | vld (core : Nat) (f : IsaFields)
  /-- VST (R144): Row-unit store of 64 bytes through the wide view. -/
  | vst (core : Nat) (f : IsaFields)
  /-- VOP (R145): Lanewise row-unit operation. -/
  | vop (core : Nat) (f : IsaFields)
  /-- VQ8 (R191): Quantising conversion of 16 lanes into INT8 or INT4 codes. -/
  | vq8 (core : Nat) (f : IsaFields)
  /-- VFMA (R128): Lanewise fused multiply-add. -/
  | vfma (core : Nat) (f : IsaFields)
  /-- VRED (R145): Fixed-tree sum or maximum of a row register. -/
  | vred (core : Nat) (f : IsaFields)
  /-- VRAND (R202): Counter-based random lanes. -/
  | vrand (core : Nat) (f : IsaFields)
  /-- AMM (R146): Array multiply-accumulate from a descriptor. -/
  | amm (core : Nat) (f : IsaFields)
  /-- ACCUMULATORS_COMPLETE (R157): An AMM's accumulators complete 20 cycles after its busy length. -/
  | accumulatorsComplete (core array : Nat)
  /-- AST (R147): Accumulator store draining named arrays to wide rows. -/
  | ast (core : Nat) (f : IsaFields)
  /-- DMAGO (R148): Start a descriptor chain on a DMA channel of the own cluster. -/
  | dmago (core : Nat) (f : IsaFields)
  /-- SIG (R149): Post a SIGNAL to a synchronisation object. -/
  | sig (core : Nat) (f : IsaFields)
  /-- WAIT (R149): Post a WAIT on a synchronisation object. -/
  | wait (core : Nat) (f : IsaFields)
  /-- SEQ_WAIT_MET (R149): A stalled best-effort WAIT is met and the sequencer resumes. -/
  | seqWaitMet (core : Nat)
  /-- SRST (R149): Post a RESET to a synchronisation object. -/
  | srst (core : Nat) (f : IsaFields)
  /-- DLAYER (R150): Close the current digest layer. -/
  | dlayer (core : Nat) (f : IsaFields)
  /-- SYNC_OBJECT_ARRIVAL (R39): SIGNALs, WAITs and RESETs reach an object and are applied in fixed order. -/
  | syncObjectArrival (obj : Nat)
  /-- FENNEL_COMMAND_START (R222): A Fennel solve command starts, reading the revision word and state row. -/
  | fennelCommandStart (cluster part slot pos : Nat)
  /-- FEN_BPROD (R213): Block product on a granted array. -/
  | fenBprod (cluster : Nat) (op : FenOp)
  /-- FEN_BMV (R213): Block matrix-vector product. -/
  | fenBmv (cluster : Nat) (op : FenOp)
  /-- FEN_VOP (R214): Lane or reduction unit operation. -/
  | fenVop (cluster : Nat) (op : FenOp)
  /-- FEN_VLD (R213): Load half a row into a vector register. -/
  | fenVld (cluster : Nat) (op : FenOp)
  /-- FEN_VST (R213): Store a vector register to half a row. -/
  | fenVst (cluster : Nat) (op : FenOp)
  /-- FEN_DLD (R213): Load a block register. -/
  | fenDld (cluster : Nat) (op : FenOp)
  /-- FEN_DST (R213): Store a block register. -/
  | fenDst (cluster : Nat) (op : FenOp)
  /-- FEN_PIV (R219): Guarded pivot elimination of one column. -/
  | fenPiv (cluster : Nat) (op : FenOp)
  /-- FEN_LINV (R213): One column of the inverse unit lower triangle. -/
  | fenLinv (cluster : Nat) (op : FenOp)
  /-- FEN_RES (R226): Residual judgement of the iterate. -/
  | fenRes (cluster : Nat) (op : FenOp)
  /-- FEN_INF (R227): Infeasibility test of the iterate. -/
  | fenInf (cluster : Nat) (op : FenOp)
  /-- FEN_PUB (R228): Publish an iterate into a free solution area. -/
  | fenPub (cluster : Nat) (op : FenOp)
  /-- FEN_BODY (R213): Marks the start of the iteration body. -/
  | fenBody (cluster : Nat) (op : FenOp)
  /-- FEN_NEXT (R216): Ends one body, counting the iteration and starting the next. -/
  | fenNext (cluster : Nat) (op : FenOp)
  /-- FEN_END (R215): End of an op stream. -/
  | fenEnd (cluster : Nat) (op : FenOp)
  /-- FENNEL_DEADLINE (R230): The instance deadline arrives and the provisional result is committed. -/
  | fennelDeadline (cluster part slot pos : Nat)
  /-- CLU_CALCOMMIT (R198): A commit of the calibration configuration group is checked. -/
  | cluCalcommit (cluster : Nat)
  /-- CALCFG_APPLY (R198): The committed calibration group applies at the HP anchor. -/
  | calcfgApply (cluster : Nat)
  /-- CLU_CALCLR (R197): A write clears an entry's running counts. -/
  | cluCalclr (cluster : Nat) (entries : Word)
  /-- CLU_CALCLOSE (R194): A write closes an entry's calibration window in the next cycle. -/
  | cluCalclose (cluster : Nat) (entries : Word)
  /-- CALIB_WINDOW_CLOSE (R194): The anchor count reaches the window length and the window closes. -/
  | calibWindowClose (cluster entry : Nat)
  /-- POD_NORMAL_DRAIN (R245): A pod entry drains into its row when its sub-bank write is free. -/
  | podNormalDrain (core : Nat)
  /-- CORRECTION_WRITE_BACK (R278): In an idle cycle the oldest queued corrected word is written back. -/
  | correctionWriteBack (mem bank : Nat)
  /-- SCRUB_READ (R289): In an idle cycle the scrubber reads and decodes the row at its pointer. -/
  | scrubRead (mem bank : Nat)
  /-- SCRUB_WRITE (R289): In a later idle cycle the scrubber writes corrected words. -/
  | scrubWrite (mem bank : Nat)
  /-- LPDDR6_SCRUB_READ (R292): After IVL × 100 ns the LPDDR6 scrubber reads one 64-byte unit. -/
  | lpddr6ScrubRead
  /-- ECC_RMCOMMIT (R295): A remap commit is checked and accepted or rejected. -/
  | eccRmcommit (mem : Nat)
  /-- REMAP_ADDED (R294): In the bank's first idle cycle the word is copied to a spare and the entry becomes valid. -/
  | remapAdded (mem : Nat)
  /-- ECC_INJECT_ARM (R296): Setting ARM corrupts the next write of the chosen word. -/
  | eccInjectArm (mem : BitVec 8)
  /-- SPD_PGCTL_POWER_DOWN (R263): A power-down request for banks is checked and the banks start closing. -/
  | spdPgctlPowerDown (mem : Nat) (banks : BitVec 16)
  /-- SPD_PGCTL_POWER_UP (R263): A power-up request makes off banks waking. -/
  | spdPgctlPowerUp (mem : Nat) (banks : BitVec 16)
  /-- BANK_OFF (R264): A closing bank with nothing in flight, in the pod or held turns off. -/
  | bankOff (mem bank : Nat)
  /-- BANK_PD_ABORT (R264): A power-down that does not complete in 4,096 cycles is abandoned. -/
  | bankPdAbort (mem bank : Nat)
  /-- BANK_WAKE_DONE (R266): After 64 waking cycles the bank is on with undefined contents. -/
  | bankWakeDone (mem bank : Nat)
  /-- DMA_CHCTL_GO (R320): A host GO starts a variable chain on an idle channel. -/
  | dmaChctlGo (cluster chan didx : Nat)
  /-- DMA_CHCTL_STOP (R320): STOP ends a running or waiting chain. -/
  | dmaChctlStop (cluster chan : Nat)
  /-- DMA_CHCTL_RESUME (R320): RESUME reruns the halted descriptor from its start. -/
  | dmaChctlResume (cluster chan : Nat)
  /-- DMA_CHCTL_SKIP (R320): SKIP moves a halted channel to NEXT or idle. -/
  | dmaChctlSkip (cluster chan : Nat)
  /-- DMA_CHCTL_CLEAR (R320): CLEAR makes a halted channel idle. -/
  | dmaChctlClear (cluster chan : Nat)
  /-- DMA_NOP (R309): A NOP descriptor. -/
  | dmaNop (cluster chan : Nat)
  /-- DMA_COPY (R309): A COPY descriptor moving runs from source to destination. -/
  | dmaCopy (cluster chan : Nat)
  /-- DMA_FILL (R309): A FILL descriptor writing a repeated pattern. -/
  | dmaFill (cluster chan : Nat)
  /-- DMA_SIGNAL (R309): A SIGNAL descriptor. -/
  | dmaSignal (cluster chan : Nat)
  /-- DMA_WAIT (R315): A WAIT descriptor evaluating an object. -/
  | dmaWait (cluster chan : Nat)
  /-- DMA_WAIT_MET (R315): A re-evaluated WAIT descriptor is met and the chain continues. -/
  | dmaWaitMet (cluster chan : Nat)
  /-- DMA_RESET (R309): A RESET descriptor. -/
  | dmaReset (cluster chan : Nat)
  /-- DMA_DESCRIPTOR_COMPLETE (R309): A descriptor's last write completes, posting SIGC and going to NEXT or ending. -/
  | dmaDescriptorComplete (cluster chan : Nat)
  /-- DMA_WATCHDOG_EXPIRY (R319): A channel without progress for WDT × 1,024 cycles halts with DMA_WDOG. -/
  | dmaWatchdogExpiry (cluster chan : Nat)
  /-- LPDDR6_REQUEST_COMPLETE (R306): The controller completes a 64-byte request. -/
  | lpddr6RequestComplete (unit : Nat) (write partialWord : Bool)
  /-- LPDDR6_ZQ_LATCH (R305): Every 32 ms a background ZQ latch command is issued. -/
  | lpddr6ZqLatch
  /-- LPDDR6_OSC_READ (R305): Every 100 ms the WCK-to-DQ oscillator is read. -/
  | lpddr6OscRead (drift : Bool)
  /-- LPDDR6_TEMP_READ (R305): Every 16 ms the memory temperature report sets the refresh multiplier. -/
  | lpddr6TempRead (chan : Nat) (mult : BitVec 4)
  /-- LPDDR6_POWER_DOWN_ENTRY (R305): A channel idle for PDIDLE × 100 ns enters power-down. -/
  | lpddr6PowerDownEntry (chan : Nat)
  /-- ETH_LINK (R327): A port's link goes up or down. -/
  | ethLink (port : Nat) (up : Bool)
  /-- ETH_COMMIT (R327): A commit of the port group is checked and made pending. -/
  | ethCommit (port : Nat)
  /-- ETH_GROUP_APPLY (R327): The accepted port group applies in the first frame gap, restarting the link if needed. -/
  | ethGroupApply (port : Nat)
  /-- ETH_FRAME (R326): A received non-Carr frame is filtered and passed to the host receive ring. -/
  | ethFrame (rx : RxFrame)
  /-- PAUSE_FRAME (R326): A received MAC Control frame is counted and discarded. -/
  | pauseFrame (rx : RxFrame)
  /-- MEAS (R345): A received MEAS frame is checked and placed into a context's fill half. -/
  | meas (rx : RxFrame)
  /-- MEAS_PLACEMENT_DONE (R346): The last placement write completes and the input object is signalled. -/
  | measPlacementDone (ctx job : Nat)
  /-- RD (R349): A received RD transaction is served under a TXN entry. -/
  | rd (rx : RxFrame)
  /-- WR (R349): A received WR transaction is executed under a TXN entry. -/
  | wr (rx : RxFrame)
  /-- WR_COMPLETE (R349): A WR's last write completes and it is answered with an ACK. -/
  | wrComplete (txn : Nat)
  /-- ACK (R351): A received ACK is matched to an outstanding request. -/
  | ack (rx : RxFrame)
  /-- NAK (R351): A received NAK fails the matching request. -/
  | nak (rx : RxFrame)
  /-- PHASE (R338): A received PHASE message is passed to the host ring. -/
  | phase (rx : RxFrame)
  /-- HELLO (R358): A received HELLO negotiates the schema version and is answered. -/
  | hello (rx : RxFrame)
  /-- HELLO_SEND_TIMER (R358): When a peer's port comes up and once a second until it answers, a HELLO is sent. -/
  | helloSendTimer (peer : Nat)
  /-- ATTEST (R359): A received ATTEST request is passed to the security controller or answered NAK BUSY. -/
  | attest (rx : RxFrame)
  /-- CARR_REQUEST_TIMEOUT (R351): A request unanswered for TXTO µs is resent, or fails after the third timeout. -/
  | carrRequestTimeout (peer : Nat) (seq : Word)
  /-- CARR_COMMIT_PARSE (R341): A commit of the Carr parse group is checked and applies to later frames. -/
  | carrCommitParse
  /-- CARR_OUTPUT_COMMIT (R356): A CARR slot instance builds an output frame and enters it in a launch queue. -/
  | carrOutputCommit (part slot pos : Nat)
  /-- LAUNCH_SELECT (R333): An idle port selects the due head of the highest queue, or drops it late. -/
  | launchSelect (port : Nat)
  /-- FRAME_TRANSMITTED (R335): A frame's transmission ends and its transmit stamp is recorded. -/
  | frameTransmitted (port : Nat) (rawRef : Dword)
  /-- HOST_TX_RING_POLL (R360): Every HPOLL µs the next host transmit entry is read. -/
  | hostTxRingPoll
  /-- MIR_LANE (R364): A mirror lane goes up or down. -/
  | mirLane (lane : Nat) (up : Bool)
  /-- HB (R371): A received heartbeat updates pair state and drive arbitration. -/
  | hb (rx : RxFrame)
  /-- HEARTBEAT_MISS (R388): No heartbeat arrives within HBWIN after the anchor and a miss is counted. -/
  | heartbeatMiss
  /-- DIGEST (R384): A received digest record is matched and compared with the own record. -/
  | digest (rx : RxFrame)
  /-- CMPWIN_EXPIRY (R384): CMPWIN µs pass after the own STEPSUM without the partner's and the verdict is MISSING. -/
  | cmpwinExpiry (ctx job : Nat)
  /-- MIRROR_FRAME_SEND (R370): A DIGEST, INOTE or FWDREQ frame is sent when full or after 500 ns. -/
  | mirrorFrameSend (sub : Nat)
  /-- INOTE (R381): A received input notice is compared with the own placement. -/
  | inote (rx : RxFrame)
  /-- FORWARD_WAIT_EXPIRY (R381): FWDWAIT expires with the SEQ unplaced and a FWDREQ is sent. -/
  | forwardWaitExpiry (ctx job : Nat) (seq : Word)
  /-- FWDREQ (R382): A received forward request is answered with a FWD. -/
  | fwdreq (rx : RxFrame)
  /-- FWD (R382): A received forwarded input is checked and placed. -/
  | fwd (rx : RxFrame)
  /-- FWD_FRAGMENT_TIMEOUT (R383): A partial FWD item without its second fragment for 10 µs is discarded. -/
  | fwdFragmentTimeout (lane : Nat)
  /-- MIRROR_RD (R369): An RD on the mirror link is served over the whole address map without side effects. -/
  | mirrorRd (rx : RxFrame)
  /-- MIR_CTL_HANDOVER (R391): HANDOVER starts a drive handover at heartbeat anchors. -/
  | mirCtlHandover
  /-- MIR_CTL_TAKE (R391): TAKE makes a standby part take the drive. -/
  | mirCtlTake
  /-- MIR_CTL_YIELD (R391): YIELD makes a driving part give up the drive. -/
  | mirCtlYield
  /-- MIR_COMMIT (R399): A commit of the mirror group is checked and made pending. -/
  | mirCommit
  /-- MIR_GROUP_APPLY (R399): The mirror group applies at the next heartbeat anchor, or at once when EN is 0. -/
  | mirGroupApply
  /-- MIR_DIVCLR (R386): A write re-arms the divergence capture. -/
  | mirDivclr
  /-- REG64_LOW_READ (R16): A read of a 64-bit register's low word loads its high-word latch. -/
  | reg64LowRead (off : Nat)
  /-- RC_REGISTER_READ (R18): A read of an RC field returns and clears it. -/
  | rcRegisterRead (off : Nat)
  /-- REGISTER_WRITE (R18): A write to a register without its own row, by access type or to a staged shadow. -/
  | registerWrite (off : Nat) (value : Word) (be : BitVec 4)
  /-- BAR2_READ (R403): An inbound BAR2 read through the host window. -/
  | bar2Read (off len : Nat)
  /-- BAR2_WRITE (R403): An inbound BAR2 write through the host window. -/
  | bar2Write (off : Nat) (data : List (Option Byte)) (ep : Bool)
  /-- INBOUND_WAIT_EXPIRY (R404): A BAR2 request waiting IWAIT µs for its grant is ended. -/
  | inboundWaitExpiry (isRead : Bool)
  /-- PCIE_FLR (R407): A function-level reset resets the PCIe function only. -/
  | pcieFlr
  /-- PCIE_HOT_RESET (R407): A hot reset resets the PCIe function only. -/
  | pcieHotReset
  /-- PCIE_LINK (R407): The PCIe link goes down or up. -/
  | pcieLink (up : Bool) (speed width : Nat)
  /-- OUTBOUND_COMPLETION (R406): An outbound request's completion arrives, succeeding or failing by status. -/
  | outboundCompletion (tag : Nat) (status : CplStatus) (data : List Byte)
  /-- OUTBOUND_COMPLETION_TIMEOUT (R406): An outbound request's completion times out and the request fails. -/
  | outboundCompletionTimeout (tag : Nat)
  /-- LOG_RECORD_WRITE (R423): The log writer writes the oldest queued record to the ring when there is room. -/
  | logRecordWrite
  /-- LOG_COALESCE_EXPIRY (R424): COAL × 10 µs after the oldest unsignalled record, VEC is raised. -/
  | logCoalesceExpiry
  /-- GLB_COMMIT_LOG (R425): A commit of the log group is checked and made pending. -/
  | glbCommitLog
  /-- LOG_GROUP_APPLY (R425): The log group applies when no record is in flight. -/
  | logGroupApply
  /-- GLB_ESCCLR (R426): A write ends the escalation of one unit and returns its run to 0. -/
  | glbEscclr (value : Word)
  /-- GLB_HOSTHB (R430): A host liveness write restarts the liveness limit. -/
  | glbHosthb
  /-- HOST_SILENT (R430): LIMIT ms without a GLB_HOSTHB write logs HOST_SILENT. -/
  | hostSilent
  /-- REG64_HIGH_READ (R16): A read of a 64-bit register's high word returns the latched value and empties the latch, or returns the current value when the latch is empty. -/
  | reg64HighRead (off : Nat)
  /-- PCIE_CONFIG_REQUEST (R401): A PCIe configuration request resizes BAR2, sets Bus Master Enable, the completion timeout value, the D-state or compliance mode through Link Control 2. -/
  | pcieConfigRequest (req : CfgReq)
  /-- DMA_INSTANCE_POSITION_START (R312): In the first cycle of each instance position of a DMA slot, a chain starts on channel UNIT mod 8 at ENTRY, or is refused and counted in DMA_BUSYST. -/
  | dmaInstancePositionStart (part slot pos : Nat)
  /-- UNK_TYPE_FRAME (R353): A received Carr frame of an unknown or non-receivable type is checked, logged as UNK_TYPE and dropped or answered NAK UNK_TYPE. -/
  | unkTypeFrame (rx : RxFrame)
  /-- LINK_CHECKER_LOCK (R456): A lane's pattern checker locks after 64 error-free bits and sets TST_LSTAT.LOCK, counting errors from then on. -/
  | linkCheckerLock (lane : Nat)
  deriving DecidableEq, Repr

end Sys2Proof
end

