-- ==== Sys2Proof/Machine/Operands.lean ====
section
/-! DEFINITION. The operand forms of the core instruction set (R125) and the encodings it reserves (R127). -/

namespace Sys2Proof.Machine

/-- The instruction word of a command: its opcode above the fields it carries (R125). -/
def isaWord (op : Nat) (f : IsaFields) : Word := BitVec.ofNat 7 op ++ f

namespace Isa

/-- The opcode, [31:25]. -/
def op (w : Word) : Nat := fld w 25 7
/-- rd, and the data register of a store, [24:20]. -/
def rd (w : Word) : Nat := fld w 20 5
/-- rs1, the base of a store, and the second register of a branch, [19:15]. -/
def rs1 (w : Word) : Nat := fld w 15 5
/-- rs2, and fs of the V form, [14:10]. -/
def rs2 (w : Word) : Nat := fld w 10 5
/-- func, [9:0]. -/
def func (w : Word) : Nat := fld w 0 10
/-- The 15-bit immediate or branch offset, sign-extended. -/
def imm (w : Word) : Int := signed 15 (fld w 0 15)
/-- The 20-bit immediate of the U form, sign-extended. -/
def imm20 (w : Word) : Int := signed 20 (fld w 0 20)
/-- The 10-bit immediate of VLD and VST, sign-extended. -/
def imm10 (w : Word) : Int := signed 10 (fld w 0 10)
/-- The third register, [9:5]. -/
def r3 (w : Word) : Nat := fld w 5 5
/-- rm of the R form of floating instructions, func[9:7]; their fmt, func[6]; their selector, func[5:0]. -/
def rmR (w : Word) : Nat := fld w 7 3
def fmtR (w : Word) : Nat := fld w 6 1
def sel (w : Word) : Nat := fld w 0 6
/-- rm and fmt of the R4 form. -/
def rm4 (w : Word) : Nat := fld w 2 3
def fmt4 (w : Word) : Nat := fld w 1 1
/-- vd, va and vb of the V form. -/
def vd (w : Word) : Nat := fld w 22 3
def va (w : Word) : Nat := fld w 15 3
def vb (w : Word) : Nat := fld w 10 3
/-- AMASK and rs1 of the A form. -/
def amask (w : Word) : Nat := fld w 17 8
def rsA (w : Word) : Nat := fld w 12 5
/-- AMOUNT, OBJ, CH, DIDX and LAYER of the X form. -/
def amount (w : Word) : Nat := fld w 17 8
def obj (w : Word) : Nat := fld w 0 14
def ch (w : Word) : Nat := fld w 22 3
def didx (w : Word) : Nat := fld w 0 12
def layer (w : Word) : Nat := fld w 0 8

/-- The bits below the opcode that an instruction reads (R127: every other bit is required to be 0). R125 gives every floating instruction of the R
form its rm and its fmt, whatever its operation (DEDUCED, log entry 23). -/
def usedBits (w : Word) : Nat :=
  let RD := 0x1F00000
  let R1 := 0xF8000
  let R2 := 0x7C00
  let I := 0x7FFF
  match op w with
  | 0x01 => RD + R1 + R2 + 0xF
  | 0x02 | 0x03 | 0x04 | 0x05 | 0x07 | 0x08 => RD + R1 + I
  | 0x06 => RD + R1 + 0x601F
  | 0x09 | 0x26 => RD + 0xFFFFF
  | 0x0A | 0x38 => RD + R1 + R2 + 0x3E0
  | 0x0B | 0x0C => RD + R1 + R2 + 3
  | 0x0D => RD + R1 + R2 + 1
  | 0x10 | 0x11 | 0x12 | 0x13 | 0x14 | 0x15 | 0x16 | 0x17 | 0x18 | 0x19 | 0x1A | 0x1B | 0x1C | 0x1D => RD + R1 + I
  | 0x20 | 0x21 | 0x22 | 0x23 | 0x24 | 0x25 | 0x27 => RD + R1 + I
  | 0x28 => R1 + (if rs1 w = 0 then I else R2)
  | 0x2A => I
  | 0x2D => RD + (if fld w 13 2 = 0 then 0 else R1) + 0x601F
  | 0x30 => RD + R1 + (if sel w = 4 then 0 else R2) + 0x3FF
  | 0x31 | 0x32 | 0x33 | 0x34 => RD + R1 + R2 + 0x3FE
  | 0x35 => RD + R1 + R2 + 0x3FF
  | 0x36 | 0x37 => RD + R1 + 0x3FF
  | 0x40 | 0x41 => 0x1C00000 + R1 + 0x3FF
  | 0x42 => 0x1C00000 + (if sel w = 11 then R2 else 0x38000 + (if sel w ≤ 4 ∨ sel w = 12 then 0x1C00 else 0)) +
      (if sel w = 12 then 0x3FF else 0x3F)
  | 0x43 => 0x1C00000 + 0x38000 + 0x1C00
  | 0x44 => 0x38000 + R2 + 1
  | 0x45 => 0x1C00000 + R1 + R2 + 0x3FF
  | 0x50 => 0x1FE0000 + 0x1F000 + 1
  | 0x51 => 0x1FE0000 + 0x1F000 + 7
  | 0x58 => 0x1C00000 + 0xFFF
  | 0x59 => 0x1FE0000 + 0x3FFF
  | 0x5A => RD + 0x3FFF
  | 0x5B => 0x3FFF
  | 0x5C => 0xFF
  | _ => 0

/-- The opcodes of R128. -/
def known (n : Nat) : Bool :=
  (1 ≤ n ∧ n ≤ 0x0D) ∨ (0x10 ≤ n ∧ n ≤ 0x1D) ∨ (0x20 ≤ n ∧ n ≤ 0x2F) ∨ (0x30 ≤ n ∧ n ≤ 0x38) ∨
  (0x40 ≤ n ∧ n ≤ 0x45) ∨ n = 0x50 ∨ n = 0x51 ∨ (0x58 ≤ n ∧ n ≤ 0x5C)

/-- Values of fields that R127 and the instructions' own rules reserve. -/
def badField (w : Word) : Bool :=
  let odd := fun n => n % 2 == 1
  match op w with
  | 0x01 => decide (fld w 0 4 > 13)
  | 0x06 => fld w 13 2 == 3
  | 0x0D => odd (rd w) || odd (rs1 w) || odd (rs2 w)
  | 0x15 | 0x1B => odd (rd w)
  | 0x2D => decide (fld w 0 5 > 21)
  | 0x30 => decide (sel w > 9) || decide (rmR w > 5)
  | 0x31 | 0x32 | 0x33 | 0x34 => decide (rm4 w > 5)
  | 0x35 => decide (sel w > 3) || decide (rmR w > 5)
  | 0x36 => decide (sel w > 9) || decide (rmR w > 5)
  | 0x37 => decide (sel w > 5) || decide (rmR w > 5)
  | 0x42 => decide (sel w > 12) || (sel w == 12 && fld w 9 1 == 1 && fld w 8 1 == 0)
  | 0x45 => odd (rs2 w) || fld w 0 2 == 3
  | 0x51 => decide (fld w 0 3 > 4)
  | 0x59 => amount w == 0
  | _ => false

/-- A reserved encoding, as far as the word alone shows it (R127, R146, R160, R189, R201). -/
def reserved (w : Word) : Bool :=
  !known (op w) || badField w || Nat.land (w.toNat % 2 ^ 25) (2 ^ 25 - 1 - usedBits w) != 0

end Isa

end Sys2Proof.Machine
end

