-- ==== Sys2Proof/Decode.lean ====
section
/-! DEFINITION. The commands that words spell: the command that an instruction word of a core is (R125, R127, R128), and the command spelt by
the bits of spec/opcode_table.json, whose rows give no bits to any field. -/

namespace Sys2Proof

open Sys2Proof.Machine

/-- The command that core `core` issues for the instruction word `w`: by its opcode in [31:25], with the other 25 bits as its fields; a
reserved word is RESERVED_ENCODING. -/
def isaCommand (core : Nat) (w : Word) : Instr :=
  if Isa.reserved w then .reservedEncoding core w
  else
    let f : IsaFields := w.setWidth 25
    match Isa.op w with
    | 0x01 => .alu core f
    | 0x02 => .addi core f
    | 0x03 => .andi core f
    | 0x04 => .ori core f
    | 0x05 => .xori core f
    | 0x06 => .shi core f
    | 0x07 => .slti core f
    | 0x08 => .sltiu core f
    | 0x09 => .lih core f
    | 0x0A => .csel core f
    | 0x0B => .mul core f
    | 0x0C => .div core f
    | 0x0D => .dec core f
    | 0x10 => .lb core f
    | 0x11 => .lbu core f
    | 0x12 => .lh core f
    | 0x13 => .lhu core f
    | 0x14 => .lw core f
    | 0x15 => .lwp core f
    | 0x16 => .flw core f
    | 0x17 => .fld core f
    | 0x18 => .sb core f
    | 0x19 => .sh core f
    | 0x1A => .sw core f
    | 0x1B => .swp core f
    | 0x1C => .fsw core f
    | 0x1D => .fsd core f
    | 0x20 => .brEq core f
    | 0x21 => .brNe core f
    | 0x22 => .brLt core f
    | 0x23 => .brGe core f
    | 0x24 => .brLtu core f
    | 0x25 => .brGeu core f
    | 0x26 => .call core f
    | 0x27 => .callr core f
    | 0x28 => .loop core f
    | 0x29 => .seqEnd core f
    | 0x2A => .idle core f
    | 0x2B => .nop core f
    | 0x2C => .fbar core f
    | 0x2D => .csr core f
    | 0x2E => .eret core f
    | 0x2F => .brk core f
    | 0x30 => .fop core f
    | 0x31 => .fmadd core f
    | 0x32 => .fmsub core f
    | 0x33 => .fnmadd core f
    | 0x34 => .fnmsub core f
    | 0x35 => .fcmp core f
    | 0x36 => .fcvt core f
    | 0x37 => .fmv core f
    | 0x38 => .fsel core f
    | 0x40 => .vld core f
    | 0x41 => .vst core f
    | 0x42 => if fld w 0 6 = 12 then .vq8 core f else .vop core f
    | 0x43 => .vfma core f
    | 0x44 => .vred core f
    | 0x45 => .vrand core f
    | 0x50 => .amm core f
    | 0x51 => .ast core f
    | 0x58 => .dmago core f
    | 0x59 => .sig core f
    | 0x5A => .wait core f
    | 0x5B => .srst core f
    | 0x5C => .dlayer core f
    | _ => .reservedEncoding core w

/-- The command spelt by `w` in the bits of the opcode table: none, since the table gives no row any bits. -/
def decodeTableWord (nbits w : Nat) : Option Instr :=
  match nbits, w with
  | _, _ => none

end Sys2Proof
end

