-- ==== Sys2Proof/Config.lean ====
section
/-! DEFINITION. What an implementation fixes and the spec leaves open: opaque constants, about which nothing can be proved
but that they are functions. Each is named by a log entry. -/

namespace Sys2Proof.Config

/-- What a byte of memory that nothing has written holds, by epoch and device address (R261, R266; log entry 1). -/
opaque undefinedByte : Nat → Nat → Byte

/-- The syndrome of a word of memory that nothing has written, by epoch and address (R261; log entry 1). -/
opaque undefinedSyndrome : Nat → Nat → Byte

/-- Whether a PORST_N pulse longer than its filter and shorter than its least width is taken, by length (R475; log entry 9). -/
opaque porstTaken : Nat → Bool

/-- SHA3-384 of a message (R442; log entry 4). -/
opaque sha3_384 : List Byte → BitVec 384

/-- SHAKE of a message, for `n` bytes (R449; log entry 4). -/
opaque shake : Nat → List Byte → List Byte

/-- Whether an Ed25519 signature verifies, by key, message and signature (R442; log entry 4). -/
opaque ed25519Verify : List Byte → List Byte → List Byte → Bool

/-- Whether an ML-DSA-65 signature verifies, by key, message and signature (R442; log entry 4). -/
opaque mlDsaVerify : List Byte → List Byte → List Byte → Bool

/-- The Ed25519 public key of a private seed (R449; log entry 4). -/
opaque edPub : List Byte → List Byte

/-- The ML-DSA-65 public key of a key generation seed (R449; log entry 4). -/
opaque mlPub : List Byte → List Byte

/-- The Ed25519 signature of a message under a private seed (R450; log entry 4). -/
opaque edSign : List Byte → List Byte → List Byte

/-- The ML-DSA-65 signature of a message under a key generation seed (R450; log entry 4). -/
opaque mlSign : List Byte → List Byte → List Byte

/-- The FEATURES word of the HELLO frames the device sends (R338, R358: the spec gives no value; log entry 11). -/
opaque features : Word

/-- The partner's address of port 0, which the frames of the mirror link carry (R364: the spec does not say how it is
learned; log entry 11). -/
opaque partnerMac : BitVec 48

/-- The frame counter that a group B command takes, by epoch and partition: R91 counts frames at anchors, and group B has none
(R66; log entry 92). -/
opaque groupBCount : Nat → Nat → Dword

/-- The sub-frame that a group B tile finds in g30, by epoch and context (R94; log entry 92). -/
opaque groupBSub : Nat → Nat → Nat

/-- What a batch without a qualifying instance finds in g28 to g30, by epoch and register (R94 speaks of an instance; log entry 94). -/
opaque emptyBatch : Nat → Nat → Word

/-- The launch stamp of a group B commit whose template is relative to an anchor, by epoch and partition (R356; log entry 92). -/
opaque groupBLaunch : Nat → Nat → Word

/-- The number of an operation of the security controller in SEC_RESTART: 1 verification, 2 rollback raise, 3 report (R431 names
the field and gives no numbers; log entry 92). -/
opaque secOpCode : Nat → Byte

/-- The peer index of the partner in CARR_TXN_FAIL, which has no entry in the peer table (R351, R369; log entry 92). -/
opaque partnerIndex : BitVec 5

/-- The SIGNAL that a Fennel engine posts when a command commits, by raw time and engine: its object and amount, if any (R37 names no object and
no amount; log entry 91). -/
opaque fenSignal : BitVec 64 → Nat → Option (Nat × BitVec 8)

/-- Whether the training that ends self-refresh fails, by raw time: the channel and the step past step 3 (R305 says that it runs; log entry 107). -/
opaque retrainFails : BitVec 64 → Option (Nat × Nat)

end Sys2Proof.Config
end

