-- ==== Sys2Proof/Machine/FMap.lean ====
section
/-! DEFINITION. Sparse tables as plain data: a list of (key, value) pairs with strictly rising keys. `find` and `upd`
are the two operations; `get` and `set` read and write a table in which an unlisted key holds a default value, and
never list a key at that default, so that equal tables are equal lists. -/

namespace Sys2Proof.Machine

/-- A sparse table from numbers to values. -/
abbrev FMap (α : Type) := List (Nat × α)

namespace FMap

variable {α : Type}

/-- The value listed at key `i`. -/
def find : FMap α → Nat → Option α
  | [], _ => none
  | (k, v) :: r, i => if i < k then none else if i = k then some v else find r i

/-- The part of a table above key `i`. -/
def above (i : Nat) : FMap α → FMap α
  | [] => []
  | (k, v) :: r => if i < k then (k, v) :: r else above i r

/-- The table with key `i` listed at `o`, or unlisted when `o` is `none`. -/
def upd : FMap α → Nat → Option α → FMap α
  | [], i, some v => [(i, v)]
  | [], _, none => []
  | (k, w) :: r, i, o =>
    if i < k then
      match o with
      | some v => (i, v) :: (k, w) :: r
      | none => (k, w) :: r
    else if i = k then
      match o with
      | some v => (i, v) :: r
      | none => above i r
    else (k, w) :: upd r i o

/-- The value at key `i` of a table whose unlisted keys hold `d`. -/
def get (d : α) (m : FMap α) (i : Nat) : α := (find m i).getD d

/-- The table with `v` at key `i`; unlisted keys hold `d`. -/
def set [DecidableEq α] (d : α) (m : FMap α) (i : Nat) (v : α) : FMap α :=
  upd m i (if v = d then none else some v)

/-- The canonical form: keys strictly rising. -/
def rising : FMap α → Bool
  | [] => true
  | [_] => true
  | (k, _) :: (k', v') :: r => decide (k < k') && rising ((k', v') :: r)

/-- The canonical form of a table with default `d`: keys strictly rising and no key listed at `d`. -/
def wf [DecidableEq α] (d : α) (m : FMap α) : Bool := rising m && m.all fun c => decide (c.2 ≠ d)

end FMap

end Sys2Proof.Machine
end

