-- ==== Sys2Proof/Machine/RegMap.lean ====
section
/-! DEFINITION. The register map of BAR0 (R9 to R19), as the spec's register tables give it: one name per register,
its BAR0 offset as a function of its instance and index letters (`R.<NAME>`), and one row per register with its access
code (R18), the bits that are not reserved (R17) and its reset value. Every 32-bit word of BAR0 that the spec names
belongs to exactly one row, or is the read-only twin of a staged row (R19). -/

namespace Sys2Proof.Machine

/-- The access codes of R18. -/
inductive Access where
  | ro | rw | wo | w1c | rc | stg
  deriving DecidableEq, Repr

/-- One register of the map: the offset of its first instance, the count and stride of each of its index letters
(outermost first), its access code, and per 32-bit word the implemented bits and the reset value. -/
structure RegRow where
  base  : Nat
  dims  : List (Nat × Nat)
  acc   : Access
  words : List (Nat × Nat)
  deriving DecidableEq, Repr

namespace R


/-! GLB_ block. -/

def GLB_ID : Nat := 0x0
def GLB_CORES : Nat := 0x8
def GLB_SIZES : Nat := 0x10
def GLB_MEM : Nat := 0x18
def GLB_LOGBASE : Nat := 0x100
def GLB_LOGCFG : Nat := 0x108
def GLB_COMMIT : Nat := 0x1000
def GLB_STATUS : Nat := 0x1004
def GLB_LOGWR : Nat := 0x1008
def GLB_LOGRD : Nat := 0x100C
def GLB_LOGDROP : Nat := 0x1010
def GLB_LOGSEQ : Nat := 0x1014
def GLB_RINGDIR : Nat := 0x1018
def GLB_POLLCNT : Nat := 0x1020
def GLB_HOSTHB : Nat := 0x1028
def GLB_HOSTCFG : Nat := 0x102C
def GLB_ESCSTAT : Nat := 0x1030
def GLB_ESCLAST : Nat := 0x1034
def GLB_ESCCLR : Nat := 0x1038
def GLB_STGIGN : Nat := 0x103C
def GLB_LOGLAST (w : Nat) : Nat := 0x2000 + 0x4 * w
def GLB_PWRCTL : Nat := 0x200
def GLB_PWRSTAT : Nat := 0x204
def GLB_RSTCAUSE : Nat := 0x208
def GLB_TWARN : Nat := 0x210
def GLB_TEMP (i : Nat) : Nat := 0x220 + 0x4 * i
def GLB_TMAX : Nat := 0x264

/-! SCH_ block. -/

def SCH_PCFG (p : Nat) : Nat := 0x100000 + 0x40 * p
def SCH_FLEN_F (p : Nat) : Nat := 0x100004 + 0x40 * p
def SCH_FLEN_M (p : Nat) : Nat := 0x100008 + 0x40 * p
def SCH_FLEN_S (p : Nat) : Nat := 0x10000C + 0x40 * p
def SCH_MODE (p : Nat) : Nat := 0x100010 + 0x40 * p
def SCH_MAN (p : Nat) : Nat := 0x100018 + 0x40 * p
def SCH_COMMIT : Nat := 0x101000
def SCH_LSTAT : Nat := 0x101004
def SCH_LDETAIL : Nat := 0x101008
def SCH_TDREQ : Nat := 0x101010
def SCH_TDCNT : Nat := 0x101014
def SCH_CUTCNT : Nat := 0x101018
def SCH_KILLCNT : Nat := 0x10101C
def SCH_SPILL : Nat := 0x101020
def SCH_HOTREQ : Nat := 0x101024
def SCH_HOTSTAT : Nat := 0x101028
def SCH_IGNCNT : Nat := 0x10102C
def SCH_FC (p : Nat) (g : Nat) : Nat := 0x101100 + 0x20 * p + 0x8 * g
def SCH_HPCNT (p : Nat) : Nat := 0x101118 + 0x20 * p
def SCH_FLAGS : Nat := 0x101200
def SCH_SLOW (p : Nat) (c : Nat) : Nat := 0x102000 + 0x100 * p + 0x4 * c
def SCH_PIMG (p : Nat) (w : Nat) : Nat := 0x140000 + 0x8000 * p + 0x4 * w
def SCH_AIMG (p : Nat) (w : Nat) : Nat := 0x180000 + 0x8000 * p + 0x4 * w
def SCH_RB (n : Nat) (w : Nat) : Nat := 0x1C0000 + 0x40 * n + 0x4 * w

/-! TB_ block. -/

def TB_RATE : Nat := 0x200000
def TB_OFFSET : Nat := 0x200008
def TB_TCTL : Nat := 0x200010
def TB_PH_NOM : Nat := 0x200018
def TB_PH_CFG : Nat := 0x200020
def TB_PH_WIN : Nat := 0x200024
def TB_PIN_CFG (k : Nat) : Nat := 0x200028 + 0x4 * k
def TB_PIN_OFFS (k : Nat) : Nat := 0x200038 + 0x4 * k
def TB_SLIP_LIM (p : Nat) : Nat := 0x200048 + 0x4 * p
def TB_COAST_CFG : Nat := 0x200068
def TB_EVT (i : Nat) (w : Nat) : Nat := 0x200400 + 0x10 * i + 0x4 * w
def TB_RAW : Nat := 0x201000
def TB_TIME : Nat := 0x201008
def TB_PHASE : Nat := 0x201010
def TB_PH_STAT : Nat := 0x201014
def TB_PH_INC : Nat := 0x201018
def TB_PH_ERR : Nat := 0x201020
def TB_COMMIT : Nat := 0x201024
def TB_CSTAT : Nat := 0x201028
def TB_SNAP : Nat := 0x201030
def TB_SNAP_RAW : Nat := 0x201038
def TB_SNAP_TIME : Nat := 0x201040
def TB_SNAP_PHASE : Nat := 0x201048
def TB_PIN_STAMP (k : Nat) : Nat := 0x201050 + 0x8 * k
def TB_PIN_CNT (k : Nat) : Nat := 0x201070 + 0x4 * k
def TB_FLAGS : Nat := 0x201080
def TB_COAST : Nat := 0x201084
def TB_COAST_END : Nat := 0x201088
def TB_EVT_SKIP : Nat := 0x20108C
def TB_SLIP_CYC (p : Nat) (g : Nat) : Nat := 0x201100 + 0x10 * p + 0x4 * g
def TB_SLOT_SKIP (p : Nat) : Nat := 0x20110C + 0x10 * p
def TB_COAST_INC (p : Nat) : Nat := 0x201180 + 0x8 * p

/-! CLU_ block. -/

def CLU_CALCFG (m : Nat) (e : Nat) : Nat := 0x308000 + 0x10000 * m + 0x4 * e
def CLU_CALCOMMIT (m : Nat) : Nat := 0x309000 + 0x10000 * m
def CLU_CALSTAT (m : Nat) : Nat := 0x309004 + 0x10000 * m
def CLU_CALCLR (m : Nat) : Nat := 0x309008 + 0x10000 * m
def CLU_CALCLOSE (m : Nat) : Nat := 0x30900C + 0x10000 * m
def CLU_CALSTALE (m : Nat) : Nat := 0x309010 + 0x10000 * m
def CLU_CALSAT (m : Nat) : Nat := 0x309014 + 0x10000 * m
def CLU_CALSHARE (m : Nat) (e : Nat) : Nat := 0x309100 + 0x10000 * m + 0x4 * e
def CLU_CALWIN (m : Nat) (e : Nat) : Nat := 0x309180 + 0x10000 * m + 0x4 * e
def CLU_CALCLIP (m : Nat) (e : Nat) : Nat := 0x309200 + 0x10000 * m + 0x20 * e
def CLU_CALTOT (m : Nat) (e : Nat) : Nat := 0x309208 + 0x10000 * m + 0x20 * e
def CLU_CALCLIPL (m : Nat) (e : Nat) : Nat := 0x309210 + 0x10000 * m + 0x20 * e
def CLU_CALTOTL (m : Nat) (e : Nat) : Nat := 0x309218 + 0x10000 * m + 0x20 * e

/-! COR_ block. -/

def COR_STAT (n : Nat) : Nat := 0x401000 + 0x2000 * n
def COR_CTX (n : Nat) : Nat := 0x401004 + 0x2000 * n
def COR_TRAP (n : Nat) : Nat := 0x401008 + 0x2000 * n
def COR_TRAPVAL (n : Nat) : Nat := 0x40100C + 0x2000 * n
def COR_TRAP_CLR (n : Nat) : Nat := 0x401010 + 0x2000 * n
def COR_ISSUE (n : Nat) : Nat := 0x401014 + 0x2000 * n
def COR_STALLC (n : Nat) : Nat := 0x401018 + 0x2000 * n
def COR_ILL (n : Nat) : Nat := 0x40101C + 0x2000 * n
def COR_FPREP (n : Nat) : Nat := 0x401020 + 0x2000 * n
def COR_NOEND (n : Nat) : Nat := 0x401024 + 0x2000 * n

/-! FEN_ block. -/

def FEN_PTAB (m : Nat) : Nat := 0x500000 + 0x10000 * m
def FEN_STAT (m : Nat) : Nat := 0x501000 + 0x10000 * m
def FEN_CTX (m : Nat) : Nat := 0x501004 + 0x10000 * m
def FEN_SOLVES (m : Nat) : Nat := 0x501008 + 0x10000 * m
def FEN_CONV (m : Nat) : Nat := 0x50100C + 0x10000 * m
def FEN_DLINE (m : Nat) : Nat := 0x501010 + 0x10000 * m
def FEN_WARM (m : Nat) : Nat := 0x501014 + 0x10000 * m
def FEN_SAFE (m : Nat) : Nat := 0x501018 + 0x10000 * m
def FEN_FAILC (m : Nat) : Nat := 0x50101C + 0x10000 * m
def FEN_PGC (m : Nat) : Nat := 0x501020 + 0x10000 * m
def FEN_FREJC (m : Nat) : Nat := 0x501024 + 0x10000 * m
def FEN_FLAGS (m : Nat) : Nat := 0x501028 + 0x10000 * m
def FEN_LAST (m : Nat) (i : Nat) : Nat := 0x501040 + 0x10000 * m + 0x4 * i

/-! SPD_ block. -/

def SPD_PGCTL (n : Nat) : Nat := 0x600000 + 0x1000 * n
def SPD_PGSTAT (n : Nat) : Nat := 0x600004 + 0x1000 * n
def SPD_PGCODE (n : Nat) : Nat := 0x600008 + 0x1000 * n
def SPD_PODSTAT (n : Nat) : Nat := 0x60000C + 0x1000 * n
def SPD_PODFORCE (n : Nat) : Nat := 0x600010 + 0x1000 * n
def SPD_FLAGS (n : Nat) : Nat := 0x600014 + 0x1000 * n
def SPD_INFLIGHT (n : Nat) (b : Nat) : Nat := 0x600100 + 0x1000 * n + 0x4 * b
def SPD_SOFT (n : Nat) (b : Nat) : Nat := 0x600200 + 0x1000 * n + 0x8 * b
def SPD_HARD (n : Nat) (b : Nat) : Nat := 0x600204 + 0x1000 * n + 0x8 * b
def SPD_PHND (p : Nat) (w : Nat) : Nat := 0x6A0000 + 0x1000 * p + 0x4 * w
def SPD_AHND (p : Nat) (w : Nat) : Nat := 0x6B0000 + 0x1000 * p + 0x4 * w

/-! ECC_ block. -/

def ECC_FLAGS : Nat := 0x700000
def ECC_LOGCNT : Nat := 0x700004
def ECC_INJCTL : Nat := 0x700010
def ECC_INJOFF : Nat := 0x700018
def ECC_INJDATA : Nat := 0x700020
def ECC_INJCHK : Nat := 0x700028
def ECC_LOG (i : Nat) (w : Nat) : Nat := 0x700100 + 0x10 * i + 0x4 * w
def ECC_SCRUB_EN (m : Nat) : Nat := 0x710000 + 0x1000 * m
def ECC_SCRUB_LIM (m : Nat) : Nat := 0x710004 + 0x1000 * m
def ECC_MSCRUB (m : Nat) : Nat := 0x710008 + 0x1000 * m
def ECC_LAP_LAST (m : Nat) : Nat := 0x71000C + 0x1000 * m
def ECC_LAP_MAX (m : Nat) : Nat := 0x710010 + 0x1000 * m
def ECC_LAPS (m : Nat) : Nat := 0x710014 + 0x1000 * m
def ECC_CECNT (m : Nat) : Nat := 0x710020 + 0x1000 * m
def ECC_UECNT (m : Nat) : Nat := 0x710024 + 0x1000 * m
def ECC_PSNCNT (m : Nat) : Nat := 0x710028 + 0x1000 * m
def ECC_WBDROP (m : Nat) : Nat := 0x71002C + 0x1000 * m
def ECC_CE_THR (m : Nat) : Nat := 0x710030 + 0x1000 * m
def ECC_MFLAGS (m : Nat) : Nat := 0x710034 + 0x1000 * m
def ECC_WBQ (m : Nat) : Nat := 0x710038 + 0x1000 * m
def ECC_RMADD (m : Nat) : Nat := 0x710040 + 0x1000 * m
def ECC_RMCOMMIT (m : Nat) : Nat := 0x710044 + 0x1000 * m
def ECC_RMSTAT (m : Nat) : Nat := 0x710048 + 0x1000 * m
def ECC_RM (m : Nat) (i : Nat) : Nat := 0x710080 + 0x1000 * m + 0x4 * i

/-! DMA_ block. -/

def DMA_DBASE (m : Nat) : Nat := 0x800000 + 0x10000 * m
def DMA_CHSTAT (m : Nat) (c : Nat) : Nat := 0x801000 + 0x10000 * m + 0x40 * c
def DMA_CHCTL (m : Nat) (c : Nat) : Nat := 0x801004 + 0x10000 * m + 0x40 * c
def DMA_CHCFG (m : Nat) (c : Nat) : Nat := 0x801008 + 0x10000 * m + 0x40 * c
def DMA_CHDONE (m : Nat) (c : Nat) : Nat := 0x80100C + 0x10000 * m + 0x40 * c
def DMA_CHADDR (m : Nat) (c : Nat) : Nat := 0x801010 + 0x10000 * m + 0x40 * c
def DMA_CHCNT (m : Nat) (c : Nat) : Nat := 0x801018 + 0x10000 * m + 0x40 * c
def DMA_CHBYTES (m : Nat) (c : Nat) : Nat := 0x80101C + 0x10000 * m + 0x40 * c
def DMA_CHCTX (m : Nat) (c : Nat) : Nat := 0x801020 + 0x10000 * m + 0x40 * c
def DMA_FLAGS (m : Nat) : Nat := 0x801400 + 0x10000 * m
def DMA_BUSYST (m : Nat) : Nat := 0x801404 + 0x10000 * m
def DMA_IGN (m : Nat) : Nat := 0x801408 + 0x10000 * m
def DMA_PORTU (m : Nat) : Nat := 0x80140C + 0x10000 * m

/-! MEM_ block. -/

def MEM_PDCFG : Nat := 0x900000
def MEM_INIT : Nat := 0x900008
def MEM_STAT : Nat := 0x901000
def MEM_ORG : Nat := 0x901004
def MEM_REFM : Nat := 0x901008
def MEM_RDCNT : Nat := 0x901010
def MEM_WRCNT : Nat := 0x901014
def MEM_RMWCNT : Nat := 0x901018
def MEM_RETRAIN : Nat := 0x90101C
def MEM_FLAGS : Nat := 0x901020

/-! ETH_ block. -/

def ETH_CFG (k : Nat) : Nat := 0xA00000 + 0x10000 * k
def ETH_MAC (k : Nat) : Nat := 0xA00008 + 0x10000 * k
def ETH_MC (k : Nat) (i : Nat) : Nat := 0xA00010 + 0x10000 * k + 0x8 * i
def ETH_VID (k : Nat) (i : Nat) : Nat := 0xA00090 + 0x10000 * k + 0x4 * i
def ETH_QCFG (k : Nat) (q : Nat) : Nat := 0xA000D0 + 0x10000 * k + 0x4 * q
def ETH_TSC (k : Nat) : Nat := 0xA000F0 + 0x10000 * k
def ETH_COMMIT (k : Nat) : Nat := 0xA01000 + 0x10000 * k
def ETH_STATUS (k : Nat) : Nat := 0xA01004 + 0x10000 * k
def ETH_RXFRM (k : Nat) : Nat := 0xA01010 + 0x10000 * k
def ETH_RXFCS (k : Nat) : Nat := 0xA01014 + 0x10000 * k
def ETH_RXSIZE (k : Nat) : Nat := 0xA01018 + 0x10000 * k
def ETH_RXFILT (k : Nat) : Nat := 0xA0101C + 0x10000 * k
def ETH_RXPAUSE (k : Nat) : Nat := 0xA01020 + 0x10000 * k
def ETH_RXOVF (k : Nat) : Nat := 0xA01024 + 0x10000 * k
def ETH_TXFRM (k : Nat) : Nat := 0xA01028 + 0x10000 * k
def ETH_TXLATE (k : Nat) : Nat := 0xA0102C + 0x10000 * k
def ETH_TXDROP (k : Nat) : Nat := 0xA01030 + 0x10000 * k
def ETH_FLAGS (k : Nat) : Nat := 0xA01034 + 0x10000 * k
def ETH_QOCC (k : Nat) (q : Nat) : Nat := 0xA01040 + 0x10000 * k + 0x4 * q

/-! CARR_ block. -/

def CARR_CFG : Nat := 0xB00000
def CARR_TXCFG : Nat := 0xB00004
def CARR_PHDST : Nat := 0xB00008
def CARR_HRXBASE : Nat := 0xB00010
def CARR_HTXBASE : Nat := 0xB00018
def CARR_HRCFG : Nat := 0xB00020
def CARR_PEER (i : Nat) : Nat := 0xB00100 + 0x8 * i
def CARR_COMMIT : Nat := 0xB04000
def CARR_STATUS : Nat := 0xB04004
def CARR_SCHEMA : Nat := 0xB04008
def CARR_VCNT (k : Nat) : Nat := 0xB04010 + 0x4 * k
def CARR_VFLAGS : Nat := 0xB04050
def CARR_PLACED : Nat := 0xB04054
def CARR_SUBST : Nat := 0xB04058
def CARR_TXNCNT : Nat := 0xB0405C
def CARR_NAKDROP : Nat := 0xB04060
def CARR_HRXDROP : Nat := 0xB04064
def CARR_COMLATE : Nat := 0xB04068
def CARR_VLOGCNT : Nat := 0xB04070
def CARR_PEERST (i : Nat) : Nat := 0xB04100 + 0x4 * i
def CARR_VLOG (i : Nat) (w : Nat) : Nat := 0xB04200 + 0x10 * i + 0x4 * w
def CARR_PARSE (i : Nat) (w : Nat) : Nat := 0xB10000 + 0x1000 * (i / 64) + 0x20 * (i % 64) + 4 * w
def CARR_TMPL (t : Nat) (w : Nat) : Nat := 0xB20000 + 0x20 * t + 4 * w

/-! MIR_ block. -/

def MIR_CFG : Nat := 0xC00000
def MIR_FWDCFG : Nat := 0xC00004
def MIR_POL (t : Nat) : Nat := 0xC00100 + 0x8 * t
def MIR_COMMIT : Nat := 0xC01000
def MIR_STATUS : Nat := 0xC01004
def MIR_STAT : Nat := 0xC01008
def MIR_CTL : Nat := 0xC0100C
def MIR_FLAGS : Nat := 0xC01010
def MIR_DIVINFO : Nat := 0xC01020
def MIR_DIVCTX : Nat := 0xC01024
def MIR_DIVCLR : Nat := 0xC01028
def MIR_DIVSTEP : Nat := 0xC01030
def MIR_DIVOWN : Nat := 0xC01038
def MIR_DIVPEER : Nat := 0xC01040
def MIR_AGREE : Nat := 0xC01050
def MIR_DIVC : Nat := 0xC01054
def MIR_POISC : Nat := 0xC01058
def MIR_MISSC : Nat := 0xC0105C
def MIR_SKIPC : Nat := 0xC01060
def MIR_CMPOVF : Nat := 0xC01064
def MIR_HBMISS : Nat := 0xC01068
def MIR_SUPPR : Nat := 0xC0106C
def MIR_HOLDC : Nat := 0xC01070
def MIR_INCONF : Nat := 0xC01074
def MIR_FWDREQC : Nat := 0xC01078
def MIR_FWDC : Nat := 0xC0107C
def MIR_FWDNONE : Nat := 0xC01080
def MIR_LOST (k : Nat) : Nat := 0xC01090 + 0x4 * k
def MIR_LERR (k : Nat) : Nat := 0xC01098 + 0x4 * k
def MIR_BHASH (p : Nat) : Nat := 0xC02000 + 0x8 * p
def MIR_PHASH (p : Nat) : Nat := 0xC02040 + 0x8 * p
def MIR_SKEQ (p : Nat) : Nat := 0xC02080 + 0x4 * p
def MIR_SKNE (p : Nat) : Nat := 0xC020A0 + 0x4 * p
def MIR_DIVMAP (w : Nat) : Nat := 0xC03000 + 0x4 * w
def MIR_VERD (c : Nat) (j : Nat) : Nat := 0xC10000 + 0x20 * c + 0x8 * j

/-! PCI_ block. -/

def PCI_MWBASE : Nat := 0xD00000
def PCI_CFG : Nat := 0xD00008
def PCI_STAT : Nat := 0xD01000
def PCI_CTOCNT : Nat := 0xD01004
def PCI_ERRCNT : Nat := 0xD01008
def PCI_STARVE : Nat := 0xD0100C
def PCI_EPRX : Nat := 0xD01010
def PCI_FLRCNT : Nat := 0xD01014
def PCI_RUN : Nat := 0xD01018
def PCI_MSIX (v : Nat) (w : Nat) : Nat := 0xD10000 + 0x10 * v + 4 * w
def PCI_PBA (w : Nat) : Nat := 0xD10800 + 4 * w

/-! SEC_ block. -/

def SEC_BOOTSTAT : Nat := 0xE00000
def SEC_BOOTCTL : Nat := 0xE00004
def SEC_LIFE : Nat := 0xE00008
def SEC_ARBREQ : Nat := 0xE0000C
def SEC_ARBSTAT : Nat := 0xE00010
def SEC_FLAGS : Nat := 0xE00014
def SEC_CHIPRST : Nat := 0xE00018
def SEC_VADDR : Nat := 0xE00020
def SEC_VCTL : Nat := 0xE00028
def SEC_VSTAT : Nat := 0xE0002C
def SEC_UNLOCK : Nat := 0xE00030
def SEC_AADDR : Nat := 0xE00040
def SEC_ACTL : Nat := 0xE00048
def SEC_ASTAT : Nat := 0xE0004C
def SEC_NONCE (w : Nat) : Nat := 0xE00060 + 0x4 * w
def SEC_M (i : Nat) (w : Nat) : Nat := 0xE00100 + 0x30 * i + 0x4 * w
def SEC_EDPUB (w : Nat) : Nat := 0xE00400 + 0x4 * w
def SEC_MLPUB (w : Nat) : Nat := 0xE00800 + 0x4 * w
def SEC_SERIAL (w : Nat) : Nat := 0xE01000 + 0x4 * w
def SEC_SLOT (s : Nat) (w : Nat) : Nat := 0xE01100 + 0x60 * s + 0x4 * w

/-! TST_ block. -/

def TST_PHYSMAP : Nat := 0xF00000
def TST_FUSEOFF : Nat := 0xF00008
def TST_LGEN (l : Nat) : Nat := 0xF00100 + 0x20 * l
def TST_LCHK (l : Nat) : Nat := 0xF00104 + 0x20 * l
def TST_LSTAT (l : Nat) : Nat := 0xF00108 + 0x20 * l
def TST_LERR (l : Nat) : Nat := 0xF0010C + 0x20 * l
def TST_LTUNE (l : Nat) : Nat := 0xF00110 + 0x20 * l
def TST_MEMCTL : Nat := 0xF00200
def TST_MLBCTL : Nat := 0xF00204
def TST_MLBLINE (c : Nat) : Nat := 0xF00210 + 0x4 * c
def TST_MBCTL : Nat := 0xF00300
def TST_MBSTAT : Nat := 0xF00304
def TST_MBFAIL (i : Nat) : Nat := 0xF00310 + 0x4 * i

end R


/-- The rows of the GLB_ block. -/
def RegMap.rowsGLB : List RegRow :=
  [⟨R.GLB_ID, [], .ro, [(0xFFFFFFF0, 0x1280000)]⟩,
   ⟨R.GLB_CORES, [], .ro, [(0xFFFF, 0x0)]⟩,
   ⟨R.GLB_SIZES, [], .ro, [(0xFFFFFFFF, 0x20000400)]⟩,
   ⟨R.GLB_MEM, [], .ro, [(0xFF, 0x0)]⟩,
   ⟨R.GLB_LOGBASE, [], .stg, [(0xFFFE0000, 0x0), (0xF, 0x0)]⟩,
   ⟨R.GLB_LOGCFG, [], .stg, [(0xFFFFFFFF, 0x8A040)]⟩,
   ⟨R.GLB_COMMIT, [], .wo, [(0x1, 0x0)]⟩,
   ⟨R.GLB_STATUS, [], .ro, [(0x800000FF, 0x0)]⟩,
   ⟨R.GLB_LOGWR, [], .ro, [(0xFFFFFFFF, 0x0)]⟩,
   ⟨R.GLB_LOGRD, [], .rw, [(0xFFFFFFFF, 0x0)]⟩,
   ⟨R.GLB_LOGDROP, [], .rc, [(0xFFFFFFFF, 0x0)]⟩,
   ⟨R.GLB_LOGSEQ, [], .ro, [(0xFFFFFFFF, 0x0)]⟩,
   ⟨R.GLB_RINGDIR, [], .rw, [(0xF000FFFF, 0x0)]⟩,
   ⟨R.GLB_POLLCNT, [], .ro, [(0xFFFFFFFF, 0x0), (0xFFFFFFFF, 0x0)]⟩,
   ⟨R.GLB_HOSTHB, [], .wo, [(0x1, 0x0)]⟩,
   ⟨R.GLB_HOSTCFG, [], .rw, [(0xFFFF, 0x0)]⟩,
   ⟨R.GLB_ESCSTAT, [], .ro, [(0xFF, 0x0)]⟩,
   ⟨R.GLB_ESCLAST, [], .ro, [(0xFFFFFFFF, 0x0)]⟩,
   ⟨R.GLB_ESCCLR, [], .wo, [(0xFFFF00FF, 0x0)]⟩,
   ⟨R.GLB_STGIGN, [], .rc, [(0xFFFFFFFF, 0x0)]⟩,
   ⟨R.GLB_LOGLAST 0, [(512, 0x4)], .ro, [(0xFFFFFFFF, 0x0)]⟩,
   ⟨R.GLB_PWRCTL, [], .wo, [(0x3, 0x0)]⟩,
   ⟨R.GLB_PWRSTAT, [], .ro, [(0x800003FF, 0x0)]⟩,
   ⟨R.GLB_RSTCAUSE, [], .ro, [(0x1F, 0x0)]⟩] ++
  [⟨R.GLB_TWARN, [], .rw, [(0xFFFF, 0x1B8)]⟩,
   ⟨R.GLB_TEMP 0, [(17, 0x4)], .ro, [(0xFFFF, 0x0)]⟩,
   ⟨R.GLB_TMAX, [], .rc, [(0xFFFF, 0x8000)]⟩]

/-- The rows of the SCH_ block. -/
def RegMap.rowsSCH : List RegRow :=
  [⟨R.SCH_PCFG 0, [(8, 0x40)], .stg, [(0xF7FFFFFF, 0x0)]⟩,
   ⟨R.SCH_FLEN_F 0, [(8, 0x40)], .stg, [(0x1FFFFF, 0x0)]⟩,
   ⟨R.SCH_FLEN_M 0, [(8, 0x40)], .stg, [(0x1FFFFF, 0x0)]⟩,
   ⟨R.SCH_FLEN_S 0, [(8, 0x40)], .stg, [(0x1FFFFF, 0x0)]⟩,
   ⟨R.SCH_MODE 0, [(8, 0x40)], .stg, [(0xFFFF0003, 0x2000000)]⟩,
   ⟨R.SCH_MAN 0, [(8, 0x40)], .stg, [(0xFFFFFFFF, 0x0), (0xFFFFFFFF, 0x0)]⟩,
   ⟨R.SCH_COMMIT, [], .wo, [(0xFFFF, 0x0)]⟩,
   ⟨R.SCH_LSTAT, [], .ro, [(0x87FF00FF, 0x0)]⟩,
   ⟨R.SCH_LDETAIL, [], .ro, [(0xFFFFFFFF, 0x0)]⟩,
   ⟨R.SCH_TDREQ, [], .wo, [(0x80000FFF, 0x0)]⟩,
   ⟨R.SCH_TDCNT, [], .rc, [(0xFFFFFFFF, 0x0)]⟩,
   ⟨R.SCH_CUTCNT, [], .rc, [(0xFFFFFFFF, 0x0)]⟩,
   ⟨R.SCH_KILLCNT, [], .rc, [(0xFFFFFFFF, 0x0)]⟩,
   ⟨R.SCH_SPILL, [], .ro, [(0x80FFFFFF, 0x0)]⟩,
   ⟨R.SCH_HOTREQ, [], .wo, [(0x80000703, 0x0)]⟩,
   ⟨R.SCH_HOTSTAT, [], .ro, [(0xC0FF0703, 0x40000000)]⟩,
   ⟨R.SCH_IGNCNT, [], .rc, [(0xFFFFFFFF, 0x0)]⟩,
   ⟨R.SCH_FC 0 0, [(8, 0x20), (3, 0x8)], .ro, [(0xFFFFFFFF, 0x0), (0xFFFFFFFF, 0x0)]⟩,
   ⟨R.SCH_HPCNT 0, [(8, 0x20)], .ro, [(0xFFFFFFFF, 0x0), (0xFFFFFFFF, 0x0)]⟩,
   ⟨R.SCH_FLAGS, [], .w1c, [(0x3F, 0x0)]⟩,
   ⟨R.SCH_SLOW 0 0, [(8, 0x100), (64, 0x4)], .ro, [(0xFFFFFFFF, 0x100)]⟩,
   ⟨R.SCH_PIMG 0 0, [(8, 0x8000), (8192, 0x4)], .rw, [(0xFFFFFFFF, 0x0)]⟩,
   ⟨R.SCH_AIMG 0 0, [(8, 0x8000), (8192, 0x4)], .ro, [(0xFFFFFFFF, 0x0)]⟩,
   ⟨R.SCH_RB 0 0, [(4096, 0x40), (16, 0x4)], .rw, [(0xFFFFFFFF, 0x0)]⟩]

/-- The rows of the TB_ block. -/
def RegMap.rowsTB : List RegRow :=
  [⟨R.TB_RATE, [], .stg, [(0xFFFFFFFF, 0x0), (0xFFFFFFFF, 0x1)]⟩,
   ⟨R.TB_OFFSET, [], .stg, [(0xFFFFFFFF, 0x0), (0xFFFFFFFF, 0x0)]⟩,
   ⟨R.TB_TCTL, [], .stg, [(0x1, 0x1)]⟩,
   ⟨R.TB_PH_NOM, [], .stg, [(0xFFFFFFFF, 0x53E2D623), (0xFFFF, 0x0)]⟩,
   ⟨R.TB_PH_CFG, [], .stg, [(0xFFFFFF7, 0x4230804)]⟩,
   ⟨R.TB_PH_WIN, [], .stg, [(0xFFFFFFFF, 0x400800)]⟩,
   ⟨R.TB_PIN_CFG 0, [(4, 0x4)], .stg, [(0xC0FFFFFF, 0x0)]⟩,
   ⟨R.TB_PIN_OFFS 0, [(4, 0x4)], .stg, [(0xFFFFFFFF, 0x0)]⟩,
   ⟨R.TB_SLIP_LIM 0, [(8, 0x4)], .stg, [(0x3FFFFFFF, 0x4010040)]⟩,
   ⟨R.TB_COAST_CFG, [], .stg, [(0xFF, 0xFF)]⟩,
   ⟨R.TB_EVT 0 0, [(64, 0x10), (4, 0x4)], .stg, [(0xFFFFFFFF, 0x0)]⟩,
   ⟨R.TB_RAW, [], .ro, [(0xFFFFFFFF, 0x0), (0xFFFFFFFF, 0x0)]⟩,
   ⟨R.TB_TIME, [], .ro, [(0xFFFFFFFF, 0x0), (0xFFFFFFFF, 0x0)]⟩,
   ⟨R.TB_PHASE, [], .ro, [(0xFFFFFFFF, 0x0)]⟩,
   ⟨R.TB_PH_STAT, [], .ro, [(0x703, 0x400)]⟩,
   ⟨R.TB_PH_INC, [], .ro, [(0xFFFFFFFF, 0x53E2D623), (0xFFFF, 0x0)]⟩,
   ⟨R.TB_PH_ERR, [], .ro, [(0xFFFFFFFF, 0x0)]⟩,
   ⟨R.TB_COMMIT, [], .wo, [(0x7, 0x0)]⟩,
   ⟨R.TB_CSTAT, [], .ro, [(0x7FFFFFF, 0x0)]⟩,
   ⟨R.TB_SNAP, [], .wo, [(0x1, 0x0)]⟩,
   ⟨R.TB_SNAP_RAW, [], .ro, [(0xFFFFFFFF, 0x0), (0xFFFFFFFF, 0x0)]⟩,
   ⟨R.TB_SNAP_TIME, [], .ro, [(0xFFFFFFFF, 0x0), (0xFFFFFFFF, 0x0)]⟩,
   ⟨R.TB_SNAP_PHASE, [], .ro, [(0xFFFFFFFF, 0x0)]⟩,
   ⟨R.TB_PIN_STAMP 0, [(4, 0x8)], .ro, [(0xFFFFFFFF, 0x0), (0xFFFFFFFF, 0x0)]⟩] ++
  [⟨R.TB_PIN_CNT 0, [(4, 0x4)], .rc, [(0xFFFFFFFF, 0x0)]⟩,
   ⟨R.TB_FLAGS, [], .w1c, [(0x3F, 0x0)]⟩,
   ⟨R.TB_COAST, [], .ro, [(0xFF, 0x0)]⟩,
   ⟨R.TB_COAST_END, [], .wo, [(0xFF, 0x0)]⟩,
   ⟨R.TB_EVT_SKIP, [], .rc, [(0xFFFFFFFF, 0x0)]⟩,
   ⟨R.TB_SLIP_CYC 0 0, [(8, 0x10), (3, 0x4)], .rc, [(0xFFFFFFFF, 0x0)]⟩,
   ⟨R.TB_SLOT_SKIP 0, [(8, 0x10)], .rc, [(0xFFFFFFFF, 0x0)]⟩,
   ⟨R.TB_COAST_INC 0, [(8, 0x8)], .ro, [(0xFFFFFFFF, 0x0), (0xFFFF, 0x0)]⟩]

/-- The rows of the CLU_ block. -/
def RegMap.rowsCLU : List RegRow :=
  [⟨R.CLU_CALCFG 0 0, [(16, 0x10000), (32, 0x4)], .stg, [(0xFFE0FFFF, 0x40000148)]⟩,
   ⟨R.CLU_CALCOMMIT 0, [(16, 0x10000)], .wo, [(0x1, 0x0)]⟩,
   ⟨R.CLU_CALSTAT 0, [(16, 0x10000)], .ro, [(0x800000FF, 0x0)]⟩,
   ⟨R.CLU_CALCLR 0, [(16, 0x10000)], .wo, [(0xFFFFFFFF, 0x0)]⟩,
   ⟨R.CLU_CALCLOSE 0, [(16, 0x10000)], .wo, [(0xFFFFFFFF, 0x0)]⟩,
   ⟨R.CLU_CALSTALE 0, [(16, 0x10000)], .ro, [(0xFFFFFFFF, 0x0)]⟩,
   ⟨R.CLU_CALSAT 0, [(16, 0x10000)], .ro, [(0xFFFFFFFF, 0x0)]⟩,
   ⟨R.CLU_CALSHARE 0 0, [(16, 0x10000), (32, 0x4)], .ro, [(0x1FFFF, 0x0)]⟩,
   ⟨R.CLU_CALWIN 0 0, [(16, 0x10000), (32, 0x4)], .ro, [(0xFFFFFF, 0x0)]⟩,
   ⟨R.CLU_CALCLIP 0 0, [(16, 0x10000), (32, 0x20)], .ro, [(0xFFFFFFFF, 0x0), (0xFFFF, 0x0)]⟩,
   ⟨R.CLU_CALTOT 0 0, [(16, 0x10000), (32, 0x20)], .ro, [(0xFFFFFFFF, 0x0), (0xFFFF, 0x0)]⟩,
   ⟨R.CLU_CALCLIPL 0 0, [(16, 0x10000), (32, 0x20)], .ro, [(0xFFFFFFFF, 0x0), (0xFFFF, 0x0)]⟩,
   ⟨R.CLU_CALTOTL 0 0, [(16, 0x10000), (32, 0x20)], .ro, [(0xFFFFFFFF, 0x0), (0xFFFF, 0x0)]⟩]

/-- The rows of the COR_ block. -/
def RegMap.rowsCOR : List RegRow :=
  [⟨R.COR_STAT 0, [(128, 0x2000)], .ro, [(0xFF003FFF, 0x0)]⟩,
   ⟨R.COR_CTX 0, [(128, 0x2000)], .ro, [(0x80000FFF, 0x0)]⟩,
   ⟨R.COR_TRAP 0, [(128, 0x2000)], .ro, [(0xBFFF3FFF, 0x0)]⟩,
   ⟨R.COR_TRAPVAL 0, [(128, 0x2000)], .ro, [(0xFFFFFFFF, 0x0)]⟩,
   ⟨R.COR_TRAP_CLR 0, [(128, 0x2000)], .wo, [(0x1, 0x0)]⟩,
   ⟨R.COR_ISSUE 0, [(128, 0x2000)], .rc, [(0xFFFFFFFF, 0x0)]⟩,
   ⟨R.COR_STALLC 0, [(128, 0x2000)], .rc, [(0xFFFFFFFF, 0x0)]⟩,
   ⟨R.COR_ILL 0, [(128, 0x2000)], .rc, [(0xFFFFFFFF, 0x0)]⟩,
   ⟨R.COR_FPREP 0, [(128, 0x2000)], .rc, [(0xFFFFFFFF, 0x0)]⟩,
   ⟨R.COR_NOEND 0, [(128, 0x2000)], .rc, [(0xFFFFFFFF, 0x0)]⟩]

/-- The rows of the FEN_ block. -/
def RegMap.rowsFEN : List RegRow :=
  [⟨R.FEN_PTAB 0, [(16, 0x10000)], .stg, [(0xFFFFFFC0, 0x0)]⟩,
   ⟨R.FEN_STAT 0, [(16, 0x10000)], .ro, [(0xC7FFFF00, 0x0)]⟩,
   ⟨R.FEN_CTX 0, [(16, 0x10000)], .ro, [(0x80000FFF, 0x0)]⟩,
   ⟨R.FEN_SOLVES 0, [(16, 0x10000)], .rc, [(0xFFFFFFFF, 0x0)]⟩,
   ⟨R.FEN_CONV 0, [(16, 0x10000)], .rc, [(0xFFFFFFFF, 0x0)]⟩,
   ⟨R.FEN_DLINE 0, [(16, 0x10000)], .rc, [(0xFFFFFFFF, 0x0)]⟩,
   ⟨R.FEN_WARM 0, [(16, 0x10000)], .rc, [(0xFFFFFFFF, 0x0)]⟩,
   ⟨R.FEN_SAFE 0, [(16, 0x10000)], .rc, [(0xFFFFFFFF, 0x0)]⟩,
   ⟨R.FEN_FAILC 0, [(16, 0x10000)], .rc, [(0xFFFFFFFF, 0x0)]⟩,
   ⟨R.FEN_PGC 0, [(16, 0x10000)], .rc, [(0xFFFFFFFF, 0x0)]⟩,
   ⟨R.FEN_FREJC 0, [(16, 0x10000)], .rc, [(0xFFFFFFFF, 0x0)]⟩,
   ⟨R.FEN_FLAGS 0, [(16, 0x10000)], .w1c, [(0x7, 0x0)]⟩,
   ⟨R.FEN_LAST 0 0, [(16, 0x10000), (8, 0x4)], .ro, [(0xFFFFFFFF, 0x0)]⟩]

/-- The rows of the SPD_ block. -/
def RegMap.rowsSPD : List RegRow :=
  [⟨R.SPD_PGCTL 0, [(144, 0x1000)], .wo, [(0x1FFFF, 0x0)]⟩,
   ⟨R.SPD_PGSTAT 0, [(144, 0x1000)], .ro, [(0xFFFFFFFF, 0x0)]⟩,
   ⟨R.SPD_PGCODE 0, [(144, 0x1000)], .ro, [(0xFFF, 0x0)]⟩,
   ⟨R.SPD_PODSTAT 0, [(144, 0x1000)], .ro, [(0xF, 0x0)]⟩,
   ⟨R.SPD_PODFORCE 0, [(144, 0x1000)], .rc, [(0xFFFFFFFF, 0x0)]⟩,
   ⟨R.SPD_FLAGS 0, [(144, 0x1000)], .w1c, [(0x3, 0x0)]⟩,
   ⟨R.SPD_INFLIGHT 0 0, [(144, 0x1000), (16, 0x4)], .ro, [(0x3F, 0x0)]⟩,
   ⟨R.SPD_SOFT 0 0, [(144, 0x1000), (16, 0x8)], .rc, [(0xFFFFFFFF, 0x0)]⟩,
   ⟨R.SPD_HARD 0 0, [(144, 0x1000), (16, 0x8)], .rc, [(0xFFFFFFFF, 0x0)]⟩,
   ⟨R.SPD_PHND 0 0, [(8, 0x1000), (1024, 0x4)], .rw, [(0xFFFFFFFF, 0x0)]⟩,
   ⟨R.SPD_AHND 0 0, [(8, 0x1000), (1024, 0x4)], .ro, [(0xFFFFFFFF, 0x0)]⟩]

/-- The rows of the ECC_ block. -/
def RegMap.rowsECC : List RegRow :=
  [⟨R.ECC_FLAGS, [], .w1c, [(0x1F, 0x0)]⟩,
   ⟨R.ECC_LOGCNT, [], .ro, [(0xFFFFFFFF, 0x0)]⟩,
   ⟨R.ECC_INJCTL, [], .rw, [(0x800000FF, 0x0)]⟩,
   ⟨R.ECC_INJOFF, [], .rw, [(0xFFFFFFF8, 0x0), (0xF, 0x0)]⟩,
   ⟨R.ECC_INJDATA, [], .rw, [(0xFFFFFFFF, 0x0), (0xFFFFFFFF, 0x0)]⟩,
   ⟨R.ECC_INJCHK, [], .rw, [(0xFF, 0x0)]⟩,
   ⟨R.ECC_LOG 0 0, [(16, 0x10), (4, 0x4)], .ro, [(0xFFFFFFFF, 0x0)]⟩,
   ⟨R.ECC_SCRUB_EN 0, [(145, 0x1000)], .rw, [(0xFFFF, 0x0)]⟩,
   ⟨R.ECC_SCRUB_LIM 0, [(145, 0x1000)], .rw, [(0xFFFFFFFF, 0xFFFFFFFF)]⟩,
   ⟨R.ECC_MSCRUB 0, [(145, 0x1000)], .rw, [(0xFFFF, 0xA)]⟩,
   ⟨R.ECC_LAP_LAST 0, [(145, 0x1000)], .ro, [(0xFFFFFFFF, 0x0)]⟩,
   ⟨R.ECC_LAP_MAX 0, [(145, 0x1000)], .rc, [(0xFFFFFFFF, 0x0)]⟩,
   ⟨R.ECC_LAPS 0, [(145, 0x1000)], .ro, [(0xFFFFFFFF, 0x0)]⟩,
   ⟨R.ECC_CECNT 0, [(145, 0x1000)], .rc, [(0xFFFFFFFF, 0x0)]⟩,
   ⟨R.ECC_UECNT 0, [(145, 0x1000)], .rc, [(0xFFFFFFFF, 0x0)]⟩,
   ⟨R.ECC_PSNCNT 0, [(145, 0x1000)], .rc, [(0xFFFFFFFF, 0x0)]⟩,
   ⟨R.ECC_WBDROP 0, [(145, 0x1000)], .rc, [(0xFFFFFFFF, 0x0)]⟩,
   ⟨R.ECC_CE_THR 0, [(145, 0x1000)], .rw, [(0xFFFFFFFF, 0x100)]⟩,
   ⟨R.ECC_MFLAGS 0, [(145, 0x1000)], .w1c, [(0x1F, 0x0)]⟩,
   ⟨R.ECC_WBQ 0, [(145, 0x1000)], .ro, [(0xF, 0x0)]⟩,
   ⟨R.ECC_RMADD 0, [(145, 0x1000)], .stg, [(0xFFFFF, 0x0)]⟩,
   ⟨R.ECC_RMCOMMIT 0, [(145, 0x1000)], .wo, [(0x1, 0x0)]⟩,
   ⟨R.ECC_RMSTAT 0, [(145, 0x1000)], .ro, [(0x800000FF, 0x0)]⟩,
   ⟨R.ECC_RM 0 0, [(145, 0x1000), (8, 0x4)], .ro, [(0xC00FFFFF, 0x0)]⟩]

/-- The rows of the DMA_ block. -/
def RegMap.rowsDMA : List RegRow :=
  [⟨R.DMA_DBASE 0, [(16, 0x10000)], .stg, [(0xFFFFFFFF, 0x0)]⟩,
   ⟨R.DMA_CHSTAT 0 0, [(16, 0x10000), (8, 0x40)], .ro, [(0xCFFFCFFF, 0x0)]⟩,
   ⟨R.DMA_CHCTL 0 0, [(16, 0x10000), (8, 0x40)], .wo, [(0xF0000FFF, 0x0)]⟩,
   ⟨R.DMA_CHCFG 0 0, [(16, 0x10000), (8, 0x40)], .rw, [(0xFFFF, 0x100)]⟩,
   ⟨R.DMA_CHDONE 0 0, [(16, 0x10000), (8, 0x40)], .ro, [(0xFFFFFFFF, 0x0)]⟩,
   ⟨R.DMA_CHADDR 0 0, [(16, 0x10000), (8, 0x40)], .ro, [(0xFFFFFFFF, 0x0), (0xFFFFFFFF, 0x0)]⟩,
   ⟨R.DMA_CHCNT 0 0, [(16, 0x10000), (8, 0x40)], .rc, [(0xFFFFFFFF, 0x0)]⟩,
   ⟨R.DMA_CHBYTES 0 0, [(16, 0x10000), (8, 0x40)], .rc, [(0xFFFFFFFF, 0x0)]⟩,
   ⟨R.DMA_CHCTX 0 0, [(16, 0x10000), (8, 0x40)], .ro, [(0x80000FFF, 0x0)]⟩,
   ⟨R.DMA_FLAGS 0, [(16, 0x10000)], .w1c, [(0xFF, 0x0)]⟩,
   ⟨R.DMA_BUSYST 0, [(16, 0x10000)], .rc, [(0xFFFFFFFF, 0x0)]⟩,
   ⟨R.DMA_IGN 0, [(16, 0x10000)], .rc, [(0xFFFFFFFF, 0x0)]⟩,
   ⟨R.DMA_PORTU 0, [(16, 0x10000)], .rc, [(0xFFFFFFFF, 0x0)]⟩]

/-- The rows of the MEM_ block. -/
def RegMap.rowsMEM : List RegRow :=
  [⟨R.MEM_PDCFG, [], .rw, [(0xFFFF, 0xA)]⟩,
   ⟨R.MEM_INIT, [], .rw, [(0xF0001FF, 0x5000010)]⟩,
   ⟨R.MEM_STAT, [], .ro, [(0xCF000FFF, 0x0)]⟩,
   ⟨R.MEM_ORG, [], .ro, [(0x1FF, 0x0)]⟩,
   ⟨R.MEM_REFM, [], .ro, [(0xFFFF, 0x0)]⟩,
   ⟨R.MEM_RDCNT, [], .rc, [(0xFFFFFFFF, 0x0)]⟩,
   ⟨R.MEM_WRCNT, [], .rc, [(0xFFFFFFFF, 0x0)]⟩,
   ⟨R.MEM_RMWCNT, [], .rc, [(0xFFFFFFFF, 0x0)]⟩,
   ⟨R.MEM_RETRAIN, [], .rc, [(0xFFFFFFFF, 0x0)]⟩,
   ⟨R.MEM_FLAGS, [], .w1c, [(0x3, 0x0)]⟩]

/-- The rows of the ETH_ block. -/
def RegMap.rowsETH : List RegRow :=
  [⟨R.ETH_CFG 0, [(4, 0x10000)], .stg, [(0xF8000FFF, 0x8000001)]⟩,
   ⟨R.ETH_MAC 0, [(4, 0x10000)], .stg, [(0xFFFFFFFF, 0x0), (0xFFFF, 0x0)]⟩,
   ⟨R.ETH_MC 0 0, [(4, 0x10000), (16, 0x8)], .stg, [(0xFFFFFFFF, 0x0), (0x8000FFFF, 0x0)]⟩,
   ⟨R.ETH_VID 0 0, [(4, 0x10000), (16, 0x4)], .stg, [(0x80000FFF, 0x0)]⟩,
   ⟨R.ETH_QCFG 0 0, [(4, 0x10000)], .stg, [(0xF000FFFF, 0x64), (0xF000FFFF, 0x10000064), (0xF000FFFF, 0x20000064), (0xF000FFFF, 0x30000064), (0xF000FFFF, 0x40000064), (0xF000FFFF, 0x50000064), (0xF000FFFF, 0x60000064), (0xF000FFFF, 0x70000064)]⟩,
   ⟨R.ETH_TSC 0, [(4, 0x10000)], .stg, [(0xFFFFFFFF, 0x0)]⟩,
   ⟨R.ETH_COMMIT 0, [(4, 0x10000)], .wo, [(0x1, 0x0)]⟩,
   ⟨R.ETH_STATUS 0, [(4, 0x10000)], .ro, [(0xC00000FF, 0x0)]⟩,
   ⟨R.ETH_RXFRM 0, [(4, 0x10000)], .rc, [(0xFFFFFFFF, 0x0)]⟩,
   ⟨R.ETH_RXFCS 0, [(4, 0x10000)], .rc, [(0xFFFFFFFF, 0x0)]⟩,
   ⟨R.ETH_RXSIZE 0, [(4, 0x10000)], .rc, [(0xFFFFFFFF, 0x0)]⟩,
   ⟨R.ETH_RXFILT 0, [(4, 0x10000)], .rc, [(0xFFFFFFFF, 0x0)]⟩,
   ⟨R.ETH_RXPAUSE 0, [(4, 0x10000)], .rc, [(0xFFFFFFFF, 0x0)]⟩,
   ⟨R.ETH_RXOVF 0, [(4, 0x10000)], .rc, [(0xFFFFFFFF, 0x0)]⟩,
   ⟨R.ETH_TXFRM 0, [(4, 0x10000)], .rc, [(0xFFFFFFFF, 0x0)]⟩,
   ⟨R.ETH_TXLATE 0, [(4, 0x10000)], .rc, [(0xFFFFFFFF, 0x0)]⟩,
   ⟨R.ETH_TXDROP 0, [(4, 0x10000)], .rc, [(0xFFFFFFFF, 0x0)]⟩,
   ⟨R.ETH_FLAGS 0, [(4, 0x10000)], .w1c, [(0x7, 0x0)]⟩,
   ⟨R.ETH_QOCC 0 0, [(4, 0x10000), (8, 0x4)], .ro, [(0x1F, 0x0)]⟩]

/-- The rows of the CARR_ block. -/
def RegMap.rowsCARR : List RegRow :=
  [⟨R.CARR_CFG, [], .stg, [(0xFFFF0001, 0x88B50000)]⟩,
   ⟨R.CARR_TXCFG, [], .stg, [(0xFFFF0000, 0x640000)]⟩,
   ⟨R.CARR_PHDST, [], .stg, [(0xFFFFFFFF, 0x0), (0xFFFF, 0x0)]⟩,
   ⟨R.CARR_HRXBASE, [], .stg, [(0xFFFFFFFF, 0x0), (0xFFFFFFFF, 0x0)]⟩,
   ⟨R.CARR_HTXBASE, [], .stg, [(0xFFFFFFFF, 0x0), (0xFFFFFFFF, 0x0)]⟩,
   ⟨R.CARR_HRCFG, [], .stg, [(0xFFFF003F, 0x440A0000)]⟩,
   ⟨R.CARR_PEER 0, [(32, 0x8)], .stg, [(0xFFFFFFFF, 0x0), (0x8003FFFF, 0x0)]⟩,
   ⟨R.CARR_COMMIT, [], .wo, [(0x1, 0x0)]⟩,
   ⟨R.CARR_STATUS, [], .ro, [(0x80007FFF, 0x0)]⟩,
   ⟨R.CARR_SCHEMA, [], .ro, [(0xFFFF, 0x302)]⟩,
   ⟨R.CARR_VCNT 0, [(16, 0x4)], .rc, [(0xFFFFFFFF, 0x0)]⟩,
   ⟨R.CARR_VFLAGS, [], .w1c, [(0xFFFF, 0x0)]⟩,
   ⟨R.CARR_PLACED, [], .rc, [(0xFFFFFFFF, 0x0)]⟩,
   ⟨R.CARR_SUBST, [], .rc, [(0xFFFFFFFF, 0x0)]⟩,
   ⟨R.CARR_TXNCNT, [], .rc, [(0xFFFFFFFF, 0x0)]⟩,
   ⟨R.CARR_NAKDROP, [], .rc, [(0xFFFFFFFF, 0x0)]⟩,
   ⟨R.CARR_HRXDROP, [], .rc, [(0xFFFFFFFF, 0x0)]⟩,
   ⟨R.CARR_COMLATE, [], .rc, [(0xFFFFFFFF, 0x0)]⟩,
   ⟨R.CARR_VLOGCNT, [], .ro, [(0xFFFFFFFF, 0x0)]⟩,
   ⟨R.CARR_PEERST 0, [(32, 0x4)], .ro, [(0x8000FFFF, 0x0)]⟩,
   ⟨R.CARR_VLOG 0 0, [(32, 0x10), (4, 0x4)], .ro, [(0xFFFFFFFF, 0x0)]⟩,
   ⟨R.CARR_PARSE 0 0, [(2, 0x1000), (64, 0x20), (8, 0x4)], .stg, [(0xFFFFFFFF, 0x0)]⟩,
   ⟨R.CARR_TMPL 0 0, [(64, 0x20), (8, 0x4)], .stg, [(0xFFFFFFFF, 0x0)]⟩]

/-- The rows of the MIR_ block. -/
def RegMap.rowsMIR : List RegRow :=
  [⟨R.MIR_CFG, [], .stg, [(0xFFFFFFFF, 0x5000000A)]⟩,
   ⟨R.MIR_FWDCFG, [], .stg, [(0xFFFFFFFF, 0x320014)]⟩,
   ⟨R.MIR_POL 0, [(64, 0x8)], .stg, [(0xC000FFFF, 0x0), (0x0, 0x0)]⟩,
   ⟨R.MIR_COMMIT, [], .wo, [(0x1, 0x0)]⟩,
   ⟨R.MIR_STATUS, [], .ro, [(0x800000FF, 0x0)]⟩,
   ⟨R.MIR_STAT, [], .ro, [(0xFFC0FF00, 0x40000000)]⟩,
   ⟨R.MIR_CTL, [], .wo, [(0xF0000000, 0x0)]⟩,
   ⟨R.MIR_FLAGS, [], .w1c, [(0x7F, 0x0)]⟩,
   ⟨R.MIR_DIVINFO, [], .ro, [(0xFEFFFFFF, 0x0)]⟩,
   ⟨R.MIR_DIVCTX, [], .ro, [(0xFFF, 0x0)]⟩,
   ⟨R.MIR_DIVCLR, [], .w1c, [(0x1, 0x0)]⟩,
   ⟨R.MIR_DIVSTEP, [], .ro, [(0xFFFFFFFF, 0x0), (0xFFFFFFFF, 0x0)]⟩,
   ⟨R.MIR_DIVOWN, [], .ro, [(0xFFFFFFFF, 0x0), (0xFFFFFFFF, 0x0)]⟩,
   ⟨R.MIR_DIVPEER, [], .ro, [(0xFFFFFFFF, 0x0), (0xFFFFFFFF, 0x0)]⟩,
   ⟨R.MIR_AGREE, [], .rc, [(0xFFFFFFFF, 0x0)]⟩,
   ⟨R.MIR_DIVC, [], .rc, [(0xFFFFFFFF, 0x0)]⟩,
   ⟨R.MIR_POISC, [], .rc, [(0xFFFFFFFF, 0x0)]⟩,
   ⟨R.MIR_MISSC, [], .rc, [(0xFFFFFFFF, 0x0)]⟩,
   ⟨R.MIR_SKIPC, [], .rc, [(0xFFFFFFFF, 0x0)]⟩,
   ⟨R.MIR_CMPOVF, [], .rc, [(0xFFFFFFFF, 0x0)]⟩,
   ⟨R.MIR_HBMISS, [], .rc, [(0xFFFFFFFF, 0x0)]⟩,
   ⟨R.MIR_SUPPR, [], .rc, [(0xFFFFFFFF, 0x0)]⟩,
   ⟨R.MIR_HOLDC, [], .rc, [(0xFFFFFFFF, 0x0)]⟩,
   ⟨R.MIR_INCONF, [], .rc, [(0xFFFFFFFF, 0x0)]⟩] ++
  [⟨R.MIR_FWDREQC, [], .rc, [(0xFFFFFFFF, 0x0)]⟩,
   ⟨R.MIR_FWDC, [], .rc, [(0xFFFFFFFF, 0x0)]⟩,
   ⟨R.MIR_FWDNONE, [], .rc, [(0xFFFFFFFF, 0x0)]⟩,
   ⟨R.MIR_LOST 0, [(2, 0x4)], .rc, [(0xFFFFFFFF, 0x0)]⟩,
   ⟨R.MIR_LERR 0, [(2, 0x4)], .rc, [(0xFFFFFFFF, 0x0)]⟩,
   ⟨R.MIR_BHASH 0, [(8, 0x8)], .ro, [(0xFFFFFFFF, 0x0), (0xFFFFFFFF, 0x0)]⟩,
   ⟨R.MIR_PHASH 0, [(8, 0x8)], .ro, [(0xFFFFFFFF, 0x0), (0xFFFFFFFF, 0x0)]⟩,
   ⟨R.MIR_SKEQ 0, [(8, 0x4)], .rc, [(0xFFFFFFFF, 0x0)]⟩,
   ⟨R.MIR_SKNE 0, [(8, 0x4)], .rc, [(0xFFFFFFFF, 0x0)]⟩,
   ⟨R.MIR_DIVMAP 0, [(128, 0x4)], .w1c, [(0xFFFFFFFF, 0x0)]⟩,
   ⟨R.MIR_VERD 0 0, [(4096, 0x20), (4, 0x8)], .ro, [(0x7, 0x0), (0xFFFFFFFF, 0x0)]⟩]

/-- The rows of the PCI_ block. -/
def RegMap.rowsPCI : List RegRow :=
  [⟨R.PCI_MWBASE, [], .rw, [(0xF0000000, 0x0), (0xF, 0x0)]⟩,
   ⟨R.PCI_CFG, [], .rw, [(0xFFFF, 0x32)]⟩,
   ⟨R.PCI_STAT, [], .ro, [(0xFF0000FF, 0x1C)]⟩,
   ⟨R.PCI_CTOCNT, [], .rc, [(0xFFFFFFFF, 0x0)]⟩,
   ⟨R.PCI_ERRCNT, [], .rc, [(0xFFFFFFFF, 0x0)]⟩,
   ⟨R.PCI_STARVE, [], .rc, [(0xFFFFFFFF, 0x0)]⟩,
   ⟨R.PCI_EPRX, [], .rc, [(0xFFFFFFFF, 0x0)]⟩,
   ⟨R.PCI_FLRCNT, [], .ro, [(0xFFFFFFFF, 0x0)]⟩,
   ⟨R.PCI_RUN, [], .ro, [(0x3, 0x0)]⟩,
   ⟨R.PCI_MSIX 0 0, [(64, 0x10)], .rw, [(0xFFFFFFFC, 0x0), (0xFFFFFFFF, 0x0), (0xFFFFFFFF, 0x0), (0x1, 0x1)]⟩,
   ⟨R.PCI_PBA 0, [(2, 0x4)], .ro, [(0xFFFFFFFF, 0x0)]⟩]

/-- The rows of the SEC_ block. -/
def RegMap.rowsSEC : List RegRow :=
  [⟨R.SEC_BOOTSTAT, [], .ro, [(0xF0FFFFC0, 0x0)]⟩,
   ⟨R.SEC_BOOTCTL, [], .wo, [(0x1, 0x0)]⟩,
   ⟨R.SEC_LIFE, [], .ro, [(0xFC0000FF, 0x0)]⟩,
   ⟨R.SEC_ARBREQ, [], .wo, [(0xFF, 0x0)]⟩,
   ⟨R.SEC_ARBSTAT, [], .ro, [(0x800000FF, 0x0)]⟩,
   ⟨R.SEC_FLAGS, [], .w1c, [(0x3, 0x0)]⟩,
   ⟨R.SEC_CHIPRST, [], .wo, [(0xFFFFFFFF, 0x0)]⟩,
   ⟨R.SEC_VADDR, [], .rw, [(0xFFFFFFFF, 0x0), (0xFFFFFFFF, 0x0)]⟩,
   ⟨R.SEC_VCTL, [], .wo, [(0x80000007, 0x0)]⟩,
   ⟨R.SEC_VSTAT, [], .ro, [(0x800007FF, 0x0)]⟩,
   ⟨R.SEC_UNLOCK, [], .wo, [(0xFF, 0x0)]⟩,
   ⟨R.SEC_AADDR, [], .rw, [(0xFFFFFFFF, 0x0), (0xFFFFFFFF, 0x0)]⟩,
   ⟨R.SEC_ACTL, [], .wo, [(0x1, 0x0)]⟩,
   ⟨R.SEC_ASTAT, [], .ro, [(0x800000FF, 0x0)]⟩,
   ⟨R.SEC_NONCE 0, [(8, 0x4)], .rw, [(0xFFFFFFFF, 0x0)]⟩,
   ⟨R.SEC_M 0 0, [(12, 0x30), (12, 0x4)], .ro, [(0xFFFFFFFF, 0x0)]⟩,
   ⟨R.SEC_EDPUB 0, [(8, 0x4)], .ro, [(0xFFFFFFFF, 0x0)]⟩,
   ⟨R.SEC_MLPUB 0, [(488, 0x4)], .ro, [(0xFFFFFFFF, 0x0)]⟩,
   ⟨R.SEC_SERIAL 0, [(4, 0x4)], .ro, [(0xFFFFFFFF, 0x0)]⟩,
   ⟨R.SEC_SLOT 0 0, [(4, 0x60), (24, 0x4)], .ro, [(0xFFFFFFFF, 0x0)]⟩]

/-- The rows of the TST_ block. -/
def RegMap.rowsTST : List RegRow :=
  [⟨R.TST_PHYSMAP, [], .ro, [(0xFFFFFFFF, 0x0), (0xFFFFFFFF, 0x0)]⟩,
   ⟨R.TST_FUSEOFF, [], .ro, [(0xFFFF, 0x0)]⟩,
   ⟨R.TST_LGEN 0, [(6, 0x20)], .rw, [(0xC00F0100, 0x0)]⟩,
   ⟨R.TST_LCHK 0, [(6, 0x20)], .rw, [(0xC00F0000, 0x0)]⟩,
   ⟨R.TST_LSTAT 0, [(6, 0x20)], .ro, [(0x80000000, 0x0)]⟩,
   ⟨R.TST_LERR 0, [(6, 0x20)], .rc, [(0xFFFFFFFF, 0x0)]⟩,
   ⟨R.TST_LTUNE 0, [(6, 0x20)], .rw, [(0xFFFFFFFF, 0x0)]⟩,
   ⟨R.TST_MEMCTL, [], .wo, [(0xC0000000, 0x0)]⟩,
   ⟨R.TST_MLBCTL, [], .rw, [(0x8000000F, 0x0)]⟩,
   ⟨R.TST_MLBLINE 0, [(4, 0x4)], .w1c, [(0xFFFFFF, 0x0)]⟩,
   ⟨R.TST_MBCTL, [], .wo, [(0x80FFFFFF, 0x0)]⟩,
   ⟨R.TST_MBSTAT, [], .ro, [(0xC000FFFF, 0x0)]⟩,
   ⟨R.TST_MBFAIL 0, [(8, 0x4)], .ro, [(0x800FFFFF, 0x0)]⟩]

/-- The rows of the block that holds BAR0 offset `off` (R11: the blocks lie at multiples of 1 MiB). -/
def RegMap.rowsAt (off : Nat) : List RegRow :=
  match off / 0x100000 with
  | 0 => RegMap.rowsGLB
  | 1 => RegMap.rowsSCH
  | 2 => RegMap.rowsTB
  | 3 => RegMap.rowsCLU
  | 4 => RegMap.rowsCOR
  | 5 => RegMap.rowsFEN
  | 6 => RegMap.rowsSPD
  | 7 => RegMap.rowsECC
  | 8 => RegMap.rowsDMA
  | 9 => RegMap.rowsMEM
  | 10 => RegMap.rowsETH
  | 11 => RegMap.rowsCARR
  | 12 => RegMap.rowsMIR
  | 13 => RegMap.rowsPCI
  | 14 => RegMap.rowsSEC
  | 15 => RegMap.rowsTST
  | _ => []

/-- The byte offset, within one register, of offset `d` from the first instance, when `d` falls in the array that
`dims` describes. -/
def RegMap.within : List (Nat × Nat) → Nat → Option Nat
  | [], d => some d
  | (c, st) :: ds, d => if d / st < c then RegMap.within ds (d % st) else none

/-- What the map says of one 32-bit word: its access code, the bits that are not reserved, its reset value, whether
it is half of a 64-bit register (R16), and its place in the register. -/
structure RegWord where
  acc   : Access
  mask  : Nat
  reset : Nat
  wide  : Bool
  idx   : Nat
  deriving DecidableEq, Repr

/-- The word of row `r` at offset `off`: what the map says of it. -/
def RegRow.wordAt (r : RegRow) (off : Nat) : Option RegWord :=
  if off < r.base then none else
  match RegMap.within r.dims (off - r.base) with
  | none => none
  | some d =>
    if d % 4 = 0 then
      match r.words[d / 4]? with
      | some (m, v) => some ⟨r.acc, m, v, decide (r.words.length = 2), d / 4⟩
      | none => none
    else none

/-- The first row of `rs` that holds offset `off`. -/
def RegMap.find (rs : List RegRow) (off : Nat) : Option RegWord :=
  match rs with
  | [] => none
  | r :: rs =>
    match r.wordAt off with
    | some w => some w
    | none => RegMap.find rs off

/-- The word at `off`; the twin of a staged word is read-only with the same bits and reset value (R19). -/
def RegMap.word (off : Nat) : Option RegWord :=
  match RegMap.find (RegMap.rowsAt off) off with
  | some w => some w
  | none =>
    if off < 0x800 then none else
    match RegMap.find (RegMap.rowsAt (off - 0x800)) (off - 0x800) with
    | some w => if w.acc = .stg then some { w with acc := .ro } else none
    | none => none

/-- The value the word at `off` takes at reset; 0 where no register lies (R9: the rest reads zero). -/
def RegMap.resetValue (off : Nat) : BitVec 32 :=
  match RegMap.word off with
  | some w => BitVec.ofNat 32 w.reset
  | none => 0

/-- Offset of the read-only twin that holds a staged register's active value (R19). -/
def R.twin (off : Nat) : Nat := off + 0x800

end Sys2Proof.Machine
end

