-- ==== Sys2Proof/Machine/State.lean ====
section
/-! DEFINITION. The state of the device as plain data, and the state after power-on reset. Memory-mapped registers lie in
one sparse table by BAR0 offset; what the spec keeps beside them has fields of its own. -/

namespace Sys2Proof.Machine

/-- Reasons a step can stop: none. Every failure the spec describes is an effect and a next state. -/
inductive Fault : Type
  deriving DecidableEq, Repr

/-- Reasons a command can be refused. -/
inductive Refusal where
  /-- A command without a meaning yet, by its mnemonic: safe, since nothing follows from it. -/
  | notModelled (mnemonic : String)
  deriving DecidableEq, Repr

/-! ## What leaves the device (the model's own record, log entry 7) -/

/-- One thing the device does to the world outside. -/
inductive Output where
  /-- An MSI-X message (R408). -/
  | msix (vec : Nat)
  /-- A frame starts on a port (0 to 3, or 4 + lane). -/
  | frame (port : Nat) (bytes : List Byte)
  /-- The value a register read returns. -/
  | readWord (off : Nat) (value : Word)
  /-- A completion of a BAR2 read: its data, or `none` for Completer Abort, and whether its EP bit is set. -/
  | completion (data : Option (List Byte)) (ep : Bool)
  /-- A posted write refused and reported through AER as a Completer Abort (R403). -/
  | aerAbort
  /-- A posted write to host memory. -/
  | hostWrite (addr : Nat) (bytes : List Byte)
  /-- A read request to host memory, by tag. -/
  | hostRead (tag addr len : Nat)
  /-- The output pin TB_PPS_OUT (R65). -/
  | pps (level : Bool)
  /-- The output pin THERMTRIP_N (R478). -/
  | thermtrip (level : Bool)
  deriving DecidableEq, Repr

/-! ## Event log, escalation, host interface (13_host_and_recovery.md) -/

/-- A queued event record (R422): its eight words. -/
structure LogRec where
  words  : List Word
  urgent : Bool
  deriving DecidableEq, Repr

/-- The log writer (R423, R425). -/
structure LogWriter where
  /-- The queue of at most 64 records, oldest first. -/
  queue    : List LogRec
  /-- Records were dropped since the last one kept. -/
  lost     : Bool
  /-- Records written to the ring and not yet signalled by VEC: index and raw time of the write, oldest first (R424). -/
  unsig    : List (Word × Dword)
  deriving DecidableEq, Repr

/-- One unit of an escalation scope (R426). -/
structure EscUnit where
  run    : Nat
  action : Bool
  deriving DecidableEq, Repr

/-- The requester of an outbound request (R405, R406). -/
inductive Requester where
  /-- A DMA channel, cluster × 8 + channel. -/
  | dma (chan : Nat)
  /-- A Carr transmit-ring entry read or transmit-buffer read, or a receive-ring entry read. -/
  | txEntry
  /-- A buffer read, with the entry and the bytes that earlier requests of the same buffer brought. -/
  | txBuffer (entry got : List Byte)
  | rxEntry
  deriving DecidableEq, Repr

/-- An outstanding outbound read (R405, R406). -/
structure Outbound where
  tag  : Nat
  who  : Requester
  addr : Nat
  len  : Nat
  raw  : Dword
  deriving DecidableEq, Repr

/-- One executed ring entry, waiting for its write-back (R413). -/
structure RingDone where
  ring : Nat
  addr : Nat
  code : Nat
  fc   : Dword
  irq  : Bool
  /-- The WRITE64 address and data, made in the same sequence. -/
  wr   : Option (Nat × Dword)
  deriving DecidableEq, Repr

/-- PCIe function state outside the registers (R401, R405 to R407, R413). -/
structure HostIf where
  busMaster  : Bool
  d3hot      : Bool
  /-- Completion Timeout Value of Device Control 2. -/
  cto        : Nat
  /-- Max_Read_Request_Size of Device Control: 128 × 2^mrrs bytes (R400, R405). -/
  mrrs       : Nat
  compliance : Bool
  /-- PERST_N is low: the link is held in Detect. -/
  perst      : Bool
  outbound   : List Outbound
  nextTag    : Nat
  /-- Entries executed by the last poll and not yet written back; CONS to write per ring; the cluster polled. -/
  ringDone   : List RingDone
  ringCons   : List (Nat × Nat × Dword)
  ringVecs   : List Nat
  pollCl     : Nat
  /-- Raw time of the last GLB_HOSTHB write, and whether HOST_SILENT was logged since (R430). -/
  hbRaw      : Dword
  silent     : Bool
  /-- Raw time of the last best-effort poll (R409). -/
  pollRaw    : Dword
  deriving DecidableEq, Repr

/-! ## Timebase (02_time_and_phase.md) -/

/-- The states of the phase clock (R58). -/
inductive PhState where
  | free | acquire | locked | holdover
  deriving DecidableEq, Repr

/-- One PHASE_IN input (R55): the ball, the three synchroniser stages, the filtered level, the cycles a new level has held,
the divider's count, and whether a candidate edge is recognised in this cycle. -/
structure Pin where
  ball : Bool
  s1   : Bool
  s2   : Bool
  s3   : Bool
  filt : Bool
  hold : Nat
  div  : Nat
  cand : Bool
  deriving DecidableEq, Repr

/-- The coast clock of a partition (R71); `ending` says that coasting ends in this cycle, which the partition's entries still follow (R72). -/
structure Coast where
  acc  : BitVec 48
  prev : BitVec 48
  inc  : BitVec 48
  w    : Word
  ending : Bool
  deriving DecidableEq, Repr

/-- The timebase unit (R47 to R72). -/
structure Timebase where
  raw      : Dword
  acc      : BitVec 48
  /-- The accumulator after the previous cycle. -/
  prev     : BitVec 48
  inc      : BitVec 48
  incI     : BitVec 48
  w        : Word
  /-- This is a phase-wrap cycle (R53); W has not yet counted it; W has counted it; an event list has set W to 0 in it (R63). -/
  inWrap   : Bool
  wrapDue  : Bool
  wCounted : Bool
  wZero    : Bool
  state    : PhState
  src      : Nat
  pins     : FMap Pin
  /-- Consecutive accepted edges in the lock window; consecutive misses or rejects; consecutive good edges in LOCKED. -/
  lockRun  : Nat
  badRun   : Nat
  goodRun  : Nat
  /-- The previous candidate edge was accepted and nothing missed since, and its raw time. -/
  chained  : Bool
  lastEdge : Dword
  /-- The next accepted edge is the first of ACQUIRE (R59). -/
  first    : Bool
  /-- An edge was accepted since the last wrap, and since the window opened; a miss is to be counted in this cycle. -/
  accWrap  : Bool
  accWin   : Bool
  missDue  : Bool
  coast    : FMap Coast
  /-- Per partition a requested end of coasting (R72). -/
  coastEnd : Nat
  /-- Per entry of the active list the next trigger number m of a TIME entry; an entry that has fired for good is at 2^64. -/
  evtNext  : FMap Nat
  /-- Entries that have fired in this cycle. -/
  fired    : List Nat
  /-- An EVT commit was accepted in this cycle: its list waits for a later wrap (R66). -/
  evtNow   : Bool
  /-- inc_i as it stood at the start of this cycle (R71). -/
  incS     : BitVec 48
  /-- A pulse: cycles until it starts, then cycles it still lasts (R65). -/
  pulses   : List (Nat × Nat)
  pps      : Bool
  deriving DecidableEq, Repr

/-! ## Schedule (03_sedge_schedule.md) -/

/-- A frame of group g of partition p (R67 to R71). -/
structure Frame where
  /-- Raw time of the true anchor, and of the effective anchor when it has come; until then that of the frame before. -/
  trueRaw : Dword
  effRaw  : Option Dword
  prevEff : Option Dword
  hp      : Bool
  /-- The trigger phase of the anchor (R71), and W then. -/
  phase   : Word
  /-- The frame before had slip 0, and this one has. -/
  prevS0  : Bool
  s0      : Bool
  /-- The slots of the frame, those that have started, and those that have ended. -/
  slots   : List Nat
  started : List Nat
  ended   : List Nat
  /-- Base frames that have begun since the one at the true anchor (R86). -/
  wins    : Nat
  /-- FC counts from the first anchor after the first table (R91). -/
  counted : Bool
  deriving DecidableEq, Repr

/-- A command that runs on an engine (R95 to R101). -/
structure RunCmd where
  eng    : Engine
  part   : Nat
  slot   : Nat
  pos    : Nat
  /-- Slot kind (R82), group, job class. -/
  kind   : Nat
  group  : Nat
  jclass : Nat
  atomic : Bool
  /-- The context it works for; none for a batch. -/
  ctx    : Option Nat
  /-- Raw time of the first issue, of the start of the position or tile that runs, and cycles it held the engine before that. -/
  raw    : Dword
  start  : Dword
  held   : Nat
  /-- Group B: paused, its gap taken (R98). -/
  paused : Bool
  deriving DecidableEq, Repr

/-- The manifest of a loaded artifact, with what the schedule unit keeps of it (log entry 6). -/
structure LoadCheck where
  part : Nat
  man  : Manifest
  deriving DecidableEq, Repr

/-- A hot-set swap under way (R111). -/
structure HotSwap where
  part  : Nat
  model : Nat
  /-- RESIDENT has become none and the reloads have started; clusters still to complete. -/
  begun : Bool
  left  : List Nat
  /-- Failed attempts, and the bytes in place, by cluster (R321). -/
  tries : FMap Nat
  moved : FMap Nat
  deriving DecidableEq, Repr

/-- Measured and compiled cycles of the last completions of a group B class (R112), and whether SLOWDOWN is logged. -/
structure SlowSum where
  runs   : List (Nat × Nat)
  logged : Bool
  deriving DecidableEq, Repr

/-- A Reedbed walk under way (R43, R92): its partition, group and frame counter, how many times 256 entries it has read, and the jobs
(context × 4 + job) that began their step with it. -/
structure Walk where
  part  : Nat
  group : Nat
  fc    : Dword
  read  : Nat
  began : List Nat
  deriving DecidableEq, Repr

/-- The schedule unit (R76 to R112). -/
structure Sched where
  /-- Frames by partition × 4 + group. -/
  frames   : FMap Frame
  walks    : List Walk
  /-- CARR slots that have begun and not ended, as (partition, slot) (R102). -/
  lanes    : List (Nat × Nat)
  /-- Work lists by partition × 1024 + slot: the contexts that qualify, with their sub-frames (R84). -/
  work     : FMap (List (Nat × Nat))
  running  : List RunCmd
  /-- Contexts torn down whose ACTIVE has not been set since (R101, R102). -/
  torn     : List Nat
  /-- Jobs (context × 4 + job) that have begun a step since the entry became active (R93). -/
  begun    : List Nat
  /-- The group B class whose turn is next, per engine key. -/
  turns    : FMap Nat
  checking : Option LoadCheck
  /-- Manifests of accepted loads by partition, pending and active. -/
  pendMan  : FMap Manifest
  actMan   : FMap Manifest
  /-- Partitions whose removal is requested (R108), and those whose first table has taken effect. -/
  unload   : List Nat
  hot      : Option HotSwap
  /-- Spills under way: (partition, handle, unit, KiB) (R108). -/
  spills   : List (Nat × Nat × Nat × Nat)
  slow     : FMap SlowSum
  /-- Class suspensions are escalations of scope 1; class failures run in `esc`. The raw time of the first acceptance. -/
  firstRaw : Option Dword
  /-- Partitions whose active tables are valid: a load accepted since reset has taken effect (R268). -/
  tabled   : List Nat
  deriving DecidableEq, Repr

/-! ## Cores and arrays (04_core_isa.md, 05_tensor_arithmetic.md, 08_scratchpad.md) -/

/-- A float accumulator (R159, R168): a NaN, an infinity, or the value m × 2^e (zero is 0 × 2^0). -/
inductive FAcc where
  | nan
  | inf (neg : Bool)
  | fin (m e : Int)
  deriving DecidableEq, Repr

/-- One operand of a FLOAT step after input conversion (R164): m × 2^(e − 23) with m of 24 bits, or a special. -/
inductive FOp where
  | nan
  | inf (neg : Bool)
  | zero
  | num (neg : Bool) (m : Nat) (e : Int)
  deriving DecidableEq, Repr

/-- The accumulators of a cell (R159): the value as an integer or as a float, and four tangents. -/
structure Cell where
  ival : Int
  fval : FAcc
  t0 : FAcc
  t1 : FAcc
  t2 : FAcc
  t3 : FAcc
  deriving DecidableEq, Repr

/-- The operand rows of one k step (R155, R156): 16 elements of A and of B, and up to four rows of tangents. -/
structure KStep where
  a : List Word
  b : List Word
  t : List (List Word)
  deriving DecidableEq, Repr

/-- An AMM in progress (R154 to R158): its descriptor, ACC, its issue cycle and its row steps; the cycles it has been held; the cycle in which
the rows of its next step are presented, those still to be read, and those read with their bytes; the steps read, and the first and the last
product cycle of each. -/
structure AmmRun where
  w0     : Word
  w1     : Word
  rest   : List Word
  acc    : Bool
  issue  : Nat
  need   : Nat
  held   : Nat
  next   : Nat
  left   : List (Nat × Nat)
  got    : List ((Nat × Nat) × List Byte)
  steps  : List KStep
  prods  : List (Nat × Nat)
  deriving DecidableEq, Repr

/-- An AST that drains an array (R147, R242): its address, its set, the array's latch (R284), and the drain cycle to come with the core cycle in
which it is presented. -/
structure Drain where
  base : Nat
  set  : Nat
  poison : Bool
  d    : Nat
  next : Nat
  deriving DecidableEq, Repr

/-- A MAC array (R159, R170, R284). -/
structure Arr where
  cells  : FMap Cell
  /-- The class: FLOAT or integer, and NTAN. -/
  flt    : Bool
  ntan   : Nat
  sticky : Nat
  poison : Bool
  /-- AMMs in progress, oldest first, and the AST that drains it; the core cycle from which the array takes its next command, and, after a stop
  (R161), that in which its accumulators are complete. -/
  runs   : List AmmRun
  drain  : Option Drain
  free   : Nat
  accAt  : Nat
  deriving DecidableEq, Repr

/-- A request of a bank's wide side (R239, R250): memory, bank, the sub-bank of a write or none for the read bus, and the row. A narrow write of
a core's lane stands as sub-bank 8 + lane (R243, R276). -/
structure Claim where
  mem  : Nat
  bank : Nat
  sub  : Option Nat
  row  : Nat
  deriving DecidableEq, Repr

/-- A store of part of a word that has read it (R279): the core cycle in which the merged word is placed, its device address, and the word. -/
structure Merge where
  next : Nat
  addr : Nat
  data : Dword
  deriving DecidableEq, Repr

/-- A pod-buffer entry (R244): the row's device address and its valid words as (index, data, syndrome), oldest entry first
in the list of entries; and the indices of those that an earlier instance stored (R284). -/
structure PodEntry where
  slot  : Nat
  row   : Nat
  words : List (Nat × Dword × Byte)
  old   : List Nat
  deriving DecidableEq, Repr

/-- A hardware loop (R151): first and last index of the body and the passes left, this one included. -/
structure HwLoop where
  first : Nat
  last  : Nat
  left  : Nat
  deriving DecidableEq, Repr

/-- A command halted by a trap (R143). -/
structure Halted where
  jclass : Nat
  cause  : Nat
  epc    : Nat
  etval  : Word
  deriving DecidableEq, Repr

/-- An open layer of a digest stream (R372 to R375): the running CRC, the words hashed, and POISON. -/
structure Digest where
  crc    : Dword
  words  : Nat
  poison : Bool
  deriving DecidableEq, Repr

/-- A digest record (R376). -/
structure DigRec where
  kind   : Nat
  poison : Bool
  batch  : Bool
  job    : Nat
  layer  : Nat
  part   : Nat
  ctx    : Nat
  ord    : Nat
  nrec   : Nat
  step   : Dword
  digest : Dword
  extra  : Dword
  deriving DecidableEq, Repr

/-- The records of a context-job's step so far (R376, R378). -/
structure StepRecs where
  digs   : List Dword
  poison : Bool
  deriving DecidableEq, Repr

/-- Digest records: those of each step in progress by context × 4 + job, those waiting to be sent, and own records kept for
comparison (R380, R384). -/
structure Digests where
  steps : FMap StepRecs
  /-- With the raw time at which each was closed. -/
  queue : List (DigRec × Dword)
  own   : List DigRec
  deriving DecidableEq, Repr

/-- A stalled best-effort WAIT (R149): its object, its target, and the raw time at which it reaches the object. -/
structure SeqWait where
  obj    : Nat
  target : Word
  raw    : Dword
  deriving DecidableEq, Repr

/-- A core (R121 to R151). Cycles are counted by `now`, the issue clock of the running instance (R116, R117). -/
structure Core where
  g      : FMap Word
  f      : FMap Dword
  /-- Row registers, lane i of v[n] at 16 n + i. -/
  v      : FMap Word
  pc     : Nat
  /-- Index of the last instruction issued (R153). -/
  last   : Nat
  run    : Bool
  part   : Nat
  slot   : Nat
  pos    : Nat
  jclass : Nat
  ctx    : Option Nat
  job    : Nat
  batch  : Bool
  /-- Contexts torn down since the batch began (R84). -/
  tornIn : List Nat
  /-- The raw time of cycle 0 of the issue clock; the cycle of the last issue; the first cycle whose wide writes are still to be made; the wide
  requests granted, as (cycle, order, request); the store that merges its word; and the cycle and row of the last word placed in the pod buffer
  (R241, R245, R250, R279). -/
  begRaw : Dword
  issAt  : Nat
  simAt  : Nat
  claims : List (Nat × Nat × Claim)
  merge  : Option Merge
  podAt  : Nat × Nat
  /-- Device address and length of the code handle (R115); the fetch word last read (R283). -/
  code   : Nat × Nat
  fetched : Nat
  /-- Cycle of the next issue, and of the next fetch word checked. -/
  now    : Nat
  ready  : FMap Nat
  mulFree : Nat
  divFree : Nat
  fpFree  : Nat
  /-- The last result's cycle, and the last FBAR snapshot's (R120, R142). -/
  doneAt  : Nat
  snapAt  : Nat
  /-- Nothing more issues: END has issued, or the next index is that of the command's next tile (R96, R115). -/
  ended   : Bool
  tileEnd : Bool
  tileAt  : Option Nat
  xflags : Word
  fctl   : Word
  tvec   : Word
  epc    : Word
  ecause : Word
  etval  : Word
  frep   : Word
  tflags : Word
  qmask  : FMap Word
  /-- Flags still to be set: cycle, XFLAGS bits, TFLAGS bits (R124, R170). -/
  late   : List (Nat × Nat × Nat)
  /-- FBAR snapshots to be taken: cycle, XFLAGS bits, TFLAGS bits (R142). -/
  snaps  : List (Nat × Nat × Nat)
  inTrap : Bool
  loops  : List HwLoop
  poison : Bool
  /-- A best-effort WAIT holds issue: its object (R149); `met` when its evaluation succeeded. -/
  waitOn : Option SeqWait
  waitMet : Bool
  halted : List Halted
  arrs   : FMap Arr
  pod    : List PodEntry
  /-- The open layers of the S and F streams (R372). -/
  dS     : Option Digest
  dF     : Option Digest
  deriving DecidableEq, Repr

/-! ## Synchronisation objects (R37 to R39) -/

/-- An operation on its way to an object. -/
inductive SyncKind where
  | signal (amount : Nat)
  /-- A WAIT by a sequencer, or by a DMA channel. -/
  | waitSeq (core : Nat) (target : Word)
  | waitDma (chan : Nat) (target : Word)
  | reset
  deriving DecidableEq, Repr

/-- A synchronisation operation that arrives at an object at a raw time. -/
structure SyncOp where
  obj  : Nat
  raw  : Dword
  kind : SyncKind
  deriving DecidableEq, Repr

/-! ## Memory integrity (09_memory_integrity.md) -/

/-- A queued correction (R277): its bank, word address, the corrected data, and the raw time of the read. -/
structure WbEntry where
  bank : Nat
  addr : Nat
  data : Dword
  raw  : Dword
  deriving DecidableEq, Repr

/-- The integrity state of one memory: its write-back queue, per bank the scrub row pointer, the words a scrub read corrected,
and banks that have finished their part of the lap; the lap's first raw time; a pending remap. -/
structure Integrity where
  wbq     : List WbEntry
  ptr     : FMap Nat
  scrubbed : FMap (List (Nat × Dword))
  done    : List Nat
  lapRaw  : Dword
  slow    : Bool
  remap   : Option Nat
  deriving DecidableEq, Repr

/-- What a bank is doing (R263 to R266): closing or waking since a raw time, and whether a test has found it free to turn off (R264). -/
structure BankBusy where
  closing : Bool
  raw     : Dword
  passed  : Bool
  deriving DecidableEq, Repr

/-! ## Fennel engines (07_fennel_solver.md) -/

/-- A Fennel engine: its registers, the running command with its descriptor and grant, the provisional result (R229), the
state row it read (R231), and what it keeps of the factor in progress. -/
structure Fennel where
  /-- Lane i of V[n] at 16 n + i; element (i, j) of the block registers at 16 i + j. -/
  v      : FMap Word
  blk0   : FMap Word
  blk1   : FMap Word
  run    : Bool
  part   : Nat
  slot   : Nat
  pos    : Nat
  jclass : Nat
  group  : Nat
  ctx    : Option Nat
  prog   : Nat
  gcore  : Nat
  amask  : Nat
  /-- The 16 words of the program descriptor (R211) and the device address of the data block (R212). -/
  desc   : FMap Word
  data   : Nat
  cold   : Bool
  /-- The provisional result. -/
  status : Nat
  side   : Nat
  iter   : Nat
  pres   : Word
  dres   : Word
  meas   : Word
  warmOnly : Bool
  stale  : Bool
  numSat : Bool
  nonfin : Bool
  frej   : Bool
  tfl    : Nat
  /-- Best measure so far; the last RES: its values and whether it marked the iterate best or converged. -/
  best   : Word
  rPres  : Word
  rDres  : Word
  rMeas  : Word
  rBest  : Bool
  rConv  : Bool
  nit    : Nat
  infRun : Nat
  /-- A body has begun; publishes made in this command. -/
  body   : Bool
  pubs   : Nat
  /-- The state row (R231). -/
  wstreak : Nat
  cvalid : Bool
  carea  : Nat
  fvalid : Bool
  fbuf   : Nat
  frun   : Bool
  fwait  : Bool
  frejed : Bool
  fprog  : Nat
  revF   : Word
  revB   : Word
  rev    : Word
  marea  : Nat
  /-- An F-body is running; pivots replaced and NaN met in the factor being formed, and replacements in the factor used. -/
  fbody  : Bool
  pgNew  : Nat
  nanNew : Bool
  pgOf   : FMap Nat
  /-- `pgOf` as the command found it (R233), and the factor ops done in an interior-point body (R220). -/
  pgSav  : FMap Nat
  facs   : Nat
  poison : Bool
  deriving DecidableEq, Repr

/-! ## DMA channels (10_lpddr6_and_dma.md) -/

/-- States of a channel (DMA_CHSTAT.STATE, R323). -/
inductive DmaState where
  | idle | run | wait | halt
  deriving DecidableEq, Repr

/-- A descriptor (R309). -/
structure Desc where
  w0  : Word
  w1  : Word
  src : Dword
  dst : Dword
  w6  : Word
  w7  : Word
  deriving DecidableEq, Repr

/-- A part of a transfer in flight: what was asked of host memory or the partner, under a requester tag or Carr SEQ, or the bytes that wait to be
written from a raw time on. -/
structure DmaSeg where
  tag  : Option Nat
  src  : Nat
  dst  : Nat
  len  : Nat
  data : Option (List Byte)
  due  : Dword
  deriving DecidableEq, Repr

/-- A DMA channel (R307 to R320). -/
structure DmaChan where
  st     : DmaState
  didx   : Nat
  /-- Descriptors started since the chain began (R317, cause 0x05). -/
  count  : Nat
  var    : Bool
  /-- Started by the host; otherwise by a slot or DMAGO. -/
  host   : Bool
  ctx    : Option Nat
  part   : Nat
  slot   : Option Nat
  /-- Started by DMAGO (R312): the core, its slot, and the raw time of the start. -/
  go     : Option (Nat × Nat × Dword)
  /-- The current descriptor as read, and whether the channel acts on it. -/
  desc   : Option Desc
  issued : Bool
  /-- A COPY or FILL goes on at byte `off` of run `run`, not before a raw time (R309, R313). -/
  run    : Nat
  off    : Nat
  nextAt : Dword
  segs   : List DmaSeg
  /-- A WAIT under way, and whether its object has met it since it was found unmet (R315). -/
  waits  : Option Bool
  /-- The chain was ended early and goes idle when nothing is in flight (R316). -/
  ending : Bool
  cause  : Nat
  /-- Raw time of the last row or descriptor completed (R319). -/
  raw    : Dword
  deriving DecidableEq, Repr

/-! ## Fuses, reset, boot and power (14_boot_security_test.md, 15_package_and_electrical.md) -/

/-- The fuses (R12, R294, R443 to R445, R454). ARB bits read blown at the normal and at the high margin. -/
structure Fuses where
  /-- 0 V128, 1 V96, 2 V64. -/
  grade    : Nat
  stepMaj  : Nat
  stepMin  : Nat
  arbNorm  : Dword
  arbHigh  : Dword
  debugClose : Bool
  artsig   : Bool
  /-- Revoke bits of the four key slots. -/
  revoked  : Nat
  serial   : BitVec 128
  edHash   : List (BitVec 384)
  mlHash   : List (BitVec 384)
  physmap  : Dword
  fuseOff  : BitVec 16
  /-- Remap fuses: memory and ADDR as in ECC_RM. -/
  remap    : List (Nat × Nat)
  romHash  : BitVec 384
  secret   : List Byte
  deriving DecidableEq, Repr

/-- The boot states (R436). -/
inductive BootState where
  | fuse | load | verify | config | train | run | halt
  deriving DecidableEq, Repr

/-- Sources of a reset of the whole device (R476). -/
inductive RstSrc where
  | thermtrip | brownout | porst | tap | chiprst
  deriving DecidableEq, Repr

/-- Who an answer goes to: port (4 + lane for the mirror link), address, VLAN tag of the request, version, sequence number. -/
structure Asker where
  port : Nat
  mac  : BitVec 48
  tci  : Option (BitVec 16)
  ver  : Nat
  seq  : Word
  deriving DecidableEq, Repr

/-- A security-controller operation after boot (R451). -/
inductive SecOp where
  | arb (target : Nat)
  | verify (part : Nat)
  /-- A report for a register request or for a Carr requester, with its nonce. -/
  | report (carr : Option Asker) (nonce : List Byte)
  deriving DecidableEq, Repr

/-- A locked part of an artifact (R447, R448): address, length, copies, stride in bytes. -/
structure LockPart where
  addr   : Nat
  len    : Nat
  copies : Nat
  stride : Nat
  deriving DecidableEq, Repr

/-- Power states (R479). -/
inductive Power where
  | run | fenced | quiesce
  deriving DecidableEq, Repr

/-- Reset, boot, security and power. -/
structure Boot where
  state    : BootState
  /-- A reset holds the device: its sources. -/
  held     : List RstSrc
  /-- A thermal trip holds the reset until PORST_N next goes low. -/
  tripped  : Bool
  /-- The first word of the SEC_CHIPRST pair was written, at this raw time. -/
  rst1     : Option Dword
  bootSrc  : Bool
  pairRole : Bool
  /-- The TAP instruction loaded; it stops the device unless BYPASS or IDCODE. -/
  tapIr    : TapInstr
  /-- The TAP stopped the device and has not returned to Test-Logic-Reset since. -/
  tapHold  : Bool
  /-- A host image was handed over by SEC_BOOTCTL.GO (R439). -/
  hostImg  : Bool
  /-- The image under verification, header first; whether its header could not be read; and which copy it is. -/
  image    : List Byte
  unread   : Bool
  copyB    : Bool
  /-- The anti-rollback counter, the SVN of the running firmware, and the slot of the key that signed it. -/
  svn      : Nat
  fwSvn    : Nat
  fwSlot   : Nat
  secOp    : Option SecOp
  /-- Raw time and disciplined time at which the operation began (R429, R450). -/
  secRaw   : Dword
  secTime  : Dword
  /-- Locks by partition, and the partitions whose last verified artifact's load was accepted (R448). -/
  locks    : FMap (List LockPart)
  loaded   : Nat
  power    : Power
  /-- The transition under way, and the raw time of its acceptance. -/
  toPower  : Option Power
  powerRaw : Dword
  /-- Clusters 4 to 15 are absent (R480). -/
  fenced   : Bool
  /-- A THERM_WARN stands until every reading is 2 °C below the limit. -/
  warned   : Bool
  /-- A memory BIST under way: its memory and banks (R455). -/
  bist     : Option (Nat × Nat)
  deriving DecidableEq, Repr

/-! ## Network and Carr (11_network_and_carr.md) -/

/-- A frame in a launch queue (R332): its bytes from the destination address to before the FCS, whether they hold a C-tag,
its launch stamp (none for ASAP), and for a host frame the address and first word of its transmit entry (R360). -/
structure TxFrame where
  bytes  : List Byte
  tagged : Bool
  launch : Option Word
  entry  : Option (Nat × Word)
  deriving DecidableEq, Repr

/-- A port (R325 to R335): its eight queues, the frame in transmission with its queue, and the answers that wait for a place in
queue 1 (R352). -/
structure Port where
  queues  : FMap (List TxFrame)
  sending : Option (TxFrame × Nat)
  answers : List TxFrame
  deriving DecidableEq, Repr

/-- The input tag of a half (R377); `complete` says that a payload counts as placed in it (R347). -/
structure InTag where
  seq      : Word
  len      : Nat
  crc      : Word
  complete : Bool
  stale    : Bool
  gap      : Bool
  step     : Dword
  ts       : Word
  deriving DecidableEq, Repr

/-- A payload being placed, or waiting for its turn (R345 to R347): its tag, the rest of its placement record, where it goes, the
synchronisation object, and its port (4 for the mirror link; 5 for a substitution, whose record keeps its port). -/
structure Placing where
  ctx     : Nat
  job     : Nat
  half    : Nat
  area    : Nat
  hlen    : Nat
  obj     : Option Nat
  entry   : Nat
  tag     : InTag
  age     : Nat
  rx      : Word
  port    : Nat
  ver     : Nat
  gapCnt  : Nat
  payload : List Byte
  begun   : Bool
  fwd     : Bool
  subst   : Bool
  deriving DecidableEq, Repr

/-- A WR in service, or waiting (R349): its number, requester, parse entry, address, data, and once begun the offset in double
words of a word that could not be corrected. -/
structure Txn where
  id    : Nat
  who   : Asker
  entry : Nat
  /-- The context its header names, and its receive stamp. -/
  ctx   : Nat
  rx    : Word
  addr  : Nat
  data  : List Byte
  begun : Bool
  bad   : Option Nat
  deriving DecidableEq, Repr

/-- What the device asked for (R351). -/
inductive ReqKind where
  | hello
  /-- A partner-window read for a DMA channel (R369). -/
  | read (chan : Nat)
  /-- A partner-window read for a Carr transaction (R349). -/
  | relay (who : Asker)
  deriving DecidableEq, Repr

/-- An outstanding request (R351): its peer (32 for the partner), sequence number, and the times it was sent. -/
structure Request where
  peer  : Nat
  seq   : Word
  kind  : ReqKind
  tries : Nat
  raw   : Dword
  frame : TxFrame
  deriving DecidableEq, Repr

/-- A frame for the host receive ring (R360): its bytes without FCS, port, PCP, parse entry, and stamps. -/
structure RxHost where
  bytes : List Byte
  port  : Nat
  pcp   : Nat
  entry : Nat
  stamp : Word
  raw   : Dword
  deriving DecidableEq, Repr

/-- The network block outside its registers. -/
structure Net where
  ports    : FMap Port
  /-- Last SEQ of a MEAS stream, by 2 × context + JOB, and of a TXN stream, by parse entry (R343); unlisted is unsynchronised. -/
  measSeq  : FMap Word
  txnSeq   : FMap Word
  /-- The earlier answer of a TXN stream's last WR, with the SEQ it answers, and whether it is a NAK (R349). -/
  txnAns   : FMap (Word × Bool × TxFrame)
  /-- Input tags by (4 × context + job) × 2 + half. -/
  tags     : FMap InTag
  placing  : List Placing
  txns     : List Txn
  nextTxn  : Nat
  requests : List Request
  /-- SEQ of the next request of a peer, and of the next PHASE of a port (R338). -/
  peerSeq  : FMap Word
  phaseSeq : FMap Word
  /-- Peers that have answered a HELLO since their port came up (R358). -/
  greeted  : Nat
  /-- Raw time of the last NAK to a source address (R352). -/
  nakAt    : FMap Dword
  /-- Next entry of the host receive and transmit rings (R360). -/
  rxHead   : Nat
  /-- Frames that wait for the read of a receive entry in host memory. -/
  rxWait   : List RxHost
  txHead   : Nat
  deriving DecidableEq, Repr

/-! ## Pair operation (12_pair_operation.md) -/

/-- The mirror block outside its registers. -/
structure Pair where
  /-- Records of the partner waiting for the own record (R384). -/
  theirs  : List DigRec
  /-- By 4 × context + job: the step of the last verdict, and the raw time of the own STEPSUM that waits for the partner's. -/
  settled : FMap Dword
  sumRaw  : FMap Dword
  /-- Last SEQ sent and last received, by lane × 8 + subtype (R365). -/
  txSeq   : FMap Word
  rxSeq   : FMap Word
  /-- Items waiting to be sent by subtype, with the raw time at which each was made (R370); DIGEST records wait in `dig.queue`. -/
  items   : FMap (List (List Byte × Dword))
  /-- The partial FWD item of a lane with the raw time of its first fragment (R383). -/
  partials : FMap (List Byte × Dword)
  /-- Forward timers: context × 4 + job, SEQ, and raw time of the notice (R381). -/
  waits   : List (Nat × Word × Dword)
  /-- FWDREQs sent and not answered: context × 4 + job, and SEQ (R382). -/
  asked   : List (Nat × Word)
  /-- Raw time of the last heartbeat anchor and whether its heartbeat has arrived or been counted as missed (R388). -/
  hbRaw   : Dword
  hbOpen  : Bool
  /-- DRIVE of the partner's last heartbeat, if one came since the lanes restarted (R390). -/
  peerDrive : Option Bool
  /-- Handover (R391): the giver's anchors since GIVE, and whether ACCEPT came; the taker's anchors since it saw GIVE. -/
  giving  : Option Nat
  accepted : Bool
  taking  : Option Nat
  deriving DecidableEq, Repr
/-! ## One cycle (R20, R90) -/

/-- What the calibration entries, by 32 × cluster + entry, have seen in the current cycle (R193, R194): the lanes counted, with those clipped; the
windows that an anchor brings to their end; those that an anchor has closed; and those that CLU_CALCLOSE closes in the next cycle. -/
structure CalCycle where
  counts : FMap (Nat × Nat)
  due    : List Nat
  closed : List Nat
  close  : List Nat
  deriving DecidableEq, Repr

/-- What the current cycle has done so far that a host access of the same cycle must not undo or see (R20, R90): the bits hardware has
set, by offset; the value of each counter before its first increment, with the increments; and the old values of Reedbed words. -/
structure Cycle where
  sets : FMap Word
  incs : FMap (Word × Word)
  rb   : FMap Word
  /-- Instances whose deadline has passed in this cycle before they began: cluster, partition × 1024 + slot, position (R232). -/
  late : List (Nat × Nat × Nat)
  /-- The wide requests that the banks have granted in this cycle to requesters other than the cores, each with its place in the order of R248 and
  R249, and the raw time at which a core's request is made when it is not now. -/
  bus  : List (Nat × Claim)
  when : Option Dword
  /-- The banks, by memory and number, to which a request has been held in this cycle, and in the cycle before (R264). -/
  held    : List (Nat × Nat)
  heldWas : List (Nat × Nat)
  cal     : CalCycle
  deriving DecidableEq, Repr

/-- A cycle in which nothing has happened, after one that held requests to some banks. -/
def Cycle.begun (heldWas : List (Nat × Nat)) : Cycle := ⟨[], [], [], [], [], none, [], heldWas, ⟨[], [], [], []⟩⟩

/-! ## The state -/

/-- The state of the device: every register, memory, queue, mode and pin the spec gives it, the record of what left it, the
counter of the free values, and the queue of waiting commands. -/
structure State where
  /-- Memory-mapped registers by BAR0 offset, unlisted at their reset value. -/
  regs   : FMap Word
  /-- Filled high-word latches of 64-bit registers, by low-word offset (R16). -/
  latch  : FMap Word
  /-- Written bytes of on-die memory and LPDDR6, by device address. -/
  mem    : List Host.Cell
  /-- Words of memory whose stored check byte is wrong: address of the word and its syndrome (R270). -/
  syn    : FMap Byte
  fuses  : Fuses
  boot   : Boot
  tb     : Timebase
  sch    : Sched
  cores  : FMap Core
  fen    : FMap Fennel
  counts : FMap Word
  syncOps : List SyncOp
  integ  : FMap Integrity
  banks  : FMap BankBusy
  dma    : FMap DmaChan
  dig    : Digests
  net    : Net
  pair   : Pair
  host   : HostIf
  log    : LogWriter
  esc    : FMap EscUnit
  cyc    : Cycle
  out    : List Output
  /-- The epoch at which free values are taken (log entry 1). -/
  free   : Nat
  /-- The raw time of the last request to each LPDDR6 channel (R305). -/
  memReq : FMap Dword
  pending : List Instr
  deriving DecidableEq, Repr

/-! ## Reset values of the parts -/

/-- A register file entry that nothing has written is 0 (log entry 2). -/
def Core.reset : Core :=
  { g := [], f := [], v := [], pc := 0, last := 0, run := false, part := 0, slot := 0, pos := 0, jclass := 0, ctx := none,
    job := 0, batch := false, tornIn := [], begRaw := 0, issAt := 0, simAt := 0, claims := [], merge := none, podAt := (0, 0), code := (0, 0), fetched := 0, now := 0, ready := [], mulFree := 0, divFree := 0, fpFree := 0, doneAt := 0, snapAt := 0, ended := false, tileEnd := false, tileAt := none,
    xflags := 0, fctl := 0x10000, tvec := 0, epc := 0, ecause := 0, etval := 0, frep := 0, tflags := 0, qmask := [],
    late := [], snaps := [], inTrap := false, loops := [], poison := false, waitOn := none, waitMet := false,
    halted := [], arrs := [], pod := [], dS := none, dF := none }

/-- A cell at reset: every accumulator 0 (R159). -/
def Cell.zero : Cell := ⟨0, .fin 0 0, .fin 0 0, .fin 0 0, .fin 0 0, .fin 0 0⟩

/-- An array at reset: class (integer, 0) (R159). -/
def Arr.reset : Arr := ⟨[], false, 0, 0, false, [], none, 0, 0⟩

/-- An engine at reset. -/
def Fennel.reset : Fennel :=
  { v := [], blk0 := [], blk1 := [], run := false, part := 0, slot := 0, pos := 0, jclass := 0, group := 0, ctx := none,
    prog := 0, gcore := 0, amask := 0, desc := [], data := 0, cold := false, status := 6, side := 3, iter := 0,
    pres := 0x7F800000, dres := 0x7F800000, meas := 0x7F800000, warmOnly := true, stale := false, numSat := false,
    nonfin := false, frej := false, tfl := 0, best := 0x7F800000, rPres := 0, rDres := 0, rMeas := 0, rBest := false,
    rConv := false, nit := 0, infRun := 0, body := false, pubs := 0, wstreak := 0, cvalid := false, carea := 0,
    fvalid := false, fbuf := 0, frun := false, fwait := false, frejed := false, fprog := 0, revF := 0, revB := 0,
    rev := 0, marea := 0, fbody := false, pgNew := 0, nanNew := false, pgOf := [], pgSav := [], facs := 0, poison := false }

/-- A channel at reset: idle. -/
def DmaChan.reset : DmaChan :=
  { st := .idle, didx := 0, count := 0, var := false, host := false, ctx := none, part := 0, slot := none,
    go := none, desc := none, issued := false, run := 0, off := 0, nextAt := 0, segs := [], waits := none, ending := false, cause := 0, raw := 0 }

/-- The integrity state of a memory at reset. -/
def Integrity.reset : Integrity := ⟨[], [], [], [], 0, false, none⟩

/-- An input at reset: low levels (R55). -/
def Pin.reset : Pin := ⟨false, false, false, false, false, 0, 0, false⟩

/-- The timebase at reset release (R47, R53, R58). -/
def Timebase.reset : Timebase :=
  { raw := 0, acc := 0, prev := 0, inc := 0x53E2D623, incI := 0x53E2D623, w := 0, inWrap := false, wrapDue := false, wCounted := false, wZero := false,
    state := .free, src := 4, pins := [], lockRun := 0, badRun := 0, goodRun := 0, chained := false, lastEdge := 0,
    first := false, accWrap := false, accWin := false, missDue := false, coast := [], coastEnd := 0, evtNext := [],
    fired := [], evtNow := false, incS := 0x53E2D623, pulses := [], pps := false }

/-- The schedule unit at reset. -/
def Sched.reset : Sched :=
  { frames := [], walks := [], lanes := [], work := [], running := [], torn := [], begun := [], turns := [], checking := none, pendMan := [],
    actMan := [], unload := [], hot := none, spills := [], slow := [], firstRaw := none, tabled := [] }

/-- The host interface at reset: PCI Express defaults. -/
def HostIf.reset : HostIf :=
  { busMaster := false, d3hot := false, cto := 0, mrrs := 2, compliance := false, perst := false, outbound := [], nextTag := 0,
    ringDone := [], ringCons := [], ringVecs := [], pollCl := 0, hbRaw := 0, silent := false, pollRaw := 0 }

/-- The log writer at reset. -/
def LogWriter.reset : LogWriter := ⟨[], false, []⟩

/-- The fuses of the device modelled: a V128 of stepping B0 with nothing revoked (DESIGN CHOICE, log entry 3). -/
def Fuses.model : Fuses :=
  { grade := 0, stepMaj := 2, stepMin := 0, arbNorm := 0, arbHigh := 0, debugClose := true, artsig := false,
    revoked := 0, serial := 0, edHash := [0, 0, 0, 0], mlHash := [0, 0, 0, 0], physmap := 0xFEDCBA9876543210,
    fuseOff := 0, remap := [], romHash := 0, secret := [] }

/-- Boot at reset release (R436). -/
def Boot.reset : Boot :=
  { state := .fuse, held := [], tripped := false, rst1 := none, bootSrc := false, pairRole := false, tapIr := .idcode,
    tapHold := false, hostImg := false, image := [], unread := false, copyB := false, svn := 0, fwSvn := 0, fwSlot := 0, secOp := none, secRaw := 0,
    secTime := 0, locks := [], loaded := 0, power := .run, toPower := none, powerRaw := 0, fenced := false, warned := false,
    bist := none }

/-- A port at reset. -/
def Port.reset : Port := ⟨[], none, []⟩

/-- A half without a placed payload (R377). -/
def InTag.none : InTag := ⟨0, 0, 0, false, false, false, 0, 0⟩

/-- The network block at reset (R338, R343). -/
def Net.reset : Net :=
  { ports := [], measSeq := [], txnSeq := [], txnAns := [], tags := [], placing := [], txns := [], nextTxn := 0, requests := [],
    peerSeq := [], phaseSeq := [], greeted := 0, nakAt := [], rxHead := 0, rxWait := [], txHead := 0 }

/-- The mirror block at reset (R368). -/
def Pair.reset : Pair :=
  { theirs := [], settled := [], sumRaw := [], txSeq := [], rxSeq := [], items := [], partials := [], waits := [], asked := [], hbRaw := 0,
    hbOpen := false, peerDrive := none, giving := none, accepted := false, taking := none }

/-- The device right after power-on reset (R435, R436): every register at its reset value, memory with nothing written, the boot
state machine in FUSE, GLB_RSTCAUSE showing PORST (R476), no command waiting. -/
def State.reset : State :=
  { regs := [(R.GLB_RSTCAUSE, 1)], latch := [], mem := [], syn := [], fuses := .model, boot := .reset, tb := .reset, sch := .reset, cores := [],
    fen := [], counts := [], syncOps := [], integ := [], banks := [], dma := [], dig := ⟨[], [], []⟩, net := .reset,
    pair := .reset, host := .reset, log := .reset, esc := [], cyc := .begun [], out := [], free := 0, memReq := [], pending := [] }

end Sys2Proof.Machine
end

