-- ==== Sys2Proof/Machine/Ops.lean ====
section
/-! DEFINITION. The named operations over registers, the event log, escalations, memory and synchronisation objects that
the meanings of the commands are made of. -/

namespace Sys2Proof.Machine

/-! ## Registers (R15 to R20) -/

/-- The stored word at BAR0 offset `off`. -/
def State.rd (s : State) (off : Nat) : Word := FMap.get (RegMap.resetValue off) s.regs off

/-- The state with the word at `off` set to `v`. -/
def State.wr (s : State) (off : Nat) (v : Word) : State :=
  { s with regs := FMap.set (RegMap.resetValue off) s.regs off v }

/-- A stored 64-bit register (R16). -/
def State.rd64 (s : State) (off : Nat) : Dword := join64 (s.rd off) (s.rd (off + 4))

/-- A stored 64-bit register set. -/
def State.wr64 (s : State) (off : Nat) (v : Dword) : State := (s.wr off (lo32 v)).wr (off + 4) (hi32 v)

/-- The active word of a staged register (R19). -/
def State.act (s : State) (off : Nat) : Word := s.rd (R.twin off)

/-- The active value of a staged 64-bit register. -/
def State.act64 (s : State) (off : Nat) : Dword := s.rd64 (R.twin off)

/-- A field of the stored word at `off`. -/
def State.field (s : State) (off lo n : Nat) : Nat := fld (s.rd off) lo n

/-- The state with a field of the word at `off` set. -/
def State.setField (s : State) (off lo n v : Nat) : State := s.wr off (putFld (s.rd off) lo n v)

/-- A hardware set of the bits of `m`, which a W1C write of the same cycle leaves set (R20). -/
def State.setBits (s : State) (off : Nat) (m : Word) : State :=
  { s.wr off (s.rd off ||| m) with
    cyc := { s.cyc with sets := FMap.set 0 s.cyc.sets off (FMap.get 0 s.cyc.sets off ||| m) } }

/-- The bits of `m` cleared. -/
def State.clrBits (s : State) (off : Nat) (m : Word) : State := s.wr off (s.rd off &&& ~~~ m)

/-- A W1C write: the bits of `m` cleared but those that hardware has set in this cycle (R20). -/
def State.hostClr (s : State) (off : Nat) (m : Word) : State := s.clrBits off (m &&& ~~~ FMap.get 0 s.cyc.sets off)

/-- The word of a counter replaced by `v`, an increment by `n` that an RC read of the same cycle does not see (R20). -/
def State.counter (s : State) (off : Nat) (v n : Word) : State :=
  let x := (FMap.find s.cyc.incs off).getD (s.rd off, 0)
  { s.wr off v with cyc := { s.cyc with incs := FMap.upd s.cyc.incs off (some (x.1, x.2 + n)) } }

/-- A saturating 32-bit counter increased by `n`. -/
def State.addSat (s : State) (off n : Nat) : State := s.counter off (satAdd (s.rd off) n) (w32 n)

/-- A saturating 16-bit field of a counter word increased by one. -/
def State.bumpField (s : State) (off lo : Nat) : State :=
  s.counter off (putFld (s.rd off) lo 16 (satTo 65535 (s.field off lo 16))) (w32 (2 ^ lo))

/-- A saturating counter increased by one. -/
def State.bump (s : State) (off : Nat) : State := s.addSat off 1

/-- The active words of a staged group take the shadows (R418). -/
def State.apply (s : State) (offs : List Nat) : State :=
  forEach offs s fun s o => s.wr (R.twin o) (s.rd o)

/-! ## Time (R47, R48, R51) -/

/-- Disciplined time of raw value `raw` under a rate and an offset (R48). -/
def timeAt (rate : Dword) (offs : Dword) (raw : Dword) : Dword :=
  w64 (raw.toNat * rate.toNat / 2 ^ 32) + offs

/-- The raw time of what is being done: now, or that of a core's request made in another cycle. -/
def State.rawNow (s : State) : Dword := s.cyc.when.getD s.tb.raw

/-- Disciplined time now. -/
def State.time (s : State) : Dword := timeAt (s.act64 R.TB_RATE) (s.act64 R.TB_OFFSET) s.rawNow

/-- The 32-bit stamp of this cycle (R51). -/
def State.stamp (s : State) : Word := lo32 s.time

/-- The phase of the main accumulator (R53). -/
def phaseOf (acc : BitVec 48) : Word := BitVec.ofNat 32 (acc.toNat / 2 ^ 16)

/-- Cycles from raw time `a` to raw time `b`. -/
def cyclesBetween (a b : Dword) : Nat := (b - a).toNat / 5

/-! ## What leaves the device -/

/-- One more thing sent. -/
def State.emit (s : State) (o : Output) : State := { s with out := s.out ++ [o] }

/-- Whether an outbound request can leave: the link is up and bus mastering on (R405). -/
def State.canSend (s : State) : Bool := (s.rd R.PCI_STAT).getLsbD 31 && s.host.busMaster

/-- Whether MSI-X messages leave: not in D3hot (R401). -/
def State.canMsix (s : State) : Bool := s.canSend && !s.host.d3hot

/-- Raise an MSI-X vector: its message, or its pending bit when masked (R408). -/
def State.raiseVec (s : State) (v : Nat) : State :=
  if (s.rd (R.PCI_MSIX v 3)).getLsbD 0 || !s.canMsix then
    s.setBits (R.PCI_PBA (v / 32)) (bitMask (v % 32))
  else s.emit (.msix v)

/-! ## The event log (R422 to R424) -/

/-- The codes of urgent records (R424). -/
def urgentCode (code : Nat) : Bool := [0x0104, 0x0207, 0x0303, 0x0D03, 0x0D06].contains code

/-- The STEP counter of a context (R89). -/
def State.stepOf (s : State) (ctx : Nat) : Dword := join64 (s.rd (R.SCH_RB ctx 0)) (s.rd (R.SCH_RB ctx 1))

/-- The eight words of a record (R422). -/
def logWords (s : State) (code : Nat) (lost : Bool) (arg : Word) (ctx : Option Nat) (seq : Word) : List Word :=
  let step := match ctx with
    | some c => s.stepOf c
    | none => 0
  [w32 (code * 2 ^ 16 + b2n lost * 2 ^ 15 + b2n (urgentCode code) * 2 ^ 14), arg, seq, s.stamp,
   lo32 s.rawNow, hi32 s.rawNow, lo32 step, hi32 step]

/-- The words of a record written to GLB_LOGLAST (R423). -/
def State.putLast (s : State) (idx : Nat) (ws : List Word) : State :=
  forEach (ws.take 8).zipIdx s fun s p => s.wr (R.GLB_LOGLAST (8 * idx + p.2)) p.1

/-- A record's place in the order of R423: its CODE, then its ARG. -/
def LogRec.key (r : LogRec) : Nat := fld (r.words.getD 0 0) 16 16 * 2 ^ 32 + (r.words.getD 1 0).toNat

/-- Two records of one cycle: the same RAW. -/
def LogRec.sameCycle (a b : LogRec) : Bool :=
  a.words.getD 4 0 == b.words.getD 4 0 && a.words.getD 5 0 == b.words.getD 5 0

/-- The record with its SEQ increased by one. -/
def LogRec.later (r : LogRec) : LogRec := { r with words := r.words.set 2 (r.words.getD 2 0 + 1) }

/-- The record with its SEQ less by `n`. -/
def LogRec.earlier (r : LogRec) (n : Nat) : LogRec := { r with words := r.words.set 2 (r.words.getD 2 0 - w32 n) }

/-- The records of a queue that a new record of the same cycle goes before (R423: ascending CODE, then ARG). -/
def logAfter (q : List LogRec) (r : LogRec) : Nat :=
  (q.reverse.takeWhile fun x => x.sameCycle r && decide (r.key < x.key)).length

/-- The queue with a new record in its place; the records it goes before move up by one SEQ. -/
def logInsert (q : List LogRec) (r : LogRec) : List LogRec :=
  let k := logAfter q r
  q.take (q.length - k) ++ r.earlier k :: (q.drop (q.length - k)).map LogRec.later

/-- The record queued, or dropped and counted when the queue holds 64 (R423). -/
def State.queueRec (s : State) (r : LogRec) : State :=
  if s.log.queue.length < 64 then
    { s with log := { s.log with queue := logInsert s.log.queue r, lost := false } }
  else
    { s.bump R.GLB_LOGDROP with log := { s.log with lost := true } }

/-- GLB_LOGLAST holds the last records of the queue at their sequence numbers (R423). -/
def State.refreshLast (s : State) (n : Nat) : State :=
  forEach (s.log.queue.drop (s.log.queue.length - n)) s fun s r => s.putLast ((r.words.getD 2 0).toNat % 64) r.words

/-- An event record made (R423): it takes the next SEQ, and enters GLB_LOGLAST and the queue. -/
def State.record (s : State) (code : Nat) (arg : Word) (ctx : Option Nat) : State :=
  let seq := s.rd R.GLB_LOGSEQ + 1
  let ws := logWords s code s.log.lost arg ctx seq
  let r : LogRec := { words := ws, urgent := urgentCode code }
  let k := if s.log.queue.length < 64 then logAfter s.log.queue r else 0
  let s := (s.wr R.GLB_LOGSEQ seq).putLast (seq.toNat % 64) ws
  let s := s.queueRec r
  if k = 0 then s else s.refreshLast (k + 1)

/-- An urgent record raises UVEC at once when EN is 0 (R424). -/
def State.raiseUrgent (s : State) (code : Nat) : State :=
  if urgentCode code && !(s.act R.GLB_LOGCFG).getLsbD 31 then s.raiseVec (fld (s.act R.GLB_LOGCFG) 6 6) else s

/-- Raise an event record (R423, R424). -/
def State.event (s : State) (code : Nat) (arg : Word) (ctx : Option Nat) : State := (s.record code arg ctx).raiseUrgent code

/-! ## Escalation (R426) -/

/-- The key of a unit of a scope: scope, unit, engine. -/
def escKey (scope unit engine : Nat) : Nat := scope * 2 ^ 20 + unit * 2 ^ 8 + engine

/-- The unit's run and action. -/
def State.escOf (s : State) (key : Nat) : EscUnit := FMap.get ⟨0, false⟩ s.esc key

/-- Whether the unit's escalation is in force. -/
def State.escalated (s : State) (scope unit engine : Nat) : Bool := (s.escOf (escKey scope unit engine)).action

/-- The field that shows a scope's run, at its largest value: DMA_CHSTAT.RUNF has four bits, the other fields two. -/
def escTop (scope : Nat) : Nat := if scope = 3 then 15 else 3

/-- GLB_ESCSTAT follows the actions in force. -/
def State.escStat (s : State) : State :=
  let m := s.esc.foldl (fun m c => if c.2.action then Nat.lor m (2 ^ (c.1 / 2 ^ 20 % 8)) else m) 0
  s.wr R.GLB_ESCSTAT (w32 m)

/-- A failure of a unit: its run rises, and at the third the action begins and is logged (R426); scope 0 logs PHASE_ESCALATE. -/
def State.escFail (s : State) (scope unit engine cause : Nat) : State :=
  let key := escKey scope unit engine
  let u := s.escOf key
  let run := satTo (escTop scope) u.run
  let act := u.action || decide (run ≥ 3)
  let s := { s with esc := FMap.set ⟨0, false⟩ s.esc key ⟨run, act⟩ }
  if act && !u.action then
    let s := s.escStat
    if scope = 0 then s.event 0x0207 (w32 cause) none
    else
      let arg := w32 (scope * 2 ^ 28 + unit * 2 ^ 16 + cause * 2 ^ 8 + engine)
      (s.wr R.GLB_ESCLAST arg).event 0x0104 arg (if scope = 2 then some unit else none)
  else s

/-- The event of R426's fourth column: the run returns to 0; an action in force stays. -/
def State.escOk (s : State) (scope unit engine : Nat) : State :=
  let key := escKey scope unit engine
  { s with esc := FMap.set ⟨0, false⟩ s.esc key ⟨0, (s.escOf key).action⟩ }

/-- The action ends and the run returns to 0. -/
def State.escClear (s : State) (scope unit engine : Nat) : State :=
  { s with esc := FMap.set ⟨0, false⟩ s.esc (escKey scope unit engine) ⟨0, false⟩ }.escStat

/-! ## Grades, clusters and partitions (R1 to R3, R76) -/

/-- Clusters of a grade: 16, 12 or 8 (R1). -/
def Fuses.clusters (f : Fuses) : Nat := if f.grade = 0 then 16 else if f.grade = 1 then 12 else 8

/-- Populated clusters: those of the grade, or 0 to 3 while FENCED holds the others out (R3, R480). -/
def State.nClusters (s : State) : Nat := if s.boot.fenced then 4 else s.fuses.clusters

/-- Populated cores. -/
def State.nCores (s : State) : Nat := 8 * s.nClusters

/-- Partition p has an active table. -/
def State.partOn (s : State) (p : Nat) : Bool := (s.act (R.SCH_PCFG p)).getLsbD 31

/-- Partition p is real-time. -/
def State.isRt (s : State) (p : Nat) : Bool := (s.act (R.SCH_PCFG p)).getLsbD 30

/-- Cluster m belongs to the active partition p. -/
def State.hasCluster (s : State) (p m : Nat) : Bool := s.partOn p && (s.act (R.SCH_PCFG p)).getLsbD m && decide (m < 16)

/-- The partition of a cluster (R76). -/
def State.partOf (s : State) (m : Nat) : Option Nat := (List.range 8).find? fun p => s.hasCluster p m

/-- No active partition is real-time. -/
def State.allBestEffort (s : State) : Bool := (List.range 8).all fun p => !(s.partOn p && s.isRt p)

/-- The device runs: boot has finished and no reset holds it (R437). -/
def State.running (s : State) : Bool := s.boot.state == BootState.run

/-- A host write of a register outside the reach of R437 takes effect: the device runs, and its BARs decode (R401). -/
def State.hostWrites (s : State) : Bool := s.running && !s.host.d3hot

/-! ## Places (R9, R238, R297, R301) -/

/-- A backed place: memory number (R297) and byte offset in it. -/
structure Place where
  mem : Nat
  off : Nat
  deriving DecidableEq, Repr

/-- First address of the window of memory number n. -/
def memBase (n : Nat) : Nat :=
  if n < 128 then 0x40000000 + n * 0x400000 else if n < 144 then 0x60000000 + (n - 128) * 0x1000000 else 0x1000000000

/-- Bytes of memory number n that are backed (R3, R238, R301). -/
def State.memSize (s : State) (n : Nat) : Nat :=
  if n < 128 then (if n < s.nCores then 0x100000 else 0)
  else if n < 144 then (if n - 128 < s.nClusters then 0x800000 else 0)
  else if n = 144 then s.field R.GLB_MEM 0 8 * 2 ^ 30 else 0

/-- The place of a device address, when a memory backs it (R9, R14). -/
def State.place (s : State) (a : Nat) : Option Place :=
  let n := if 0x40000000 ≤ a ∧ a < 0x60000000 then (a - 0x40000000) / 0x400000
    else if 0x60000000 ≤ a ∧ a < 0x70000000 then 128 + (a - 0x60000000) / 0x1000000
    else if 0x1000000000 ≤ a ∧ a < 0x2000000000 then 144 else 145
  if n < 145 ∧ a - memBase n < s.memSize n then some ⟨n, a - memBase n⟩ else none

/-- Every byte of `len` bytes from `a` is backed, within one memory. -/
def State.backed (s : State) (a len : Nat) : Bool :=
  match s.place a with
  | some p => decide (p.off + len ≤ s.memSize p.mem)
  | none => false

/-- The cluster of a memory number: of its core, or its own. -/
def memCluster (n : Nat) : Nat := if n < 128 then n / 8 else n - 128

/-- The bank of offset o in memory n (R238); for LPDDR6 the channel (R302). -/
def bankOf (n o : Nat) : Nat :=
  if n < 128 then o / 2 ^ 16 % 16 else if n < 144 then o / 2 ^ 19 % 16 else o / 2 ^ 8 % 4

/-- Rows of a bank (R238). -/
def bankRows (n : Nat) : Nat := if n < 128 then 512 else 4096

/-- Bytes of a bank. -/
def bankSize (n : Nat) : Nat := 128 * bankRows n

/-- The bank key used in `banks` and per-bank tables. -/
def bankKey (n b : Nat) : Nat := n * 16 + b

/-- SPD_ index of memory n, and whether its bank b is off (R263). -/
def State.bankOff (s : State) (n b : Nat) : Bool := decide (n < 144) && (s.rd (R.SPD_PGSTAT n)).getLsbD (16 + b)

/-- The bank is waking. -/
def State.bankWaking (s : State) (n b : Nat) : Bool :=
  match FMap.find s.banks (bankKey n b) with
  | some k => !k.closing
  | none => false

/-- The bank performs no access (R265). -/
def State.bankGated (s : State) (n b : Nat) : Bool := s.bankOff n b || s.bankWaking n b

/-! ## The code (R269, R270, R272) -/

/-- Set bits of a byte value. -/
def popcount8 (n : Nat) : Nat := ((List.range 8).filter fun i => n.testBit i).length

/-- The columns H(0) to H(63): the byte values with three bits set, then the eight lowest with five (R269). -/
def eccColumns : List Nat :=
  ((List.range 256).filter fun n => popcount8 n == 3) ++ ((List.range 256).filter fun n => popcount8 n == 5).take 8

/-- The check byte of a data word (R269). -/
def eccCheck (d : Dword) : Byte :=
  BitVec.ofNat 8 (eccColumns.zipIdx.foldl (fun c h => if d.getLsbD h.2 then Nat.xor c h.1 else c) 0)

/-- The types of R270. -/
inductive EccType where
  | clean | ceCheck | ceData (bit : Nat) | ue | poison
  deriving DecidableEq, Repr

/-- What a syndrome says (R270). -/
def eccDecode (s : Byte) : EccType :=
  if s = 0 then .clean
  else if popcount8 s.toNat = 1 then .ceCheck
  else match eccColumns.findIdx? (fun h => h == s.toNat) with
    | some i => .ceData i
    | none => if s = 0xFF then .poison else .ue

/-- A word that cannot be corrected. -/
def EccType.bad : EccType → Bool
  | .ue | .poison => true
  | _ => false

/-- The data delivered (R270). -/
def eccDeliver (t : EccType) (d : Dword) : Dword :=
  match t with
  | .ceData i => d ^^^ w64 (2 ^ i)
  | _ => d

/-! ## Stored words (R238, R244, R246, R261) -/

/-- The written byte at a device address. -/
def memFind : List Host.Cell → Nat → Option Byte
  | m, a => FMap.find m a

/-- A byte of memory as it stands: what was written, or the undefined value of this epoch (R261). -/
def State.byteAt (s : State) (a : Nat) : Byte := (memFind s.mem a).getD (Config.undefinedByte s.free a)

/-- The eight bytes of the aligned word at `wa`, as a number. -/
def State.bankWord (s : State) (wa : Nat) : Dword := w64 (ofLe ((List.range 8).map fun i => s.byteAt (wa + i)))

/-- The syndrome of the bank's word: listed, clean when written, undefined when nothing has written it (R261). -/
def State.bankSyn (s : State) (wa : Nat) : Byte :=
  match FMap.find s.syn wa with
  | some x => x
  | none => if (memFind s.mem wa).isSome then 0 else Config.undefinedSyndrome s.free wa

/-- A word as an access finds it: data, syndrome, and whether a pod entry or a spare holds it (R246, R293). -/
structure Stored where
  data  : Dword
  syn   : Byte
  spare : Bool
  deriving DecidableEq, Repr

/-- A core, unlisted cores at their reset state. -/
def State.core (s : State) (n : Nat) : Core := FMap.get Core.reset s.cores n

/-- The state with core n replaced. -/
def State.setCore (s : State) (n : Nat) (c : Core) : State := { s with cores := FMap.set Core.reset s.cores n c }

/-- The state with core n changed by `f`. -/
def State.modCore (s : State) (n : Nat) (f : Core → Core) : State := s.setCore n (f (s.core n))

/-- The valid pod word at `wa` (R246). -/
def podFind (pod : List PodEntry) (wa : Nat) : Option (Dword × Byte) :=
  pod.findSome? fun e =>
    if e.row = wa / 128 * 128 then
      (e.words.find? fun x => decide (e.row + 8 * x.1 = wa)).map fun x => x.2
    else none

/-- The remap entry of a word: BANK, ROW and WORD as in ECC_RMADD (R293, R300). -/
def rmAddr (n o : Nat) : Nat := bankOf n o * 2 ^ 16 + o / 128 % bankRows n * 16 + o / 8 % 16

/-- A valid remap entry names the word. -/
def State.remapped (s : State) (n o : Nat) : Bool :=
  (List.range 8).any fun i =>
    (s.rd (R.ECC_RM n i)).getLsbD 31 && fld (s.rd (R.ECC_RM n i)) 0 20 == rmAddr n o

/-- The stored word at place `p`, device address `wa` (R246, R293). -/
def State.stored (s : State) (p : Place) (wa : Nat) : Stored :=
  match (if p.mem < 128 then podFind (s.core p.mem).pod wa else none) with
  | some (d, x) => ⟨d, x, true⟩
  | none => ⟨s.bankWord wa, s.bankSyn wa, decide (p.mem < 144) && s.remapped p.mem p.off⟩

/-! ## Writing words -/

/-- A byte written. -/
def State.putByte (s : State) (a : Nat) (b : Byte) : State := { s with mem := FMap.upd s.mem a (some b) }

/-- Eight bytes written from `wa`, with a syndrome. -/
def State.putBank (s : State) (wa : Nat) (d : Dword) (syn : Byte) : State :=
  let s := forEach (leBytes 8 d.toNat).zipIdx s fun s x => s.putByte (wa + x.2) x.1
  { s with syn := FMap.set 0 s.syn wa syn }

/-- The integrity state of memory n. -/
def State.integOf (s : State) (n : Nat) : Integrity := FMap.get Integrity.reset s.integ n

/-- The integrity state of memory n replaced. -/
def State.setInteg (s : State) (n : Nat) (i : Integrity) : State :=
  { s with integ := FMap.set Integrity.reset s.integ n i }

/-- A write of a word cancels its write-back entry (R278) and leaves it out of a scrub write (R289). -/
def State.cancelWb (s : State) (n wa : Nat) : State :=
  let i := s.integOf n
  s.setInteg n { i with
    wbq := i.wbq.filter fun e => e.addr != wa
    scrubbed := (i.scrubbed.map fun c => (c.1, c.2.filter fun x => x.1 != wa)) }

/-- The syndrome of a word written clean, or poisoned (R272). -/
def cleanSyn (poison : Bool) : Byte := if poison then 0xFF else 0

/-- The data and syndrome that a write of `d` with syndrome `base` stores at place `p`, with armed injection (R296). -/
def State.inject (s : State) (p : Place) (d : Dword) (base : Byte) : State × Dword × Byte :=
  if (s.rd R.ECC_INJCTL).getLsbD 31 && s.field R.ECC_INJCTL 0 8 == p.mem &&
      (s.rd64 R.ECC_INJOFF).toNat == p.off then
    let dx := s.rd64 R.ECC_INJDATA
    let cx : Byte := BitVec.ofNat 8 (s.field R.ECC_INJCHK 0 8)
    -- the stored check byte is that of `d` (poisoned or not) with the mask; its syndrome is against the data stored
    (s.clrBits R.ECC_INJCTL (bitMask 31), d ^^^ dx, base ^^^ cx ^^^ eccCheck d ^^^ eccCheck (d ^^^ dx))
  else (s, d, base)

/-- The pod entries of a core without their word at `wa` (R247). -/
def podDrop (pod : List PodEntry) (wa : Nat) : List PodEntry :=
  pod.map fun e => { e with words := e.words.filter fun x => e.row + 8 * x.1 != wa }

/-- A whole word written to its bank or spare by the wide side or a lane (R239, R243, R247). -/
def State.writeWord (s : State) (p : Place) (wa : Nat) (d : Dword) (poison : Bool) : State :=
  let (s, d, syn) := s.inject p d (cleanSyn poison)
  let s := if p.mem < 128 then s.modCore p.mem fun c => { c with pod := podDrop c.pod wa } else s
  ((s.putBank wa d syn).cancelWb p.mem wa)

/-! ## Detection (R274, R277, R297, R298) -/

/-- The syndrome-log TYPE of a decoding (R298). -/
def EccType.code : EccType → Nat
  | .ceData _ => 0
  | .ceCheck => 1
  | .ue => 2
  | .poison => 3
  | .clean => 0

/-- The stored check byte of a stored word. -/
def Stored.chk (w : Stored) : Byte := eccCheck w.data ^^^ w.syn

/-- A record of the syndrome log (R298). -/
def State.synLog (s : State) (p : Place) (t : EccType) (w : Stored) (src : Nat) (ctx : Option Nat) : State :=
  let i := (s.rd R.ECC_LOGCNT).toNat % 16
  let bank := bankOf p.mem p.off
  let w0 := p.mem * 2 ^ 24 + bank * 2 ^ 20 + t.code * 2 ^ 18 + src * 2 ^ 14 + b2n w.spare * 2 ^ 13 +
    (match ctx with
      | some c => 2 ^ 12 + c
      | none => 0)
  let w2 := p.off / 2 ^ 32 * 2 ^ 28 + w.syn.toNat * 2 ^ 8 + w.chk.toNat
  let s := s.wr (R.ECC_LOG i 0) (w32 w0)
  let s := s.wr (R.ECC_LOG i 1) (w32 p.off)
  let s := s.wr (R.ECC_LOG i 2) (w32 w2)
  let s := s.wr (R.ECC_LOG i 3) (lo32 s.rawNow)
  s.wr R.ECC_LOGCNT (s.rd R.ECC_LOGCNT + 1)

/-- A corrected bank word queued for write-back, or dropped (R277). -/
def State.queueWb (s : State) (n bank wa : Nat) (d : Dword) : State :=
  let i := s.integOf n
  if i.wbq.any fun e => e.addr == wa then s
  else if i.wbq.length < 8 then s.setInteg n { i with wbq := i.wbq ++ [⟨bank, wa, d, s.rawNow⟩] }
  else (s.bump (R.ECC_WBDROP n)).setBits R.ECC_FLAGS (bitMask 3)

/-- A pod word or spare restored in place (R275, R296). -/
def State.restore (s : State) (p : Place) (wa : Nat) (d : Dword) : State :=
  let (s, d, x) := s.inject p d 0
  match (if p.mem < 128 then podFind (s.core p.mem).pod wa else none) with
  | some _ => s.modCore p.mem fun c => { c with pod := c.pod.map fun e =>
      { e with words := e.words.map fun y => if e.row + 8 * y.1 = wa then (y.1, d, x) else y } }
  | none => s.putBank wa d x

/-- The ARG of an error's record: memory, bank and syndrome (R422). -/
def eccArg (p : Place) (w : Stored) : Nat := p.mem + bankOf p.mem p.off * 2 ^ 8 + w.syn.toNat * 2 ^ 16

/-- A corrected word (R274, R275, R277): restored or queued for write-back, counted, flagged and logged. -/
def State.detectCe (s : State) (p : Place) (wa : Nat) (w : Stored) (d : Dword) (src : Nat) (ctx : Option Nat) : State :=
  let n := p.mem
  let s := if n = 144 then s else if w.spare then s.restore p wa d
    else if src = 0xA then s else s.queueWb n (bankOf n p.off) wa d
  let first := !(s.rd (R.ECC_MFLAGS n)).getLsbD 0
  let was := s.rd (R.ECC_CECNT n)
  let s := ((s.bump (R.ECC_CECNT n)).setBits (R.ECC_MFLAGS n) (bitMask 0)).setBits R.ECC_FLAGS (bitMask 0)
  let s := if first then s.event 0x0901 (w32 (eccArg p w)) ctx else s
  if s.rd (R.ECC_CECNT n) ≠ was ∧ s.rd (R.ECC_CECNT n) = s.rd (R.ECC_CE_THR n) then
    (s.setBits (R.ECC_MFLAGS n) (bitMask 2)).event 0x0902 (w32 n) none
  else s

/-- A word that cannot be corrected, or is poisoned (R272, R274): counted, flagged and logged. -/
def State.detectUe (s : State) (p : Place) (w : Stored) (psn : Bool) (src : Nat) (ctx : Option Nat) : State :=
  let n := p.mem
  let was := (s.rd (R.ECC_MFLAGS n)).getLsbD 1
  let s := s.bump (if psn then R.ECC_PSNCNT n else R.ECC_UECNT n)
  let s := (s.setBits (R.ECC_MFLAGS n) (bitMask 1)).setBits R.ECC_FLAGS (if psn then 6 else 2)
  if src = 0xA && was then s
  else s.event 0x0903 (w32 (eccArg p w + src * 2 ^ 12 + b2n psn * 2 ^ 24)) ctx

/-- What R274 does for one word in error: log, count, flag, queue the correction. -/
def State.detect (s : State) (p : Place) (wa : Nat) (w : Stored) (t : EccType) (src : Nat) (ctx : Option Nat) : State :=
  let s := s.synLog p t w src ctx
  match t with
  | .clean => s
  | .ceCheck | .ceData _ => s.detectCe p wa w (eccDeliver t w.data) src ctx
  | .ue => s.detectUe p w false src ctx
  | .poison => s.detectUe p w true src ctx

/-- What a read of one word gives: the state after detection, the delivered data, and whether it was uncorrectable. -/
structure WordRead where
  st   : State
  data : Dword
  bad  : Bool

/-- A read of the aligned word at `wa` in place `p` by a source (R270, R274). -/
def State.readWord (s : State) (p : Place) (wa src : Nat) (ctx : Option Nat) : WordRead :=
  let w := s.stored p wa
  let t := eccDecode w.syn
  ⟨if t = EccType.clean then s else s.detect p wa w t src ctx, eccDeliver t w.data, t.bad⟩

/-- What a read of several words gives. -/
structure Reads where
  st    : State
  words : List Dword
  /-- The lowest address of an uncorrectable word among those delivered. -/
  bad   : Option Nat

/-- Reads of the words at the addresses `was` in turn; those outside `take` are decoded only (R274). -/
def State.readWords (s : State) (was : List Nat) (take : Nat → Bool) (src : Nat) (ctx : Option Nat) : Reads :=
  was.foldl (fun r wa =>
    match r.st.place wa with
    | none => r
    | some p =>
      let x := r.st.readWord p wa src ctx
      ⟨x.st, if take wa then r.words ++ [x.data] else r.words,
       if take wa && x.bad && r.bad.isNone then some wa else r.bad⟩) ⟨s, [], none⟩

/-- The 16 word addresses of the row that holds `a`. -/
def rowWords (a : Nat) : List Nat := (List.range 16).map fun i => a / 128 * 128 + 8 * i

/-- The rows that `len` bytes from `a` touch. -/
def rowsOf (a len : Nat) : List Nat :=
  if len = 0 then [] else (List.range ((a + len - 1) / 128 - a / 128 + 1)).map fun i => (a / 128 + i) * 128

/-- A bank of a place performs accesses. -/
def State.openAt (s : State) (a : Nat) : Bool :=
  match s.place a with
  | some p => !s.bankGated p.mem (bankOf p.mem p.off)
  | none => false

/-- Every byte of a range is backed, in banks that perform accesses (R14, R265). -/
def State.openRange (s : State) (a len : Nat) : Bool := s.backed a len && (rowsOf a len).all s.openAt

/-- The aligned words that `len` bytes from `a` touch. -/
def wordsOf (a len : Nat) : List Nat :=
  if len = 0 then [] else (List.range ((a + len - 1) / 8 - a / 8 + 1)).map fun i => (a / 8 + i) * 8

/-- A wide read of `len` bytes from `a`: whole rows are decoded, the words touched are delivered (R274). -/
def State.readWide (s : State) (a len src : Nat) (ctx : Option Nat) : Reads :=
  s.readWords ((rowsOf a len).flatMap rowWords) (fun w => (wordsOf a len).contains w) src ctx

/-- The bytes from `a` of words read at the aligned addresses from `a / 8 × 8`. -/
def bytesOf (words : List Dword) (a len : Nat) : List Byte :=
  ((words.flatMap fun d => leBytes 8 d.toNat).drop (a % 8)).take len

/-- Bytes as they stand, corrected, without any effect of the read (R369: reads for the partner have none). -/
def State.peek (s : State) (a len : Nat) : List Byte :=
  bytesOf ((wordsOf a len).map fun wa =>
    match s.place wa with
    | none => 0
    | some p => let w := s.stored p wa; eccDeliver (eccDecode w.syn) w.data) a len

/-- A stored word of memory as a number, without any effect. -/
def State.peekLe (s : State) (a len : Nat) : Nat := ofLe (s.peek a len)

/-- The word of data with some bytes replaced: byte i of `new` where it is given. -/
def mergeBytes (old : Dword) (new : List (Option Byte)) : Dword :=
  w64 (ofLe ((leBytes 8 old.toNat).zipIdx.map fun x => ((new.getD x.2 none)).getD x.1))

/-- The eight optional bytes of word `wa` out of bytes that start at `a`. -/
def wordMask (a : Nat) (data : List (Option Byte)) (wa : Nat) : List (Option Byte) :=
  (List.range 8).map fun i => if wa + i < a then none else data.getD (wa + i - a) none

/-- What a masked write gives: the state, and the address of an uncorrectable read-modify-write read (R281). -/
structure Wrote where
  st  : State
  bad : Option Nat

/-- The words that the read of a read-modify-write decodes: a wide read's whole rows (R274), of LPDDR6 the partial words alone; and the source
it is counted under: LPDDR6's controller makes its own (R287, R306). -/
def rmwReads (part : List Nat) (src : Nat) : List Nat × Nat :=
  match part with
  | [] => ([], src)
  | wa :: _ => if memBase 144 ≤ wa then (part, 5) else ((part.map fun x => x / 128 * 128).eraseDups.flatMap rowWords, src)

/-- A masked write of `data` from `a`, in one row or unit: partial words are read, merged and written (R280); when one of
those reads is uncorrectable nothing is written (R281). `poison` writes every covered word poisoned (R272). -/
def State.writeMasked (s : State) (a : Nat) (data : List (Option Byte)) (src : Nat) (ctx : Option Nat) (poison : Bool) : Wrote :=
  let was := (wordsOf a data.length).filter fun wa => (wordMask a data wa).any Option.isSome
  let part := was.filter fun wa => (wordMask a data wa).any Option.isNone
  let rd := rmwReads part src
  let r := rd.1.foldl (fun (r : State × List (Nat × Dword) × Option Nat) wa =>
    match r.1.place wa with
    | none => r
    | some p =>
      let x := r.1.readWord p wa rd.2 ctx
      (x.st, r.2.1 ++ [(wa, x.data)], if x.bad && part.contains wa && r.2.2.isNone then some wa else r.2.2)) (s, [], none)
  match r.2.2 with
  | some b => ⟨r.1, some b⟩
  | none =>
    ⟨was.foldl (fun s wa =>
      match s.place wa with
      | none => s
      | some p =>
        let old := (r.2.1.find? fun x => x.1 == wa).map (·.2)
        s.writeWord p wa (mergeBytes (old.getD 0) (wordMask a data wa)) poison) r.1, none⟩

/-- Bytes written from `a` row by row; it stops at the first row whose write is withheld (R281). -/
def State.writeBytes (s : State) (a : Nat) (bs : List Byte) (src : Nat) (ctx : Option Nat) (poison : Bool) : Wrote :=
  (rowsOf a bs.length).foldl (fun (w : Wrote) row =>
    match w.bad with
    | some _ => w
    | none =>
      let lo := if row < a then a else row
      let hi := if row + 128 < a + bs.length then row + 128 else a + bs.length
      w.st.writeMasked lo (((bs.drop (lo - a)).take (hi - lo)).map some) src ctx poison) ⟨s, none⟩

/-! ## Synchronisation objects (R37 to R39) -/

/-- An operation posted to an object, arriving after `cycles`. -/
def State.post (s : State) (obj cycles : Nat) (k : SyncKind) : State :=
  { s with syncOps := s.syncOps ++ [⟨obj, s.rawNow + w64 (5 * cycles), k⟩] }

/-- The latency of R38 from cluster m to an object. -/
def syncLat (m obj : Nat) : Nat := if obj / 1024 = m then 2 else 8

/-- The count of an object. -/
def State.count (s : State) (obj : Nat) : Word := FMap.get 0 s.counts obj

/-- WAIT's condition (R37): count minus target, as a signed value, is zero or more. -/
def waitMet (count target : Word) : Bool := !(count - target).msb

end Sys2Proof.Machine
end

