-- ==== Sys2Proof/Machine/Clock.lean ====
section
/-! DEFINITION. The clock: what one cycle does by itself (R22, R47, R53, R55, R65), and the phase loop's arithmetic and states
(R54 to R61). -/

namespace Sys2Proof.Machine

/-! ## Bits of TB_CSTAT.PENDING -/

def pendTIME : Nat := 24
def pendPH : Nat := 25
def pendEVT : Nat := 26

/-- A group committed and not yet applied. -/
def State.tbPending (s : State) (b : Nat) : Bool := (s.rd R.TB_CSTAT).getLsbD b

/-! ## TIME and PH commits (R49, R58, R75) -/

/-- TIME applied: with CONT the offset is computed for continuity in this cycle (R49). -/
def State.applyTime (s : State) : State :=
  let raw := s.tb.raw
  let old := s.time
  let adj := s.rd64 R.TB_OFFSET
  let s := s.apply [R.TB_RATE, R.TB_RATE + 4, R.TB_TCTL, R.TB_OFFSET, R.TB_OFFSET + 4]
  let s := if (s.act R.TB_TCTL).getLsbD 0 then
      s.wr64 (R.twin R.TB_OFFSET) (old - timeAt (s.act64 R.TB_RATE) 0 raw + adj)
    else s
  s.clrBits R.TB_CSTAT (bitMask pendTIME)

/-- The active nominal increment. -/
def State.nom (s : State) : Nat := (s.act64 R.TB_PH_NOM).toNat % 2 ^ 48

/-- A value clamped to the supported range and the pull window (R54). -/
def State.clampInc (s : State) (x : Int) : BitVec 48 :=
  let nom : Int := s.nom
  let d : Int := s.nom / 2 ^ fld (s.act R.TB_PH_CFG) 16 4
  BitVec.ofInt 48 (max 1407375 (max (nom - d) (min 1407374883553 (min (nom + d) x))))

/-- ACQUIRE entered with a source. -/
def State.acquire (s : State) (src : Nat) : State :=
  { s with tb := { s.tb with
      state := .acquire, src := src, lockRun := 0, badRun := 0, goodRun := 0, chained := false, first := true
      accWrap := false, accWin := false, missDue := false } }

/-- The offsets of the PH group (R75). -/
def phGroup : List Nat :=
  [R.TB_PH_NOM, R.TB_PH_NOM + 4, R.TB_PH_CFG, R.TB_PH_WIN, R.TB_COAST_CFG] ++ (List.range 4).flatMap (fun k =>
    [R.TB_PIN_CFG k, R.TB_PIN_OFFS k]) ++ (List.range 8).map R.TB_SLIP_LIM

/-- FREE at an increment (R58). -/
def Timebase.toFree (t : Timebase) (nom : BitVec 48) : Timebase :=
  { t with
    state := .free, src := 4, inc := nom, incI := nom, badRun := 0, lockRun := 0, goodRun := 0, chained := false
    accWrap := false, accWin := false, missDue := false }

/-- The increments kept in the supported range and the pull window (R54). -/
def State.clampLoop (s : State) : State :=
  { s with tb := { s.tb with inc := s.clampInc s.tb.inc.toNat, incI := s.clampInc s.tb.incI.toNat } }

/-- PH applied (R54, R58, R75): SRC 4 gives FREE at TB_PH_NOM; a change of SRC, or an input selected in FREE, enters ACQUIRE; the
increments stay in the ranges of the new values (DEDUCED, log entry 38). -/
def State.applyPh (s : State) : State :=
  let old := fld (s.act R.TB_PH_CFG) 0 3
  let s := (s.apply phGroup).clrBits R.TB_CSTAT (bitMask pendPH)
  let src := fld (s.act R.TB_PH_CFG) 0 3
  let free := s.tb.state == .free
  let s := if src = 4 ∨ free then { s with tb := s.tb.toFree (BitVec.ofNat 48 s.nom) } else s.clampLoop
  if src ≠ 4 ∧ (src ≠ old ∨ free) then s.acquire src else s

/-! ## Accumulators and inputs -/

/-- The phase moved over the value `t` in this cycle: it lay above `prev` and is not above `acc`. -/
def passed (prev acc t : BitVec 48) : Bool := decide (0 < (t - prev).toNat ∧ (t - prev).toNat ≤ (acc - prev).toNat)

/-- W with the wrap of this cycle, whether it has been counted yet or not. -/
def Timebase.wNow (t : Timebase) : Word := if t.wrapDue then t.w + 1 else t.w

/-- A coast clock one cycle on. -/
def Coast.tick (c : Coast) : Coast :=
  let acc := c.acc + c.inc
  { c with prev := c.acc, acc := acc, w := if acc.toNat < c.acc.toNat then c.w + 1 else c.w }

/-- An input one cycle on (R55): synchroniser, filter of `minw` cycles, selected edge, divider. -/
def Pin.tick (p : Pin) (minw : Nat) (falling : Bool) (div : Nat) : Pin :=
  let p := { p with s1 := p.ball, s2 := p.s1, s3 := p.s2, cand := false }
  if p.s3 = p.filt then { p with hold := 0 }
  else if p.hold < minw then { p with hold := p.hold + 1 }
  else
    let p := { p with filt := p.s3, hold := 0 }
    if p.filt = falling then p
    else if div ≤ p.div then { p with div := 0, cand := true }
    else { p with div := p.div + 1 }

/-- Input k. -/
def State.pin (s : State) (k : Nat) : Pin := FMap.get Pin.reset s.tb.pins k

/-- Input k replaced. -/
def State.setPin (s : State) (k : Nat) (p : Pin) : State := { s with tb := { s.tb with pins := FMap.set Pin.reset s.tb.pins k p } }

/-- The four inputs one cycle on. -/
def State.tickPins (s : State) : State :=
  forEach (List.range 4) s fun s k =>
    let c := s.act (R.TB_PIN_CFG k)
    s.setPin k ((s.pin k).tick (fld c 0 8) (c.getLsbD 30) (fld c 8 16))

/-- The window ends of R56 in LOCKED: the phases at which the test of a miss opens and closes. -/
def State.window (s : State) : BitVec 48 × BitVec 48 :=
  let offs := (s.act (R.TB_PIN_OFFS s.tb.src)).toNat
  let w := min (fld (s.act R.TB_PH_WIN) 0 16 * 2 ^ 16) (2 ^ 31 - 1)
  (BitVec.ofNat 48 ((offs + 2 ^ 32 - w) % 2 ^ 32 * 2 ^ 16), BitVec.ofNat 48 ((offs + w) % 2 ^ 32 * 2 ^ 16))

/-- The tests of a miss in this cycle (R56): at a wrap in ACQUIRE, at the end of the window in LOCKED. -/
def State.tickMiss (s : State) : State :=
  match s.tb.state with
  | .acquire =>
    if s.tb.inWrap then { s with tb := { s.tb with missDue := !s.tb.accWrap, accWrap := false } }
    else { s with tb := { s.tb with missDue := false } }
  | .locked =>
    let (lo, hi) := s.window
    let opens := passed s.tb.prev s.tb.acc lo
    let closes := passed s.tb.prev s.tb.acc hi
    let first := decide ((lo - s.tb.prev).toNat < (hi - s.tb.prev).toNat)
    let t := s.tb
    let acc := if opens && closes && first then false else t.accWin
    { s with tb := { t with missDue := closes && !acc, accWin := if opens then false else t.accWin } }
  | _ => { s with tb := { s.tb with missDue := false } }

/-- The pulses one cycle on (R65): cycles until a pulse starts, then the cycles it lasts. -/
def State.tickPulses (s : State) : State :=
  let ps := s.tb.pulses.map fun p => if 0 < p.1 then (p.1 - 1, p.2) else (p.1, p.2 - 1)
  let high := s.tb.pps || ps.any fun p => p.1 == 0 && p.2 != 0
  { s with tb := { s.tb with pulses := ps, pps := high } }

/-- The clocks one cycle on (R47, R53, R71, R72): a wrap that no PHASE_WRAP has counted is counted, and coasting that has ended is over. -/
def Timebase.tick (t : Timebase) : Timebase :=
  let acc := t.acc + t.inc
  let wrap := decide (acc.toNat < t.acc.toNat)
  { t with
    raw := t.raw + 5, prev := t.acc, acc := acc, inWrap := wrap, wrapDue := wrap, wCounted := false, wZero := false
    w := t.wNow
    coast := (t.coast.filter fun (c : Nat × Coast) => !c.2.ending).map fun c => (c.1, c.2.tick)
    fired := [], evtNow := false, incS := t.incI }

/-- The timebase unit's part of a cycle: the clocks move, TIME and PH commits apply, then the inputs, the tests of a miss and the pulses
follow with what is active (R49, R55, R75). -/
def State.tickTime (s : State) : State :=
  let s := { s with tb := s.tb.tick, cyc := .begun s.cyc.held }
  let rose := s.tb.pps
  let s := if s.tbPending pendTIME then s.applyTime else s
  let s := if s.tbPending pendPH then s.applyPh else s
  let s := (s.tickPins.tickMiss).tickPulses
  if s.tb.pps && !rose then s.emit (.pps true) else s

/-! ## Launch times in phase (R73) -/

/-- The stamp of target phase P after K wraps, converted in this cycle. -/
def State.launchStamp (s : State) (p : Word) (k : Nat) : Word :=
  let delta := k * 2 ^ 48 + (BitVec.ofNat 48 (p.toNat * 2 ^ 16) - s.tb.acc).toNat
  let cycles := (delta + s.tb.inc.toNat - 1) / s.tb.inc.toNat
  lo32 (timeAt (s.act64 R.TB_RATE) (s.act64 R.TB_OFFSET) (s.tb.raw + w64 (5 * cycles)))

/-! ## The phase loop (R56 to R61) -/

/-- TB_PH_STAT's source field of an event: the failure of `src` counted (R61). -/
def State.lockFail (s : State) (src : Nat) : State := s.escFail 0 0 0 src

/-- Lock is lost (R60): an automatic switch to ALT_SRC, or HOLDOVER. -/
def State.loseLock (s : State) : State :=
  let cfg := s.act R.TB_PH_CFG
  let alt := fld cfg 4 3
  let old := s.tb.src
  if cfg.getLsbD 7 && decide (alt < 4) && (s.act (R.TB_PIN_CFG alt)).getLsbD 31 && decide (alt ≠ old) && !s.escalated 0 0 0 then
    (((s.acquire alt).setBits R.TB_FLAGS 16).event 0x0203 (w32 (alt + old * 16)) none).lockFail old
  else
    let run := s.tb.badRun
    let s := { s with tb := { s.tb with state := .holdover, inc := s.tb.incI, lockRun := 0, badRun := 0, goodRun := 0, chained := false } }
    ((s.setBits R.TB_FLAGS 1).event 0x0202 (w32 (old + run * 2 ^ 16)) none).lockFail old

/-- A miss or a reject of the active source (R56, R58): the chain breaks, and the third in a row loses lock. -/
def State.badEdge (s : State) : State :=
  let s := { s with tb := { s.tb with chained := false, lockRun := 0, goodRun := 0, badRun := s.tb.badRun + 1 } }
  if s.tb.badRun ≥ 3 then s.loseLock else s

/-- The active list holds an enabled PHASE entry with the ANCHOR action (R59). -/
def State.phaseAnchored (s : State) : Bool :=
  (List.range 64).any fun i =>
    let w := s.act (R.TB_EVT i 0)
    w.getLsbD 31 && fld w 29 2 == 0 && fld w 24 5 == 1

/-- An arithmetic right shift. -/
def ashr (x : Int) (n : Nat) : Int := Int.fdiv x (2 ^ n)

/-- The loop at an accepted edge with error e and position `at_` (R57). -/
def State.loopUpdate (s : State) (e : Int) (at_ : Dword) : State :=
  let cfg := s.act R.TB_PH_CFG
  let i : Int := s.tb.incI.toNat
  let n : Nat := if s.tb.chained then max 1 (cyclesBetween s.tb.lastEdge at_) else 2 ^ 48 / s.tb.incI.toNat
  let i := if s.tb.chained then i + ashr ((2 ^ 48 / n : Nat) - i) (fld cfg 24 4) else i
  let p := -(ashr (Int.tdiv (e * 2 ^ 16) n) (fld cfg 20 4))
  let incI := s.clampInc i
  { s with tb := { s.tb with incI := incI, inc := s.clampInc (incI.toNat + p) } }

/-- The step of R59: the accumulator at OFFS and the compensation, wrap and triggers taken over the move of one INC to it. -/
def State.stepPhase (s : State) (offs comp : Nat) : State :=
  let inc := s.tb.inc
  let acc := BitVec.ofNat 48 (offs * 2 ^ 16 + comp * inc.toNat)
  let prev := acc - inc
  let wrap := decide (acc.toNat < inc.toNat)
  let nom := BitVec.ofNat 48 s.nom
  { s with tb := { s.tb with
      acc := acc, prev := prev, inWrap := wrap, wrapDue := wrap && !s.tb.wZero
      w := if s.tb.wCounted then s.tb.w - 1 else s.tb.w, wCounted := false
      incI := nom, inc := s.clampInc nom.toNat } }

/-- After an accepted edge in ACQUIRE: the lock run, and LOCKED when it is long enough (R58). -/
def State.lockStep (s : State) (e : Int) : State :=
  let win : Int := fld (s.act R.TB_PH_WIN) 16 16 * 2 ^ 16
  let run := if e.natAbs ≤ win then s.tb.lockRun + 1 else 0
  let s := { s with tb := { s.tb with lockRun := run } }
  if run ≥ fld (s.act R.TB_PH_CFG) 8 8 then
    let s := { s with tb := { s.tb with state := .locked, badRun := 0, goodRun := 0, accWin := true } }
    (s.setBits R.TB_FLAGS 2).event 0x0201 (w32 s.tb.src) none
  else s

/-- A candidate edge of the active source (R56 to R59). -/
def State.candidate (s : State) (k : Nat) : State :=
  let cfg := s.act (R.TB_PIN_CFG k)
  let comp := 3 + fld cfg 0 8
  let offs := s.act (R.TB_PIN_OFFS k)
  let ph := phaseOf (s.tb.acc - BitVec.ofNat 48 (comp * s.tb.inc.toNat))
  let e := (ph - offs).toInt
  let at_ := s.tb.raw - w64 (5 * comp)
  let s := if s.tb.state = .holdover then s.acquire k else s
  if s.tb.state = .locked ∧ e.natAbs > fld (s.act R.TB_PH_WIN) 0 16 * 2 ^ 16 then
    (s.bumpField (R.TB_PIN_CNT k) 16).badEdge
  else
    let s := (s.wr64 (R.TB_PIN_STAMP k) at_).wr R.TB_PH_ERR (ph - offs)
    let step := decide (s.tb.state = .acquire) && s.tb.first && !s.phaseAnchored
    let s := if step then s.stepPhase offs.toNat comp else s.loopUpdate e at_
    let s := { s with tb := { s.tb with
      first := false, chained := true, lastEdge := at_, badRun := 0, accWrap := true, accWin := true } }
    match s.tb.state with
    | .acquire => s.lockStep e
    | .locked =>
      let run := s.tb.goodRun + 1
      let s := { s with tb := { s.tb with goodRun := run % 256 } }
      if run = 256 then s.escOk 0 0 0 else s
    | _ => s

end Sys2Proof.Machine
end

