-- ==== Sys2Proof/Machine/Digest.lean ====
section
/-! DEFINITION. The digest units: CRC-64, the S and F streams, and digest records (R372 to R380). -/

namespace Sys2Proof.Machine

/-- One bit of the reflected CRC-64 (R374). -/
def crcBit (c : Dword) : Dword := if c.getLsbD 0 then (c >>> 1) ^^^ 0xC96C5795D7870F42 else c >>> 1

/-- One byte of the CRC. -/
def crcByte (c : Dword) (b : Byte) : Dword :=
  crcBit (crcBit (crcBit (crcBit (crcBit (crcBit (crcBit (crcBit (c ^^^ w64 b.toNat))))))))

/-- The running CRC over bytes, before the final inversion. -/
def crcBytes (c : Dword) (bs : List Byte) : Dword := bs.foldl crcByte c

/-- The initial value of the running CRC. -/
def crcInit : Dword := 0xFFFFFFFFFFFFFFFF

/-- CRC-64 of bytes (R374). -/
def crc64 (bs : List Byte) : Dword := crcBytes crcInit bs ^^^ crcInit

/-- An empty layer. -/
def Digest.empty : Digest := ⟨crcInit, 0, false⟩

/-- The digest of a layer: 0 when it holds no byte (R374). -/
def Digest.value (d : Digest) : Dword := if d.words = 0 then 0 else d.crc ^^^ crcInit

/-- One written word added: location, then data (R373). -/
def Digest.add (d : Digest) (loc data : Dword) (poison : Bool) : Digest :=
  ⟨crcBytes d.crc (leBytes 8 loc.toNat ++ leBytes 8 data.toNat), d.words + 1, d.poison || poison⟩

/-- The location of a word of core n's memories: its window offset, bit 63 for the cluster memory (R373). -/
def digestLoc (n wa : Nat) : Dword :=
  if wa < 0x60000000 then w64 (wa - memBase n) else w64 (2 ^ 63 + (wa - memBase (128 + n / 8)))

/-- A word written by core n's sequencer (isF false) or for its Fennel command hashed into the open layer (R372). -/
def State.hashWord (s : State) (n : Nat) (isF : Bool) (wa : Nat) (data : Dword) (poison : Bool) : State :=
  let c := s.core n
  let loc := digestLoc n wa
  s.setCore n (if isF then { c with dF := c.dF.map fun d => d.add loc data poison }
    else { c with dS := c.dS.map fun d => d.add loc data poison })

/-- The frame counter of a group (R91); group B has no anchors, and its count is a free value (log entry 92). -/
def State.groupFc (s : State) (part group : Nat) : Dword :=
  if group = 3 then Config.groupBCount s.free part else s.rd64 (R.SCH_FC part group)

/-- The step number of a context-job (R234): STEP for job 0, ASTEP for job AJOB, otherwise the frame counter. -/
def State.jobStep (s : State) (part group ctx job : Nat) : Dword :=
  if job = 0 then s.stepOf ctx
  else if job = s.field (R.SCH_RB ctx 6) 26 2 then join64 (s.rd (R.SCH_RB ctx 2)) (s.rd (R.SCH_RB ctx 3))
  else s.groupFc part group

/-- The group of a context's job (R89). -/
def State.jobGroup (s : State) (ctx job : Nat) : Nat := s.field (R.SCH_RB ctx (10 + job)) 29 2

/-! ## Verdicts (R384 to R386, R395, R396) -/

/-- The part is PAIRED (R368). -/
def State.paired (s : State) : Bool := s.field R.MIR_STAT 28 2 == 2

/-- The word of a capture (R386): CAUSE, KIND, JOB, LAYER, ORD of the own record. -/
def divInfo (input : Bool) (o : DigRec) : Word :=
  w32 (2 ^ 31 + b2n input * 2 ^ 30 + o.kind * 2 ^ 27 + o.job * 2 ^ 25 + o.layer * 2 ^ 16 + o.ord % 65536)

/-- A divergence whose lowest differing pair is (own, partner's) (R386). -/
def State.diverge (s : State) (o t : DigRec) : State :=
  let input := decide (o.kind = 2)
  let s := s.setBits (R.MIR_DIVMAP (o.ctx / 32)) (bitMask (o.ctx % 32))
  let s := if (s.rd R.MIR_DIVINFO).getLsbD 31 then s else
    let s := (s.wr R.MIR_DIVINFO (divInfo input o)).wr R.MIR_DIVCTX (w32 o.ctx)
    ((s.wr64 R.MIR_DIVSTEP o.step).wr64 R.MIR_DIVOWN o.digest).wr64 R.MIR_DIVPEER t.digest
  if (s.rd R.MIR_FLAGS).getLsbD 2 then s
  else (s.setBits R.MIR_FLAGS 4).event 0x0D06
    (w32 (o.ctx + o.job * 2 ^ 12 + o.layer * 2 ^ 16 + b2n input * 2 ^ 24)) (some o.ctx)

/-- The counter of a verdict (R385). -/
def verdictReg (v : Nat) : Nat :=
  match v with
  | 1 => R.MIR_AGREE
  | 2 => R.MIR_DIVC
  | 3 => R.MIR_POISC
  | 4 => R.MIR_MISSC
  | 5 => R.MIR_SKIPC
  | _ => R.MIR_CMPOVF

/-- A record belongs to a context-job step. -/
def DigRec.of (r : DigRec) (ctx job : Nat) (step : Dword) : Bool := r.ctx == ctx && r.job == job && r.step == step

/-- A step's verdict: counted, kept in MIR_VERD, its records discarded; a poisoned step is flagged (R385, R386, R398). -/
def State.settle (s : State) (ctx job : Nat) (step : Dword) (v : Nat) : State :=
  let s := { s with
    dig := { s.dig with own := s.dig.own.filter fun r => !r.of ctx job step }
    pair := { s.pair with theirs := s.pair.theirs.filter fun r => !r.of ctx job step
                          settled := FMap.upd s.pair.settled (4 * ctx + job) (some step)
                          sumRaw := FMap.upd s.pair.sumRaw (4 * ctx + job) none } }
  let s := ((s.bump (verdictReg v)).wr (R.MIR_VERD ctx job) (w32 v)).wr (R.MIR_VERD ctx job + 4) (lo32 step)
  if v = 3 && !(s.rd R.MIR_FLAGS).getLsbD 4 then
    (s.setBits R.MIR_FLAGS 16).event 0x0D08 (w32 (ctx + job * 2 ^ 12)) (some ctx)
  else s

/-- The lowest ORD at which the records of a step differ: the own and the partner's record (R384). -/
def lowestDiff (own theirs : List DigRec) : Option (DigRec × DigRec) :=
  own.foldl (fun best o =>
    match theirs.find? fun t => t.ord == o.ord with
    | none => best
    | some t =>
      let differs := o.kind != t.kind || o.layer != t.layer || o.poison != t.poison || o.digest != t.digest
      match best with
      | some b => if differs && decide (o.ord < b.1.ord) then some (o, t) else best
      | none => if differs then some (o, t) else none) none

/-- The step's verdict when a TDOWN record of either side or both STEPSUM records are present (R384, R385, R395, R396). -/
def State.compareStep (s : State) (ctx job : Nat) (step : Dword) : State :=
  let own := s.dig.own.filter fun r => r.of ctx job step
  let theirs := s.pair.theirs.filter fun r => r.of ctx job step
  if own.any (fun r => r.kind == 4) || theirs.any (fun r => r.kind == 4) then s.settle ctx job step 4
  else
    match own.find? (fun r => r.kind == 3), theirs.find? (fun r => r.kind == 3) with
    | some o, some t =>
      if o.extra ≠ t.extra then
        let s := if (s.act R.MIR_CFG).getLsbD (16 + o.part) then
            s.bump (if o.digest = t.digest then R.MIR_SKEQ o.part else R.MIR_SKNE o.part)
          else s
        s.settle ctx job step 5
      else if own.any DigRec.poison || theirs.any DigRec.poison then s.settle ctx job step 3
      else
        match lowestDiff own theirs with
        | none => s.settle ctx job step 1
        | some d => (s.settle ctx job step 2).diverge d.1 d.2
    | _, _ => s

/-- A record closed: it takes the next ORD of its step (R376). In PAIRED it waits to be sent and to be compared; one that finds
the queue full is dropped and its step is UNCHECKED (R380). -/
def State.closeRec (s : State) (r : DigRec) : State :=
  let k := r.ctx * 4 + r.job
  let st := FMap.get ⟨[], false⟩ s.dig.steps k
  let r : DigRec := { r with ord := st.digs.length }
  let s := { s with dig := { s.dig with steps := FMap.set ⟨[], false⟩ s.dig.steps k ⟨st.digs ++ [r.digest], st.poison || r.poison⟩ } }
  if !s.paired then s
  else if s.dig.queue.length < 4096 then
    let s := { s with dig := { s.dig with queue := s.dig.queue ++ [(r, s.tb.raw)] } }
    if (FMap.find s.pair.settled k == some r.step) then s
    else
      let s := { s with dig := { s.dig with own := s.dig.own ++ [r] }
                        pair := { s.pair with sumRaw := if r.kind = 3 then FMap.upd s.pair.sumRaw k (some s.tb.raw) else s.pair.sumRaw } }
      s.compareStep r.ctx r.job r.step
  else if (FMap.find s.pair.settled k == some r.step) then s
  else s.settle r.ctx r.job r.step 6

/-- The records of a context-job's step are closed: the next record has ORD 0. -/
def State.newStep (s : State) (ctx job : Nat) : State :=
  { s with dig := { s.dig with steps := FMap.set ⟨[], false⟩ s.dig.steps (ctx * 4 + job) ⟨[], false⟩ } }

/-- The record of a closed layer of core n (R375, R376). -/
def layerRec (s : State) (c : Core) (isF : Bool) (d : Digest) (layer ctx : Nat) : DigRec :=
  { kind := if isF then 1 else 0, poison := d.poison, batch := c.batch, job := c.job, layer := layer, part := c.part,
    ctx := ctx, ord := 0, nrec := 0, step := s.jobStep c.part (s.jobGroup ctx c.job) ctx c.job,
    digest := d.value, extra := w64 d.words }

/-- The open S layer closed with a number; an empty one only when `always` (R375). It re-opens when `reopen`. -/
def State.closeS (s : State) (n layer : Nat) (always reopen : Bool) : State :=
  let c := s.core n
  match c.dS, c.ctx with
  | some d, some ctx =>
    let s := s.setCore n { c with dS := if reopen then some .empty else none }
    if always || decide (d.words ≠ 0) then s.closeRec (layerRec s c false d layer ctx) else s
  | _, _ => s.setCore n { c with dS := if reopen && c.dS.isSome then some .empty else none }

/-- The open F layer of granted core n closed with LAYER 0xFF for a Fennel command of context `ctx` and job `job` (R375). -/
def State.closeF (s : State) (n part ctx job : Nat) (batch : Bool) : State :=
  let c := s.core n
  match c.dF with
  | some d =>
    (s.setCore n { c with dF := none }).closeRec
      { kind := 1, poison := d.poison, batch := batch, job := job, layer := 0xFF, part := part, ctx := ctx, ord := 0,
        nrec := 0, step := s.jobStep part (s.jobGroup ctx job) ctx job, digest := d.value, extra := w64 d.words }
  | none => s

end Sys2Proof.Machine
end

