-- ==== Sys2Proof/Machine/Flags.lean ====
section
/-! DEFINITION. Binary floating point with flags, by exact integer arithmetic and one rounding (R135 to R138, R144, R210):
the scalar unit, the row unit and the Fennel engine compute with it. Packed decimal (R133, R134) stands at the end. -/

namespace Sys2Proof.Machine

/-- XFLAGS bits of the IEEE exceptions and of the integer and decimal units (R124). -/
def fNV : Nat := 1
def fFDZ : Nat := 2
def fOF : Nat := 4
def fUF : Nat := 8
def fNX : Nat := 16
def fOVF : Nat := 0x100
def fDZ : Nat := 0x200
def fDIGIT : Nat := 0x400
def fDOVF : Nat := 0x800
def fILL : Nat := 0x1000
def fDBUSY : Nat := 0x2000
/-- Not a flag: a non-zero result was tiny, exact or not (R135: the underflow trap, when enabled, takes it). -/
def fTINY : Nat := 0x10000

/-- A binary format: precision and exponent bias. -/
structure Fmt where
  p    : Nat
  bias : Nat
  deriving DecidableEq, Repr

/-- binary32 and binary64 (R125: fmt 0 and 1). -/
def b32 : Fmt := ⟨24, 127⟩
def b64 : Fmt := ⟨53, 1023⟩

/-- Bits of the exponent field's largest value. -/
def Fmt.emax (f : Fmt) : Nat := 2 * f.bias + 1

/-- The sign bit's weight. -/
def Fmt.sgn (f : Fmt) : Nat := (f.emax + 1) * 2 ^ (f.p - 1)

/-- The encoding of +∞. -/
def Fmt.infBits (f : Fmt) : Nat := f.emax * 2 ^ (f.p - 1)

/-- The default NaN (R136). -/
def Fmt.defNaN (f : Fmt) : Nat := f.infBits + 2 ^ (f.p - 2)

/-- A decoded value: m × 2^e with a sign, an infinity, or a NaN. -/
inductive FVal where
  | fin (neg : Bool) (m : Nat) (e : Int)
  | inf (neg : Bool)
  | nan (neg sig : Bool) (frac : Nat)
  deriving DecidableEq, Repr

/-- An encoding decoded. -/
def Fmt.decode (f : Fmt) (b : Nat) : FVal :=
  let neg := decide (b / f.sgn % 2 = 1)
  let ex := b / 2 ^ (f.p - 1) % (f.emax + 1)
  let fr := b % 2 ^ (f.p - 1)
  if ex = f.emax then
    if fr = 0 then .inf neg else .nan neg (decide (fr < 2 ^ (f.p - 2))) fr
  else if ex = 0 then .fin neg fr (2 - (f.bias : Int) - f.p)
  else .fin neg (fr + 2 ^ (f.p - 1)) ((ex : Int) + 1 - f.bias - f.p)

/-- A result with its flags. -/
structure FRes where
  bits  : Nat
  flags : Nat
  deriving DecidableEq, Repr

/-- The sign bit of an encoding. -/
def Fmt.signBits (f : Fmt) (neg : Bool) : Nat := if neg then f.sgn else 0

/-- The bit length of a number. -/
def bitLen (n : Nat) : Nat := if n = 0 then 0 else Nat.log2 n + 1

/-- Whether rounding moves the kept magnitude up: `half` compares the rest with half a unit, `rest` says it is not zero. -/
def roundUp (rm : Nat) (neg odd : Bool) (rest : Bool) (half : Ordering) : Bool :=
  match rm with
  | 0 => half == .gt || (half == .eq && odd)
  | 1 => half != .lt
  | 2 => rest && !neg
  | 3 => rest && neg
  | _ => false

/-- The magnitude m × 2^e (plus a sticky rest below it) as a multiple of 2^q: the rounded multiple, and whether inexact. -/
def roundTo (rm : Nat) (neg : Bool) (m : Nat) (e : Int) (sticky : Bool) (q : Int) : Nat × Bool :=
  if q ≤ e then
    let k := m * 2 ^ (e - q).toNat
    (if roundUp rm neg (k % 2 = 1) sticky .lt then k + 1 else k, sticky)
  else
    let d := (q - e).toNat
    let k := m / 2 ^ d
    let r := m % 2 ^ d
    let rest := sticky || decide (r ≠ 0)
    let half : Ordering :=
      if 2 * r < 2 ^ d then .lt else if 2 * r = 2 ^ d then (if sticky then .gt else .eq) else .gt
    (if roundUp rm neg (k % 2 = 1) rest half then k + 1 else k, rest)

/-- The value m × 2^e (m not 0, with a sticky rest of less than a quarter of its last kept unit) rounded into a format
(R135: tininess after rounding; UF when tiny and inexact). -/
def Fmt.round (f : Fmt) (rm : Nat) (neg : Bool) (m : Nat) (e : Int) (sticky : Bool) : FRes :=
  let top : Int := (bitLen m : Int) - 1 + e
  let emin : Int := 1 - (f.bias : Int)
  let q : Int := max (top - (f.p - 1)) (emin - (f.p - 1))
  let (r, inexact) := roundTo rm neg m e sticky q
  let (r, q) := if r = 2 ^ f.p then (2 ^ (f.p - 1), q + 1) else (r, q)
  let sg := f.signBits neg
  if 2 ^ (f.p - 1) ≤ r ∧ q + (f.p - 1) > f.bias then
    let toMax := match rm with
      | 2 => neg
      | 3 => !neg
      | 4 => true
      | _ => false
    ⟨sg + (if toMax then f.infBits - 1 else f.infBits), fOF + fNX⟩
  else
    let tiny := if top < emin then
        let u := roundTo rm neg m e sticky (top - (f.p - 1))
        !(decide (u.1 = 2 ^ f.p) && decide (top + 1 = emin))
      else false
    let b := (q - (emin - (f.p - 1))).toNat
    ⟨sg + b * 2 ^ (f.p - 1) + r, (if inexact then fNX else 0) + (if tiny && inexact then fUF else 0) + (if tiny then fTINY else 0)⟩

/-- A NaN quietened, sign and payload kept (R136). -/
def Fmt.quiet (f : Fmt) (neg : Bool) (frac : Nat) : Nat :=
  f.signBits neg + f.infBits + (if frac < 2 ^ (f.p - 2) then frac + 2 ^ (f.p - 2) else frac)

/-- Whether a value is a NaN, and a signalling one. -/
def FVal.isNaN : FVal → Bool
  | .nan .. => true
  | _ => false

def FVal.isSNaN : FVal → Bool
  | .nan _ s _ => s
  | _ => false

/-- The NaN rule of R136 over the operands in order: the first NaN quietened, NV when any is signalling or `nv`. -/
def Fmt.nanOf (f : Fmt) (nv : Bool) (vs : List FVal) : FRes :=
  let fl := if nv || vs.any FVal.isSNaN then fNV else 0
  match vs.find? FVal.isNaN with
  | some (.nan neg _ fr) => ⟨f.quiet neg fr, fl⟩
  | _ => ⟨f.defNaN, fl⟩

/-- An exact signed sum rounded; an exact zero takes `zneg`. -/
def Fmt.roundInt (f : Fmt) (rm : Nat) (v : Int) (e : Int) (zneg : Bool) : FRes :=
  if v = 0 then ⟨f.signBits zneg, 0⟩ else f.round rm (decide (v < 0)) v.natAbs e false

/-- The signed significand. -/
def sInt (neg : Bool) (m : Nat) : Int := if neg then -(m : Int) else m

/-- Exact sum of two finite values as an integer times a power of two. -/
def addExact (n1 : Bool) (m1 : Nat) (e1 : Int) (n2 : Bool) (m2 : Nat) (e2 : Int) : Int × Int :=
  let e := min e1 e2
  (sInt n1 m1 * 2 ^ (e1 - e).toNat + sInt n2 m2 * 2 ^ (e2 - e).toNat, e)

/-- The sign of an exact zero sum (IEEE 754-2019 6.3): the common sign, else + but for roundTowardNegative. -/
def zeroSign (rm : Nat) (n1 n2 : Bool) : Bool := if n1 = n2 then n1 else decide (rm = 3)

/-- Sum of two values, the second one's sign inverted by `sub` (R135). -/
def Fmt.add (f : Fmt) (rm : Nat) (sub : Bool) (x y : Nat) : FRes :=
  match f.decode x, f.decode y with
  | .fin n1 m1 e1, .fin n2 m2 e2 =>
    let n2 := xor n2 sub
    let v := addExact n1 m1 e1 n2 m2 e2
    f.roundInt rm v.1 v.2 (zeroSign rm n1 n2)
  | .inf n1, .fin .. => ⟨f.signBits n1 + f.infBits, 0⟩
  | .fin .., .inf n2 => ⟨f.signBits (xor n2 sub) + f.infBits, 0⟩
  | .inf n1, .inf n2 =>
    if n1 = xor n2 sub then ⟨f.signBits n1 + f.infBits, 0⟩ else ⟨f.defNaN, fNV⟩
  | a, b => f.nanOf false [a, b]

/-- Product (R135). -/
def Fmt.mul (f : Fmt) (rm : Nat) (x y : Nat) : FRes :=
  match f.decode x, f.decode y with
  | .fin n1 m1 e1, .fin n2 m2 e2 =>
    if m1 * m2 = 0 then ⟨f.signBits (xor n1 n2), 0⟩ else f.round rm (xor n1 n2) (m1 * m2) (e1 + e2) false
  | .inf n1, .fin n2 m2 _ => if m2 = 0 then ⟨f.defNaN, fNV⟩ else ⟨f.signBits (xor n1 n2) + f.infBits, 0⟩
  | .fin n1 m1 _, .inf n2 => if m1 = 0 then ⟨f.defNaN, fNV⟩ else ⟨f.signBits (xor n1 n2) + f.infBits, 0⟩
  | .inf n1, .inf n2 => ⟨f.signBits (xor n1 n2) + f.infBits, 0⟩
  | a, b => f.nanOf false [a, b]

/-- Fused multiply-add: the product's sign inverted by `np`, the addend's by `nc` (R128, R136). -/
def Fmt.fma (f : Fmt) (rm : Nat) (np nc : Bool) (x y z : Nat) : FRes :=
  let a := f.decode x
  let b := f.decode y
  let c := f.decode z
  let invalid := match a, b with
    | .inf _, .fin _ m _ => decide (m = 0)
    | .fin _ m _, .inf _ => decide (m = 0)
    | _, _ => false
  if a.isNaN || b.isNaN || c.isNaN then f.nanOf invalid [a, b, c]
  else if invalid then ⟨f.defNaN, fNV⟩
  else
    let sg : FVal → Bool := fun v => match v with
      | .fin n .. => n
      | .inf n => n
      | .nan n .. => n
    let n1 := xor (xor (sg a) (sg b)) np
    let n2 := xor (sg c) nc
    match a, b, c with
    | .fin _ m1 e1, .fin _ m2 e2, .fin _ m3 e3 =>
      let v := addExact n1 (m1 * m2) (e1 + e2) n2 m3 e3
      f.roundInt rm v.1 v.2 (zeroSign rm n1 n2)
    | .fin .., .fin .., _ => ⟨f.signBits n2 + f.infBits, 0⟩
    | _, _, .inf _ => if n1 = n2 then ⟨f.signBits n1 + f.infBits, 0⟩ else ⟨f.defNaN, fNV⟩
    | _, _, _ => ⟨f.signBits n1 + f.infBits, 0⟩

/-- Quotient (R135): x / 0 for finite non-zero x raises FDZ. -/
def Fmt.div (f : Fmt) (rm : Nat) (x y : Nat) : FRes :=
  match f.decode x, f.decode y with
  | .fin n1 m1 e1, .fin n2 m2 e2 =>
    let sg := f.signBits (xor n1 n2)
    if m2 = 0 then (if m1 = 0 then ⟨f.defNaN, fNV⟩ else ⟨sg + f.infBits, fFDZ⟩)
    else if m1 = 0 then ⟨sg, 0⟩
    else
      let k := f.p + 4 + bitLen m2 - bitLen m1
      let n := m1 * 2 ^ k
      f.round rm (xor n1 n2) (n / m2) (e1 - e2 - k) (decide (n % m2 ≠ 0))
  | .inf n1, .fin n2 _ _ => ⟨f.signBits (xor n1 n2) + f.infBits, 0⟩
  | .fin n1 _ _, .inf n2 => ⟨f.signBits (xor n1 n2), 0⟩
  | .inf _, .inf _ => ⟨f.defNaN, fNV⟩
  | a, b => f.nanOf false [a, b]

/-- The integer square root of `n`, below 2^k, found bit by bit from bit k − 1. -/
def isqrt : Nat → Nat → Nat → Nat
  | 0, _, r => r
  | k + 1, n, r => isqrt k n (if (r + 2 ^ k) * (r + 2 ^ k) ≤ n then r + 2 ^ k else r)

/-- Square root (R135). -/
def Fmt.sqrt (f : Fmt) (rm : Nat) (x : Nat) : FRes :=
  match f.decode x with
  | .fin n m e =>
    if m = 0 then ⟨f.signBits n, 0⟩
    else if n then ⟨f.defNaN, fNV⟩
    else
      -- scale so that the exponent is even and the root has p + 3 bits at least
      let k := 2 * (f.p + 4) - bitLen m
      let k := if (e - k) % 2 = 0 then k else k + 1
      let v := m * 2 ^ k
      let r := isqrt (f.p + 6) v 0
      f.round rm false r ((e - k) / 2) (decide (r * r ≠ v))
  | .inf n => if n then ⟨f.defNaN, fNV⟩ else ⟨f.infBits, 0⟩
  | v => f.nanOf false [v]

/-- Order of two non-NaN values, −0 equal to +0. -/
def FVal.cmp (a b : FVal) : Ordering :=
  match a, b with
  | .inf n1, .inf n2 => if n1 = n2 then .eq else if n1 then .lt else .gt
  | .inf n1, _ => if n1 then .lt else .gt
  | _, .inf n2 => if n2 then .gt else .lt
  | .fin n1 m1 e1, .fin n2 m2 e2 => compare (addExact n1 m1 e1 (!n2) m2 e2).1 0
  | _, _ => .eq

/-- minimumNumber and maximumNumber (R138): −0 below +0. -/
def Fmt.minmax (f : Fmt) (isMax : Bool) (x y : Nat) : FRes :=
  let a := f.decode x
  let b := f.decode y
  let fl := if a.isSNaN || b.isSNaN then fNV else 0
  if a.isNaN && b.isNaN then ⟨(f.nanOf false [a, b]).bits, fl⟩
  else if a.isNaN then ⟨y, fl⟩
  else if b.isNaN then ⟨x, fl⟩
  else
    let less := match a.cmp b with
      | .lt => true
      | .gt => false
      | .eq => decide (x / f.sgn % 2 = 1)
    ⟨if less = isMax then y else x, 0⟩

/-- Comparisons (R138): 0 EQ, 1 LT, 2 LE, 3 UN. -/
def Fmt.compare (f : Fmt) (op : Nat) (x y : Nat) : FRes :=
  let a := f.decode x
  let b := f.decode y
  let un := a.isNaN || b.isNaN
  let sig := a.isSNaN || b.isSNaN
  let o := a.cmp b
  match op with
  | 0 => ⟨b2n (!un && o == .eq), if sig then fNV else 0⟩
  | 1 => ⟨b2n (!un && o == .lt), if un then fNV else 0⟩
  | 2 => ⟨b2n (!un && o != .gt), if un then fNV else 0⟩
  | _ => ⟨b2n un, if sig then fNV else 0⟩

/-- The class word of FCLS (R138). -/
def Fmt.classify (f : Fmt) (x : Nat) : Nat :=
  let s := 16 * (x / f.sgn % 2)
  s + match f.decode x with
    | .fin _ m _ => if m = 0 then 1 else if m < 2 ^ (f.p - 1) then 2 else 3
    | .inf _ => 4
    | .nan _ sig _ => if sig then 9 else 8

/-- Conversion between formats (R137). -/
def Fmt.convert (src dst : Fmt) (rm : Nat) (x : Nat) : FRes :=
  match src.decode x with
  | .fin n m e => if m = 0 then ⟨dst.signBits n, 0⟩ else dst.round rm n m e false
  | .inf n => ⟨dst.signBits n + dst.infBits, 0⟩
  | .nan n sig fr =>
    let fr := if src.p ≤ dst.p then fr * 2 ^ (dst.p - src.p) else fr / 2 ^ (src.p - dst.p)
    ⟨dst.quiet n fr, if sig then fNV else 0⟩

/-- An integer to a format. -/
def Fmt.ofInt (f : Fmt) (rm : Nat) (v : Int) : FRes := f.roundInt rm v 0 false

/-- A finite magnitude rounded to an integer, with its inexact mark. -/
def roundInteger (rm : Nat) (neg : Bool) (m : Nat) (e : Int) : Int × Bool :=
  let r := roundTo rm neg m e false 0
  (sInt neg r.1, r.2)

/-- Conversion to a 32-bit integer in the range lo to hi (R137). -/
def Fmt.toInt (f : Fmt) (rm : Nat) (lo hi : Int) (x : Nat) : FRes :=
  match f.decode x with
  | .nan .. => ⟨0, fNV⟩
  | .inf n => ⟨unsign 32 (if n then lo else hi), fNV⟩
  | .fin n m e =>
    let r := roundInteger rm n m e
    if r.1 < lo then ⟨unsign 32 lo, fNV⟩
    else if hi < r.1 then ⟨unsign 32 hi, fNV⟩
    else ⟨unsign 32 r.1, if r.2 then fNX else 0⟩

/-- Conversion to W and WU. -/
def Fmt.toW (f : Fmt) (rm x : Nat) : FRes := f.toInt rm (-2147483648) 2147483647 x
def Fmt.toWU (f : Fmt) (rm x : Nat) : FRes := f.toInt rm 0 4294967295 x

/-! ## Packed decimal (R133, R134) -/

/-- The fifteen digits of a pair as a number; none when a digit or the sign is no digit or sign. -/
def decValue (d : Dword) : Option Int :=
  let nib := fun i => d.toNat / 16 ^ i % 16
  if (List.range 15).all (fun i => decide (nib i ≤ 9)) && (nib 15 == 0 || nib 15 == 15) then
    let v := (List.range 15).foldl (fun a i => a + nib i * 10 ^ i) 0
    some (if nib 15 = 15 then -(v : Int) else v)
  else none

/-- A number as packed digits. -/
def decDigits (v : Nat) : Nat := (List.range 15).foldl (fun a i => a + v / 10 ^ i % 10 * 16 ^ i) 0

/-- DADD (sub false) or DSUB of two pairs: the result pair and its flags (R134). -/
def decOp (sub : Bool) (x y : Dword) : Dword × Nat :=
  match decValue x, decValue y with
  | some a, some b =>
    let r : Int := if sub then a - b else a + b
    let m := r.natAbs % 10 ^ 15
    let sg := if decide (r < 0) && decide (m ≠ 0) then 15 * 16 ^ 15 else 0
    (w64 (sg + decDigits m), if r.natAbs < 10 ^ 15 then 0 else fDOVF)
  | _, _ => (0, fDIGIT)

end Sys2Proof.Machine
end

