-- ==== Sys2Proof/Machine/FenOps.lean ====
section
/-! DEFINITION. The Fennel engine's memory port, provisional result and commit (R208, R228 to R236), shared by its ops, its
deadline and teardown. -/

namespace Sys2Proof.Machine

/-- An engine; unlisted engines at reset. -/
def State.fenOf (s : State) (m : Nat) : Fennel := FMap.get Fennel.reset s.fen m

/-- The engine replaced. -/
def State.setFen (s : State) (m : Nat) (e : Fennel) : State := { s with fen := FMap.set Fennel.reset s.fen m e }

/-- The engine changed. -/
def State.modFen (s : State) (m : Nat) (f : Fennel → Fennel) : State := s.setFen m (f (s.fenOf m))

/-- The granted core of engine m. -/
def Fennel.core (e : Fennel) (m : Nat) : Nat := 8 * m + e.gcore

/-- The device address of an engine row (R208). -/
def Fennel.rowAddr (e : Fennel) (m row : Nat) : Nat :=
  if row < 65536 then memBase (e.core m) + 128 * row else memBase (128 + m) + 128 * (row - 65536)

/-- The job of an engine's command: the enabled job of its context with its class and group (R84). -/
def State.jobOf (s : State) (ctx jclass group : Nat) : Nat :=
  ((List.range 4).find? fun j =>
    let w := s.rd (R.SCH_RB ctx (10 + j))
    w.getLsbD 31 && fld w 29 2 == group && fld w 23 6 == jclass).getD 0

/-- A write by engine m of whole words from `a`, poisoned under its latch, hashed into the F stream (R284, R372); a bank that performs no access
takes none of them (R265). -/
def State.fenWrite (s : State) (m a : Nat) (ws : List Dword) : State :=
  let e := s.fenOf m
  forEach ws.zipIdx s fun s x =>
    let wa := a + 8 * x.2
    match s.place wa with
    | none => s
    | some p =>
      if s.bankGated p.mem (bankOf p.mem p.off) then s else
      let s := s.writeWord p wa x.1 e.poison
      if s.isRt e.part then s.hashWord (e.core m) true wa x.1 e.poison else s

/-- What the engine takes from a read: the state with an uncorrectable word's latch set, and the words. -/
structure FenRead where
  st    : State
  words : List Dword
  bad   : Bool

/-- Words of a bank that performs no access, as a read takes them: undefined (R265 gives no effect for the engine; DESIGN CHOICE, log entry
100). -/
def State.noWords (s : State) (a len : Nat) : List Dword :=
  (wordsOf a len).map fun wa => w64 (ofLe ((List.range 8).map fun i => Config.undefinedByte s.free (wa + i)))

/-- A wide read by engine m of `len` bytes from `a` (R282 source 0x3; the latch of R284). -/
def State.fenRead (s : State) (m a len : Nat) : FenRead :=
  if (s.place a).any fun p => s.bankGated p.mem (bankOf p.mem p.off) then ⟨s, s.noWords a len, false⟩
  else
    let r := s.readWide a len 3 (s.fenOf m).ctx
    match r.bad with
    | some _ => ⟨r.st.modFen m fun e => { e with poison := true }, r.words, true⟩
    | none => ⟨r.st, r.words, false⟩

/-- The step number a result record carries (R234). -/
def State.fenStep (s : State) (e : Fennel) : Dword :=
  match e.ctx with
  | some c => s.jobStep e.part e.group c (s.jobOf c e.jclass e.group)
  | none => 0

/-- What marks a commit (R234): its status, and DEADLINE, KILLED and SKIPPED. -/
structure FenMark where
  status   : Nat
  deadline : Bool
  killed   : Bool
  skipped  : Bool

/-- The state row's WSTREAK after a commit with a status (R231). The spec gives eight bits and no behaviour at their top: the count stays at 255
(DESIGN CHOICE, log entry 101). -/
def Fennel.streak (e : Fennel) (status : Nat) : Nat := if status = 2 then min (e.wstreak + 1) 255 else 0

/-- SIDE of a commit: the safe area for INFEASIBLE, NUMERIC_GUARD and SAFE_VALUE (R235). -/
def Fennel.sideOf (e : Fennel) (status : Nat) : Nat := if status ≥ 4 then 3 else e.side

/-- The eight words of a result record (R234). Fields that no iterate supplies hold the first row of R229. -/
def Fennel.record (e : Fennel) (k : FenMark) (step : Dword) : List Word :=
  let none := decide (k.status ≥ 4)
  let flags := b2n e.stale + 2 * b2n (none || e.warmOnly) + 4 * b2n e.numSat + 8 * b2n k.deadline + 16 * b2n e.cold +
    32 * b2n k.killed + 64 * b2n e.nonfin + 128 * b2n e.frej + 256 * b2n k.skipped
  [w32 (flags * 2 ^ 16 + e.tfl * 2 ^ 10 + e.sideOf k.status * 2 ^ 8 + k.status),
   w32 (min (FMap.get 0 e.pgOf e.data) 0xFFFF * 2 ^ 16 + (if none then 0 else e.iter)),
   if none then 0x7F800000 else e.pres,
   if none then 0x7F800000 else e.dres,
   lo32 step, hi32 step,
   if none then 0x7F800000 else e.meas,
   w32 (e.revF.toNat % 256 * 2 ^ 24 + e.streak k.status * 2 ^ 16 + e.nit % 2 ^ 16)]

/-- Words paired into double words, low word first. -/
def pairUp : List Word → List Dword
  | a :: b :: r => join64 a b :: pairUp r
  | _ => []

/-- The state row (R231). -/
def Fennel.stateRow (e : Fennel) (status : Nat) : List Word :=
  [w32 (e.streak status * 2 ^ 8 + 4 * b2n (decide (status ≤ 3)) + e.sideOf status),
   w32 (b2n e.fvalid * 2 ^ 31 + e.fbuf * 2 ^ 30 + b2n e.frun * 2 ^ 29 + b2n e.fwait * 2 ^ 28 + b2n e.frejed * 2 ^ 27 +
     e.fprog),
   e.revF, e.revB]

/-- The command that runs on an engine removed; paused ones stay (R98). -/
def State.dropCmd (s : State) (eng : Engine) : State :=
  { s with sch := { s.sch with running := s.sch.running.filter fun r => r.eng != eng || r.paused } }

/-- FEN_STAT and FEN_CTX of engine m show its command (R237). -/
def State.fenShow (s : State) (m : Nat) : State :=
  let e := s.fenOf m
  let st := if e.run then 2 ^ 31 + b2n e.frun * 2 ^ 30 + e.gcore * 2 ^ 24 + e.amask * 2 ^ 16 + e.prog * 2 ^ 8 else 0
  let s := s.wr (R.FEN_STAT m) (w32 st)
  s.wr (R.FEN_CTX m) (match e.ctx with
    | some c => if e.run then w32 (2 ^ 31 + c) else 0
    | none => 0)

/-- The counters of a commit with a status (R237). -/
def State.fenCount (s : State) (m status : Nat) : State :=
  let s := s.bump (R.FEN_SOLVES m)
  match status with
  | 0 => s.bump (R.FEN_CONV m)
  | 1 | 3 => s.bump (R.FEN_DLINE m)
  | 2 => s.bump (R.FEN_WARM m)
  | 4 => s.bumpField (R.FEN_FAILC m) 16
  | 5 => s.bumpField (R.FEN_FAILC m) 0
  | _ => s.bump (R.FEN_SAFE m)

/-- The argument word of the engine's events (R236). -/
def Fennel.arg (e : Fennel) (hi : Nat) : Word := w32 (e.ctx.getD 0 + e.prog * 2 ^ 16 + hi * 2 ^ 24)

/-- The result row written and its words shown in FEN_LAST. -/
def State.fenResult (s : State) (m : Nat) (ws : List Word) : State :=
  let s := s.fenWrite m (s.fenOf m).data (pairUp ws)
  forEach ws.zipIdx s fun s x => s.wr (R.FEN_LAST m x.2) x.1

/-- The engine's command has ended: its F layer closes and its latch clears (R284, R375). -/
def State.fenEnd (s : State) (m : Nat) : State :=
  let e := s.fenOf m
  let s := match e.ctx with
    | some c => s.closeF (e.core m) e.part c (s.jobOf c e.jclass e.group) false
    | none => s.modCore (e.core m) fun k => { k with dF := none }
  let s := s.modFen m fun e => { e with run := false, poison := false, body := false, fbody := false }
  (s.dropCmd (.fen m)).fenShow m

/-- The SIGNAL of a commit (R37). -/
def State.fenSignal (s : State) (m : Nat) : State :=
  match Config.fenSignal s.tb.raw m with
  | some (obj, n) => if n = 0 then s else s.post (obj % 16384) (syncLat m (obj % 16384)) (.signal n.toNat)
  | none => s

/-- A commit (R37, R230, R231): the result row, then the state row, the counters and events, and the end of the command. -/
def State.fenCommit (s : State) (m : Nat) (k : FenMark) : State :=
  let e := s.fenOf m
  let s := s.fenResult m (e.record k (s.fenStep e))
  let s := s.fenWrite m (e.data + 128) (pairUp (e.stateRow k.status))
  let s := s.modFen m fun e =>
    { e with wstreak := e.streak k.status, cvalid := decide (k.status ≤ 3), carea := e.sideOf k.status }
  let s := s.fenCount m k.status
  let s := if k.status = 4 ∨ k.status = 5 then
      (s.setBits (R.FEN_FLAGS m) (bitMask 1)).event 0x0702 (e.arg k.status) e.ctx
    else s
  (s.fenSignal m).fenEnd m

/-- A Fennel command killed (R233): under SAFEACT it commits SAFE_VALUE; otherwise the result row is marked KILLED with the
step, every other field unchanged; the state row is not written, and what the command did to a factor is lost. -/
def State.fenKill (s : State) (m : Nat) (safeact : Bool) : State :=
  let e := s.fenOf m
  let step := s.fenStep e
  let s := s.modFen m fun e => { e with pgOf := e.pgSav }
  let s :=
    if safeact then
      let s := s.modFen m fun e => { e with poison := false }
      ((s.fenResult m (e.record ⟨6, true, true, false⟩ step)).fenCount m 6).fenSignal m
    else
      let old := s.peekLe e.data 8
      s.fenWrite m e.data [w64 (Nat.lor old (2 ^ 21))] |>.fenWrite m (e.data + 16) [step]
  s.fenEnd m

end Sys2Proof.Machine
end

