-- ==== Sys2Proof/Machine/Tensor.lean ====
section
/-! DEFINITION. What the MAC arrays compute, bit for bit (R154 to R176): operand conversion, steps, accumulation and output
conversion, and the completion of array commands. -/

namespace Sys2Proof.Machine

/-- The sticky bits of an array (R170). -/
def tASAT : Nat := 1
def tIFZ : Nat := 2
def tOFZ : Nat := 4
def tTNV : Nat := 8
def tTOVF : Nat := 16
def tMIX : Nat := 32

/-- A FLOAT element, as a binary32 value (R164): its operand and IFZ. -/
def elemOp (x : Word) : FOp × Nat :=
  let neg := x.getLsbD 31
  let ex := fld x 23 8
  let fr := fld x 0 23
  if ex = 255 then (if fr = 0 then .inf neg else .nan, 0)
  else if ex = 0 then (.zero, if fr = 0 then 0 else tIFZ)
  else (.num neg (2 ^ 23 + fr) ((ex : Int) - 127), 0)

/-- A finite value brought into range (R166, R168): 2^128 or more becomes an infinity, a non-zero value below 2^−126 zero. -/
def accRange (m e : Int) : FAcc × Nat :=
  if m = 0 then (.fin 0 0, 0)
  else
    let top : Int := (bitLen m.natAbs : Int) - 1 + e
    if top ≥ 128 then (.inf (decide (m < 0)), tTOVF)
    else if top < -126 then (.fin 0 0, tOFZ)
    else (.fin m e, 0)

/-- A magnitude cut toward zero by 2^d, sign kept. -/
def truncShift (m : Int) (d : Nat) : Int := sInt (decide (m < 0)) (m.natAbs / 2 ^ d)

/-- The products of one step, in units of 2^(ex + ey − 46) (R165). -/
def stepProducts (pass : Nat) (x y : Nat) : Nat :=
  let h := fun v => v / 2 ^ 16
  let d := fun v => v / 2 ^ 8 % 256
  let l := fun v => v % 256
  h x * h y * 2 ^ 32 +
  (if pass ≥ 2 then (h x * d y + d x * h y) * 2 ^ 24 else 0) +
  (if pass ≥ 3 then (h x * l y + d x * d y + l x * h y) * 2 ^ 16 else 0)

/-- The value of one FLOAT step (R166). -/
def stepValue (pass : Nat) (x y : FOp) : FAcc × Nat :=
  match x, y with
  | .nan, _ => (.nan, 0)
  | _, .nan => (.nan, 0)
  | .inf _, .zero => (.nan, tTNV)
  | .zero, .inf _ => (.nan, tTNV)
  | .inf a, .inf b => (.inf (xor a b), 0)
  | .inf a, .num b _ _ => (.inf (xor a b), 0)
  | .num a _ _, .inf b => (.inf (xor a b), 0)
  | .zero, _ => (.fin 0 0, 0)
  | _, .zero => (.fin 0 0, 0)
  | .num a mx ex, .num b my ey => accRange (sInt (xor a b) (stepProducts pass mx my / 2 ^ 23)) (ex + ey - 23)

/-- A tangent step (R175, R176): the signed A operand times the high part of a tangent. -/
def tangentStep (a : Int) (y : FOp) : FAcc × Nat :=
  match y with
  | .nan => (.nan, 0)
  | .inf b => if a = 0 then (.nan, tTNV) else (.inf (xor (decide (a < 0)) b), 0)
  | .zero => (.fin 0 0, 0)
  | .num b m e => accRange (a * sInt b (m / 2 ^ 16)) (e - 7)

/-- A step added to a float accumulator, truncated to 27 bits (R168). -/
def accAdd (acc step : FAcc) : FAcc × Nat :=
  match acc, step with
  | .nan, _ => (.nan, 0)
  | _, .nan => (.nan, 0)
  | .inf a, .inf b => if a = b then (.inf a, 0) else (.nan, tTNV)
  | .inf a, .fin _ _ => (.inf a, 0)
  | .fin _ _, .inf b => (.inf b, 0)
  | .fin m1 e1, .fin m2 e2 =>
    let e := min e1 e2
    let v := m1 * 2 ^ (e1 - e).toNat + m2 * 2 ^ (e2 - e).toNat
    let d := bitLen v.natAbs - 27
    accRange (truncShift v d) (if v = 0 then 0 else e + d)

/-- Output conversion to binary32 (R169). -/
def accOut (a : FAcc) : Nat × Nat :=
  match a with
  | .nan => (0x7FC00000, 0)
  | .inf n => (b32.signBits n + b32.infBits, 0)
  | .fin m e =>
    if m = 0 then (0, 0)
    else
      let neg := decide (m < 0)
      let q : Int := (bitLen m.natAbs : Int) - 24 + e
      let r := (roundTo 0 neg m.natAbs e false q).1
      let top : Int := (bitLen r : Int) - 1 + q
      if top ≥ 128 then (b32.signBits neg + b32.infBits, tTOVF)
      else if top < -126 then (0, tOFZ)
      else
        let f := if r = 2 ^ 24 then 2 ^ 23 else r
        (b32.signBits neg + (top + 127).toNat * 2 ^ 23 + (f - 2 ^ 23), 0)

/-- An integer operand (R162): `n` bits, signed, or unsigned less a zero point. -/
def intOperand (n : Nat) (sgn : Bool) (zp v : Nat) : Int :=
  if sgn then signed n v else (v % 2 ^ n : Nat) - (zp : Int)

/-- An integer accumulator after a step (R163). -/
def intAcc (acc p : Int) : Int × Nat :=
  if acc + p > 2147483647 then (2147483647, tASAT)
  else if acc + p < -2147483648 then (-2147483648, tASAT)
  else (acc + p, 0)

/-- Fields of descriptor word 0 (R154). -/
def amFmt (w0 : Word) : Nat := fld w0 30 2
def amPass (w0 : Word) : Nat := fld w0 28 2
def amNtan (w0 : Word) : Nat := fld w0 25 3
def amDepth (w0 : Word) : Nat := fld w0 0 16 + 1

/-- Cycles of one row step (R146): an INT4 row covers a pair of steps. -/
def amCost (w0 : Word) : Nat :=
  match amFmt w0 with
  | 0 => 1 + amNtan w0
  | 1 => 1
  | _ => match amPass w0 with
    | 1 => 1
    | 2 => 3
    | _ => 6

/-- The integer product, or pair sum, of a step's elements (R156, R162). -/
def intProduct (w0 w1 a b : Word) : Int :=
  let sa := w0.getLsbD 21
  let sb := w0.getLsbD 20
  let za := fld w1 24 8
  let zb := fld w1 16 8
  if amFmt w0 = 0 then intOperand 8 sa za a.toNat * intOperand 8 sb zb b.toNat
  else intOperand 4 sa za a.toNat * intOperand 4 sb zb b.toNat +
    intOperand 4 sa za (a.toNat / 16) * intOperand 4 sb zb (b.toNat / 16)

/-- The tangent operand of a binary32 value, read as its high 16 bits (R176). -/
def tangentOp (x : Word) : FOp × Nat := elemOp (x &&& 0xFFFF0000)

/-- One cell after one step (R156, R163, R168, R174). -/
def cellStep (w0 w1 : Word) (st : KStep) (i j : Nat) (c : Cell) : Cell × Nat :=
  let a := st.a.getD i 0
  let b := st.b.getD j 0
  if amFmt w0 = 2 then
    let (x, f1) := elemOp a
    let (y, f2) := elemOp b
    let (v, f3) := stepValue (amPass w0) x y
    let (r, f4) := accAdd c.fval v
    ({ c with fval := r }, Nat.lor (Nat.lor f1 f2) (Nat.lor f3 f4))
  else
    let (iv, f0) := intAcc c.ival (intProduct w0 w1 a b)
    let ai := intOperand 8 (w0.getLsbD 21) (fld w1 24 8) a.toNat
    let tan := fun (k : Nat) (t : FAcc) =>
      if k < amNtan w0 then
        let (y, f1) := tangentOp ((st.t.getD k []).getD j 0)
        let (v, f2) := tangentStep ai y
        let (r, f3) := accAdd t v
        (r, Nat.lor f1 (Nat.lor f2 f3))
      else (t, 0)
    let (t0, g0) := tan 0 c.t0
    let (t1, g1) := tan 1 c.t1
    let (t2, g2) := tan 2 c.t2
    let (t3, g3) := tan 3 c.t3
    ({ c with ival := iv, t0 := t0, t1 := t1, t2 := t2, t3 := t3 },
      Nat.lor f0 (Nat.lor (Nat.lor g0 g1) (Nat.lor g2 g3)))

/-- All cells of an array after one step: cell (i, j) at 16 i + j. -/
def arrStep (w0 w1 : Word) (a : Arr) (st : KStep) : Arr :=
  let rs := (List.range 256).map fun k => (k, cellStep w0 w1 st (k / 16) (k % 16) (FMap.get Cell.zero a.cells k))
  { a with cells := rs.filterMap fun r => if r.2.1 = Cell.zero then none else some (r.1, r.2.1)
           sticky := rs.foldl (fun f r => Nat.lor f r.2.2) a.sticky }

/-- The array as an AMM starts it (R159, R170): ACC at 0, or another class, starts from zero. -/
def arrStart (a : Arr) (w0 : Word) (acc : Bool) : Arr :=
  let flt := decide (amFmt w0 = 2)
  let mix := acc && (a.flt != flt || a.ntan != amNtan w0)
  if acc && !mix then a
  else { a with cells := [], flt := flt, ntan := amNtan w0, sticky := if mix then tMIX else 0 }

/-- The class (FLOAT, NTAN) the array has once every AMM in progress has started (R159). -/
def arrClass (a : Arr) : Bool × Nat :=
  match a.runs.getLast? with
  | some r => (decide (amFmt r.w0 = 2), amNtan r.w0)
  | none => (a.flt, a.ntan)

/-- The first `n` steps of one AMM applied. -/
def arrRun (a : Arr) (r : AmmRun) (n : Nat) : Arr :=
  if n = 0 then a
  else (r.steps.take n).foldl (arrStep r.w0 r.w1) (arrStart a r.w0 r.acc)

/-- Steps of an AMM whose first product cycle lies before cycle `t` (R157, R161). -/
def stepsBefore (r : AmmRun) (t : Nat) : Nat := (r.prods.filter fun x => decide (x.1 < t)).length

/-- The last product cycle of the steps that complete when the array stops in cycle `t`, if one does. -/
def lastProduct (a : Arr) (t : Nat) : Option Nat :=
  (a.runs.flatMap fun r => (r.prods.filter fun x => decide (x.1 < t)).map (·.2)).getLast?

/-- Every AMM in progress completed. -/
def arrSettle (a : Arr) : Arr := { a.runs.foldl (fun a r => arrRun a r r.steps.length) a with runs := [] }

/-- The command driving the array stops in cycle `t` (R161): steps begun complete, later ones and the rest of a drain do not run. With e the last
product cycle, the array takes its next command from e − 3 or the stop, and its accumulators are complete at e + 17. -/
def arrStop (a : Arr) (t : Nat) : Arr :=
  let b := a.runs.foldl (fun a r => arrRun a r (stepsBefore r t)) a
  match lastProduct a t with
  | some e => { b with runs := [], drain := none, free := max t (e - 3), accAt := e + 17 }
  | none => { b with runs := [], drain := none, free := t, accAt := a.accAt }

/-- The oldest AMM in progress completed. -/
def arrComplete (a : Arr) : Arr :=
  match a.runs with
  | [] => a
  | r :: rs => { arrRun a r r.steps.length with runs := rs }

/-- An accumulator of set 0 to 4 as AST writes it, with the flags of output conversion (R160, R169). -/
def cellOut (a : Arr) (set k : Nat) : Nat × Nat :=
  let c := FMap.get Cell.zero a.cells k
  match set with
  | 0 => if a.flt then accOut c.fval else (unsign 32 c.ival, 0)
  | 1 => accOut c.t0
  | 2 => accOut c.t1
  | 3 => accOut c.t2
  | _ => accOut c.t3

end Sys2Proof.Machine
end

