-- ==== Sys2Proof/Machine/Control.lean ====
section
/-! DEFINITION. Contexts, slots, commands and their ends: the shared operations of the schedule unit (R81 to R102, R112), and
the teardown of a context. -/

namespace Sys2Proof.Machine

/-! ## Sedge slot entries and class descriptors (R81, R88) -/

/-- A slot entry's fields. -/
structure Slot where
  v : Bool
  kind : Nat
  group : Nat
  repl : Bool
  atom : Bool
  nest : Bool
  unit : Nat
  jclass : Nat
  amask : Nat
  gstand : Bool
  batch : Bool
  start : Nat
  ilen : Nat
  len : Nat
  wlen : Nat
  entry : Nat
  subf : Nat
  subfAny : Bool
  first : Nat
  deriving DecidableEq, Repr

/-- A slot entry out of its four words. -/
def Slot.ofWords (w0 w1 w2 w3 : Word) : Slot :=
  { v := w0.getLsbD 31, kind := fld w0 28 3, group := fld w0 26 2, repl := w0.getLsbD 25, atom := w0.getLsbD 24,
    nest := w0.getLsbD 23, unit := fld w0 16 7, jclass := fld w0 10 6, amask := fld w0 2 8, gstand := w0.getLsbD 1,
    batch := w0.getLsbD 0, start := fld w1 12 20, ilen := fld w1 0 12, len := fld w2 12 20, wlen := fld w2 0 12,
    entry := fld w3 18 14, subf := fld w3 10 8, subfAny := w3.getLsbD 9, first := fld w3 1 8 }

/-- The words of slot i of an image. -/
def slotWords (img : Nat → Word) (i : Nat) : Slot := Slot.ofWords (img (4 * i)) (img (4 * i + 1)) (img (4 * i + 2)) (img (4 * i + 3))

/-- Slot i of partition p's active table. -/
def State.slot (s : State) (p i : Nat) : Slot := slotWords (fun w => s.rd (R.SCH_AIMG p w)) i

/-- Slot entries in use in the active table of partition p. -/
def State.nslot (s : State) (p : Nat) : Nat := fld (s.act (R.SCH_PCFG p)) 16 11

/-- Low word of the class descriptor of class c in the active table. -/
def State.classDesc (s : State) (p c : Nat) : Word := s.rd (R.SCH_AIMG p (4096 + 2 * c))

/-- Instance positions of a slot (R84). The spec gives a batch slot no count: every INDEX from FIRST on, the most that R94's mask and R105
allow (DESIGN CHOICE, log entry 94). -/
def Slot.count (t : Slot) : Nat := if t.batch || t.ilen == 0 then 256 - t.first else t.len / t.ilen

/-- Clusters of the active partition p. -/
def State.clustersOf (s : State) (p : Nat) : List Nat := (List.range 16).filter fun m => s.hasCluster p m

/-- The engine that a slot with REPL at 0 names (R82). An IDLE slot stands on core UNIT: R82 names its engine by UNIT as for SEQ, where R81's
row for UNIT says 0 (DESIGN CHOICE, log entry 95). -/
def Slot.engine (t : Slot) (p : Nat) : Option Engine :=
  match t.kind with
  | 0 | 5 => some (.seq t.unit)
  | 1 => some (.fen (t.unit / 8))
  | 2 => some (.dma t.unit)
  | 3 => some (.carr p)
  | _ => none

/-- The engines a slot of a table stands on, in a partition of some clusters (R82, R85, R312): its own, or every engine of its kind in the
partition, of a cluster's channels the one that UNIT names, but those with a single-engine slot of the same class, group and sub-frame. -/
def enginesOf (slots : List Slot) (clusters : List Nat) (p : Nat) (t : Slot) : List Engine :=
  if !t.repl then (t.engine p).toList
  else
    let own := slots.filterMap fun o =>
      if !o.repl && o.jclass == t.jclass && o.group == t.group && o.subf == t.subf then o.engine p else none
    let all := match t.kind with
      | 0 | 5 => clusters.flatMap fun m => (List.range 8).map fun k => Engine.seq (8 * m + k)
      | 1 => clusters.map .fen
      | 2 => clusters.map fun m => .dma (8 * m + t.unit % 8)
      | 3 => [.carr p]
      | _ => []
    all.filter fun e => !own.contains e

/-- The engines a slot of partition p's active table stands on. -/
def State.slotEngines (s : State) (p : Nat) (t : Slot) : List Engine :=
  enginesOf (if t.repl then (List.range (s.nslot p)).map (s.slot p) else []) (s.clustersOf p) p t

/-! ## Handles and context areas (R34, R89, R255, R256) -/

/-- Word w of entry h of partition p's active handle table. -/
def State.handle (s : State) (p h w : Nat) : Word := s.rd (R.SPD_AHND p (4 * h + w))

/-- Offset of a handle in its unit's window (R256), out of its first two words. -/
def handleOff (w0 w1 : Word) : Nat :=
  fld w0 12 4 * (if fld w0 26 1 = 0 then 0x10000 else 0x80000) + w1.toNat

/-- The home core of a context. -/
def State.home (s : State) (ctx : Nat) : Nat := s.field (R.SCH_RB ctx 7) 0 7

/-- INDEX of a context. -/
def State.ctxIndex (s : State) (ctx : Nat) : Nat := s.field (R.SCH_RB ctx 7) 16 8

/-- Bytes of a context area. -/
def State.ctxSize (s : State) (ctx : Nat) : Nat := s.field (R.SCH_RB ctx 7) 8 8 * 512

/-- The partition of a context: that of its home core. -/
def State.ctxPart (s : State) (ctx : Nat) : Option Nat := s.partOf (s.home ctx / 8)

/-- The context area address (R89): window of HOME, plus offset of handle CBH, plus INDEX × CSTRIDE × 512. -/
def State.ctxArea (s : State) (ctx : Nat) : Nat :=
  let p := (s.ctxPart ctx).getD 0
  let h := s.field (R.SCH_RB ctx 7) 24 8
  memBase (s.home ctx) + handleOff (s.handle p h 0) (s.handle p h 1) + s.ctxIndex ctx * s.ctxSize ctx

/-- The entry is active (R89). -/
def State.active (s : State) (ctx : Nat) : Bool := (s.rd (R.SCH_RB ctx 6)).getLsbD 31

/-- SAFEACT of a context (R89). -/
def State.safeact (s : State) (ctx : Nat) : Bool := (s.rd (R.SCH_RB ctx 6)).getLsbD 30

/-- The context is torn down and not active again (R101). -/
def State.isTorn (s : State) (ctx : Nat) : Bool := s.sch.torn.contains ctx

/-- Device address and length of the code handle of class c on core n (R88, R115); none without a code handle. -/
def State.codeOf (s : State) (p c n : Nat) : Option (Nat × Nat) :=
  let h := fld (s.classDesc p c) 0 8
  if h = 255 then none
  else
    let w0 := s.handle p h 0
    if w0.getLsbD 31 then some (memBase n + handleOff w0 (s.handle p h 1), (s.handle p h 2).toNat) else none

/-! ## Running commands -/

/-- The command that runs on an engine; paused commands of its group B classes stand beside it (R98). -/
def State.cmdOn (s : State) (e : Engine) : Option RunCmd := s.sch.running.find? fun r => r.eng == e && !r.paused

/-- A command put on its engine: the one that runs there, or this slot's paused one, gives way to it. -/
def State.addCmd (s : State) (r : RunCmd) : State :=
  let others := s.sch.running.filter fun x => x.eng != r.eng || (x.paused && !(x.part == r.part && x.slot == r.slot))
  { s with sch := { s.sch with running := others ++ [r] } }

/-- A command as it pauses: the cycles it held its engine are kept (R427). -/
def RunCmd.pause (r : RunCmd) (raw : Dword) : RunCmd :=
  { r with paused := true, held := r.held + cyclesBetween r.start raw }

/-- A paused command forgotten. -/
def State.forgetCmd (s : State) (r : RunCmd) : State :=
  { s with sch := { s.sch with running := s.sch.running.filter (fun x => x != r) } }

/-- The number of an engine, for tables. -/
def engKey : Engine → Nat
  | .seq n => n
  | .fen m => 128 + m
  | .dma k => 256 + k
  | .carr p => 512 + p

/-- The number of a class's engine in the argument of ESCALATE (R426): a core, or 0x80 + cluster. -/
def engEsc : Engine → Nat
  | .seq n => n
  | .fen m => 0x80 + m
  | _ => 0

/-- A DMA channel, cluster × 8 + channel; unlisted channels at reset. -/
def State.dmaOf (s : State) (k : Nat) : DmaChan := FMap.get DmaChan.reset s.dma k

/-- The channel replaced. -/
def State.setDma (s : State) (k : Nat) (c : DmaChan) : State := { s with dma := FMap.set DmaChan.reset s.dma k c }

/-- A WAIT of channel k on its way to its object is forgotten. -/
def State.dropWait (s : State) (k : Nat) : State :=
  { s with syncOps := s.syncOps.filter fun o => match o.kind with
      | .waitDma c _ => c != k
      | _ => true }

/-- The parts of a transfer that are in flight: asked for, or read. -/
def DmaChan.inAir (c : DmaChan) : List DmaSeg := c.segs.filter fun g => g.tag.isSome || g.data.isSome

/-- The parts of a transfer whose bytes have been read, which are written whatever becomes of the chain (R316, R318). -/
def DmaChan.read (c : DmaChan) : List DmaSeg := c.segs.filter fun g => g.data.isSome

/-- The channel becomes idle and its command leaves it. -/
def State.dmaIdle (s : State) (k : Nat) : State :=
  let c := s.dmaOf k
  ((s.setDma k { c with
    st := .idle, go := none, desc := none, segs := c.read, waits := none, ending := false, issued := false, ctx := none, slot := none,
    host := false }).dropWait k).dropCmd (.dma k)

/-- A chain started on idle channel k at a descriptor (R312): the host's chains are variable. -/
def State.dmaStart (s : State) (k didx : Nat) (host : Bool) (ctx : Option Nat) (part : Nat) (slot : Option Nat) : State :=
  (s.setDma k { DmaChan.reset with
    st := .run, didx := didx, count := 1, var := host, host := host, ctx := ctx, part := part, slot := slot
    segs := (s.dmaOf k).read, cause := (s.dmaOf k).cause, raw := s.tb.raw }).wr (R.DMA_CHDONE (k / 8) (k % 8)) 0

/-- The chain ends early (R316): no further request; idle once nothing is in flight. -/
def State.dmaEnd (s : State) (k : Nat) : State :=
  let c := s.dmaOf k
  if c.st = .idle ∨ c.st = .halt then s
  else
    if c.inAir.isEmpty then s.dmaIdle k
    else ((s.setDma k { c with ending := true, segs := c.inAir, waits := none }).dropWait k).dropCmd (.dma k)

/-- The cycle of a core's issue clock that is now. -/
def State.coreNow (s : State) (n : Nat) : Nat := cyclesBetween (s.core n).begRaw s.rawNow

/-- All arrays of core n stop where its command stops (R161): now, or in the cycle of its last issue if that is later. -/
def State.stopArrays (s : State) (n : Nat) : State :=
  s.modCore n fun c => { c with arrs := (c.arrs.map fun a => (a.1, arrStop a.2 (max c.issAt (s.coreNow n)))).filter fun a => a.2 != Arr.reset }

/-- A WAIT of core n still on its way to its object is gone. -/
def State.dropWaits (s : State) (n : Nat) : State :=
  { s with syncOps := s.syncOps.filter fun o =>
      match o.kind with
      | .waitSeq m _ => m != n
      | _ => true }

/-- The sequencer command on core n stops: its arrays stop, its open layer closes with LAYER 0xFF when it holds a word (R375),
its latch clears (R284), and what was in flight is gone. -/
def State.stopSeq (s : State) (n : Nat) : State :=
  let s := (s.stopArrays n).closeS n 0xFF false false
  let s := s.dropWaits n
  (s.modCore n fun c => { c with
    run := false, ended := false, tileEnd := false, tileAt := none, poison := false, waitOn := none, waitMet := false,
    inTrap := false, loops := [], late := [], snaps := [], claims := [], merge := none, dS := none }).dropCmd (.seq n)

/-- The running command of an engine marked paused (R98). -/
def State.pauseCmd (s : State) (e : Engine) : State :=
  match s.cmdOn e with
  | some r => (s.dropCmd e).addCmd (r.pause s.tb.raw)
  | none => s

/-- PRIV_KILL: counted, flagged and logged (R98, R113). -/
def State.privKill (s : State) (r : RunCmd) : State :=
  ((s.bump R.SCH_KILLCNT).setBits R.SCH_FLAGS 8).event 0x0306 (w32 (r.part * 2 ^ 24 + r.jclass * 2 ^ 16 + r.kind * 2 ^ 12)) none

/-- CMD_CUT: counted, flagged and logged (R98, R113). -/
def State.cmdCut (s : State) (r : RunCmd) : State :=
  ((s.bump R.SCH_CUTCNT).setBits R.SCH_FLAGS 4).event 0x0305 (w32 (r.ctx.getD 0 + r.kind * 2 ^ 12)) r.ctx

/-- A killed Carr output commit (R356): no frame, counted and logged with its template. -/
def State.commitLate (s : State) (r : RunCmd) : State :=
  (s.bump R.CARR_COMLATE).event 0x0C03 (w32 (r.ctx.getD 0 + (s.slot r.part r.slot).entry % 64 * 2 ^ 16)) r.ctx

/-- The command stops on its engine, with nothing counted. -/
def State.stopCmd (s : State) (r : RunCmd) : State :=
  match r.eng with
  | .seq n => s.stopSeq n
  | .dma k => s.dmaEnd k
  | .fen _ => s.dropCmd r.eng
  | .carr _ => s.dropCmd r.eng

/-- The ends of a command's scope (R98). -/
inductive ScopeEnd where
  /-- A true anchor of the group, or for group B of a group on its engine (R68, R100). -/
  | anchor
  /-- A teardown of its context, which has SAFEACT or not (R101). -/
  | teardown (safe : Bool)
  /-- A table change that removes it. -/
  | table
  /-- A spill that displaces its buffers, or the end of its position or slot. -/
  | other
  deriving DecidableEq, Repr

/-- A teardown. -/
def ScopeEnd.td : ScopeEnd → Bool
  | .teardown _ => true
  | _ => false

/-- The command goes on past this end: an atomic one past a true anchor, and with it past a table change at that anchor unless it is
privileged (R68, R97); a variable chain past all but a teardown and a table change (R316). -/
def State.outlives (s : State) (r : RunCmd) (e : ScopeEnd) : Bool :=
  let priv := decide (r.kind = 1 ∨ r.kind = 3)
  (r.atomic && e == .anchor && (decide (r.group ≠ 3) || priv)) || (r.atomic && e == .table && decide (r.group ≠ 3) && !priv) ||
  (decide (r.kind = 2) && !e.td && e != .table && (match r.eng with
    | .dma k => (s.dmaOf k).var
    | _ => false))

/-- A command whose scope ends (R97, R98). -/
def State.endCmd (s : State) (r : RunCmd) (e : ScopeEnd) : State :=
  let priv := decide (r.kind = 1 ∨ r.kind = 3)
  let td := e.td
  if r.paused then (if td then s.forgetCmd r else s)
  else if s.outlives r e then s
  else if priv then
    let s := s.privKill r
    match r.eng with
    | .fen m =>
      if td then s.fenKill m (e == .teardown true)
      else
        -- a killed command commits nothing; one of group B reruns (R233)
        let s := s.modFen m fun e => { e with run := false, poison := false, pgOf := e.pgSav }
        let s := if r.group = 3 then s.pauseCmd r.eng else s.dropCmd r.eng
        s.fenShow m
    | .carr _ => if r.group = 3 && !td then s.pauseCmd r.eng else (s.commitLate r).dropCmd r.eng
    | _ => s.dropCmd r.eng
  else if r.group = 3 && !td then (s.stopCmd r).addCmd (r.pause s.tb.raw)
  else if r.atomic || r.group = 3 then s.stopCmd r
  else (s.stopCmd r).cmdCut r

/-! ## Teardown (R101, R102) -/

/-- The enabled jobs of a context. -/
def State.jobsOf (s : State) (ctx : Nat) : List Nat := (List.range 4).filter fun j => (s.rd (R.SCH_RB ctx (10 + j))).getLsbD 31

/-- The contexts whose areas the positions of a slot stand for, among those whose home core satisfies `here`: they hold an enabled job of the slot's class and group, and their INDEX is that of a position (R84). -/
def State.slotCtxs (s : State) (t : Slot) (here : Nat → Bool) : List Nat :=
  s.regs.filterMap fun (r : Nat × Word) =>
    let x := (r.1 - R.SCH_RB 0 7) / 64
    if R.SCH_RB 0 7 ≤ r.1 ∧ (r.1 - R.SCH_RB 0 7) % 64 = 0 ∧ x < 4096 ∧ here (s.home x) ∧ t.first ≤ s.ctxIndex x ∧
        s.ctxIndex x < t.first + t.count ∧
        ((s.jobsOf x).any fun j => s.jobGroup x j == t.group && fld (s.rd (R.SCH_RB x (10 + j))) 23 6 == t.jclass) then some x
    else none

/-- TDOWN records of every enabled job (R379). -/
def State.tdownRecs (s : State) (ctx cause : Nat) : State :=
  let p := (s.ctxPart ctx).getD 0
  forEach (s.jobsOf ctx) s fun s j =>
    let s := s.closeRec { kind := 4, poison := false, batch := false, job := j, layer := 0, part := p, ctx := ctx, ord := 0, nrec := 0,
                          step := s.jobStep p (s.jobGroup ctx j) ctx j, digest := 0, extra := w64 cause }
    s.newStep ctx j

/-- A context taken off the work lists of the current frames, but, where `safe` says that it has SAFEACT, off none of FEN and CARR slots
(R101, R102). -/
def State.dropWork (s : State) (ctx : Nat) (safe : Bool) : State :=
  let keep := fun (k : Nat) => safe && (let d := (s.slot (k / 1024) (k % 1024)).kind; decide (d = 1 ∨ d = 3))
  { s with sch := { s.sch with
      work := (s.sch.work.map fun (c : Nat × List (Nat × Nat)) =>
        if keep c.1 then c else (c.1, c.2.filter fun x => x.1 != ctx)).filter fun c => !c.2.isEmpty } }

/-- The batches that run on the context's home core suppress its writes from now on (R84). -/
def State.tearBatch (s : State) (ctx : Nat) : State :=
  let n := s.home ctx
  if (s.core n).run && (s.core n).batch then s.modCore n fun c => { c with tornIn := c.tornIn ++ [ctx] } else s

/-- A context is torn down with a cause of R113 (R101). -/
def State.teardown (s : State) (ctx cause : Nat) : State :=
  if s.isTorn ctx then s
  else
    let safe := s.safeact ctx
    let s := (s.tearBatch ctx).dropWork ctx safe
    let s := s.clrBits (R.SCH_RB ctx 6) (bitMask 31)
    let s := (s.setField (R.SCH_RB ctx 8) 16 8 cause).setField (R.SCH_RB ctx 8) 0 16 (satTo 65535 (s.field (R.SCH_RB ctx 8) 0 16))
    let s := { s with sch := { s.sch with torn := s.sch.torn ++ [ctx] } }
    let s := ((s.bump R.SCH_TDCNT).setBits R.SCH_FLAGS 2).event 0x0303 (w32 (ctx + cause * 2 ^ 16)) (some ctx)
    let s := forEach (s.sch.running.filter fun r => r.ctx == some ctx) s fun s r => s.endCmd r (.teardown safe)
    let s := forEach ((List.range 128).filter fun k => (s.dmaOf k).ctx == some ctx) s fun s k => s.dmaEnd k
    let s := s.tdownRecs ctx cause
    if cause = 6 then s else s.escFail 2 ctx 0 cause

/-- The current layers of a context marked poisoned (R285): that of the core that runs it, and that of its Fennel command. -/
def State.poisonLayers (s : State) (ctx : Nat) : State :=
  let mark := Option.map fun (d : Digest) => { d with poison := true }
  let fens := (List.range s.nClusters).filter fun m => (s.fenOf m).run && (s.fenOf m).ctx == some ctx
  { s with cores := s.cores.map fun (x : Nat × Core) =>
      (x.1, { x.2 with
        dS := if x.2.ctx == some ctx then mark x.2.dS else x.2.dS
        dF := if fens.any fun m => (s.fenOf m).core m == x.1 then mark x.2.dF else x.2.dF }) }

/-- A teardown that an uncorrectable read causes marks the context's current layers (R285). -/
def State.teardownUe (s : State) (ctx cause : Nat) : State := (s.poisonLayers ctx).teardown ctx cause

/-! ## Slowdown (R112) -/

/-- A group B command of a class completed in `measured` cycles, compiled at `compiled`. -/
def State.slowDone (s : State) (p c measured compiled : Nat) : State :=
  let k := p * 64 + c
  let o := FMap.get ⟨[], false⟩ s.sch.slow k
  let runs := (o.runs ++ [(measured, compiled)]).drop ((o.runs.length + 1) - 16)
  let ms := (runs.map (·.1)).sum
  let cs := (runs.map (·.2)).sum
  let ratio := if cs = 0 then 0xFFFF else min (ms * 256 / cs) 0xFFFF
  let thr := fld (s.act (R.SCH_MODE p)) 16 16
  let s := s.wr (R.SCH_SLOW p c) (w32 (satTo 65535 (s.field (R.SCH_SLOW p c) 16 16) * 2 ^ 16 + ratio))
  let put := fun (s : State) (l : Bool) => { s with sch := { s.sch with slow := FMap.set ⟨[], false⟩ s.sch.slow k ⟨runs, l⟩ } }
  if ratio > thr then
    if o.logged then put s true
    else (put (s.setBits R.SCH_FLAGS 32) true).event 0x0308 (w32 (p * 2 ^ 24 + c * 2 ^ 16 + ratio)) none
  else put s (o.logged && decide (ratio = thr))

/-- The manifest's tiles of a group B class of partition p. -/
def State.tilesOf (s : State) (p c : Nat) : List (Nat × Nat) :=
  match FMap.find s.sch.actMan p with
  | some m => ((m.groupB.find? fun g => g.jclass == c).map ManifestClass.tiles).getD []
  | none => []

/-- The compiled length of a command of a slot (R104). -/
def State.cmdLen (s : State) (p slot : Nat) : Nat :=
  match FMap.find s.sch.actMan p with
  | some m => (m.slots.getD slot ⟨0, 0⟩).len
  | none => 0

/-- The compiled length that the manifest gives for a command (R104, R112, R427): of a tiled one the sum of its tiles. -/
def State.compiledLen (s : State) (r : RunCmd) : Nat :=
  if r.group = 3 ∧ r.kind = 0 ∧ !r.atomic then ((s.tilesOf r.part r.jclass).map (·.2)).sum else s.cmdLen r.part r.slot

/-- A command has completed: its engine's class has succeeded (R426), and a group B command reports its slowdown. -/
def State.completeCmd (s : State) (r : RunCmd) : State :=
  let s := if r.kind = 0 ∨ r.kind = 1 then s.escOk 1 r.jclass (engEsc r.eng) else s
  let s := if r.group = 3 then
      s.slowDone r.part r.jclass (cyclesBetween r.raw s.tb.raw) (s.compiledLen r)
    else s
  s.dropCmd r.eng

end Sys2Proof.Machine
end

