-- ==== Sys2Proof/Machine/NetOps.lean ====
section
/-! DEFINITION. The network block's shared operations: Carr frames, queues, answers, the violation log, the parse table, the host
receive ring, and the frames of the mirror link (R325 to R344, R349 to R354, R360, R364 to R366, R370). -/

namespace Sys2Proof.Machine

/-! ## Bytes in network order -/

/-- `n` bytes of a number, most significant first (R336). -/
def beBytes (n v : Nat) : List Byte := (leBytes n v).reverse

/-- The number that bytes spell, most significant first. -/
def ofBe (bs : List Byte) : Nat := ofLe bs.reverse

/-- The field of `n` bytes at offset `o`, most significant first. -/
def beAt (b : List Byte) (o n : Nat) : Nat := ofBe (slice b o n)

/-- The list extended with zero bytes to length `n`. -/
def padTo (n : Nat) (b : List Byte) : List Byte := b ++ List.replicate (n - b.length) 0

/-- One bit of the reflected CRC-32C (R337). -/
def crc32Bit (c : Word) : Word := if c.getLsbD 0 then (c >>> 1) ^^^ 0x82F63B78 else c >>> 1

/-- One byte of CRC-32C. -/
def crc32Byte (c : Word) (b : Byte) : Word :=
  crc32Bit (crc32Bit (crc32Bit (crc32Bit (crc32Bit (crc32Bit (crc32Bit (crc32Bit (c ^^^ w32 b.toNat))))))))

/-- CRC-32C of bytes (R337). -/
def crc32c (bs : List Byte) : Word := bs.foldl crc32Byte 0xFFFFFFFF ^^^ 0xFFFFFFFF

/-! ## Carr frames (R336) -/

/-- The fields of a Carr frame. -/
structure Carr where
  ver     : Nat
  typ     : Nat
  flags   : Nat
  seq     : Word
  ctx     : Nat
  len     : Nat
  step    : Dword
  ts      : Word
  payload : List Byte
  crc     : Word
  deriving DecidableEq, Repr

/-- The fields out of the bytes after the EtherType; bytes that are missing read as zero. -/
def Carr.parse (body : List Byte) : Carr :=
  let b := padTo 28 body
  let len := beAt b 10 2
  { ver := beAt b 0 1, typ := beAt b 1 1, flags := beAt b 2 2, seq := w32 (beAt b 4 4), ctx := beAt b 8 2 % 4096, len := len
    step := w64 (beAt b 12 8), ts := w32 (beAt b 20 4), payload := slice b 24 len, crc := w32 (leAt b (24 + len) 4) }

/-- The bytes of a Carr frame after its EtherType; LEN and the CRC follow from the payload. -/
def carrBytes (ver typ flags : Nat) (seq : Word) (ctx : Nat) (step : Dword) (ts : Word) (payload : List Byte) : List Byte :=
  beBytes 1 ver ++ beBytes 1 typ ++ beBytes 2 flags ++ beBytes 4 seq.toNat ++ beBytes 2 ctx ++ beBytes 2 payload.length ++
    beBytes 8 step.toNat ++ beBytes 4 ts.toNat ++ payload ++ leBytes 4 (crc32c payload).toNat

/-- FLAGS bits. -/
def flagRESP : Nat := 0x8000
def flagSTALE : Nat := 0x4000
def flagSAFE : Nat := 0x2000
def flagFRAG : Nat := 0x1000

/-- A frame from its destination to before its FCS, padded to the least length. -/
def ethBytes (dst src : BitVec 48) (tci : Option (BitVec 16)) (etype : Nat) (body : List Byte) : List Byte :=
  padTo 60 (beBytes 6 dst.toNat ++ beBytes 6 src.toNat ++
    (match tci with
      | some t => [0x81, 0x00] ++ beBytes 2 t.toNat
      | none => []) ++ beBytes 2 etype ++ body)

/-- The Carr EtherType. -/
def State.etype (s : State) : Nat := fld (s.act R.CARR_CFG) 16 16

/-- The address of port k. -/
def State.mac (s : State) (k : Nat) : BitVec 48 := BitVec.ofNat 48 (s.act64 (R.ETH_MAC k)).toNat

/-- A word's low 48 bits as an address. -/
def mac48 (d : Dword) : BitVec 48 := BitVec.ofNat 48 d.toNat

/-! ## Ports and launch queues (R332) -/

/-- Port k. -/
def State.port (s : State) (k : Nat) : Port := FMap.get Port.reset s.net.ports k

/-- Port k replaced. -/
def State.setPort (s : State) (k : Nat) (p : Port) : State :=
  { s with net := { s.net with ports := FMap.set Port.reset s.net.ports k p } }

/-- Port k (4 + lane for the mirror link) is powered (R479): all in RUN, ports 0 and 1 in FENCED, none in QUIESCE. -/
def State.netOn (s : State) (k : Nat) : Bool :=
  match s.boot.power with
  | .run => !s.boot.fenced || decide (k < 2)
  | .fenced => decide (k < 2)
  | .quiesce => false

/-- The link of port k is up. -/
def State.linkUp (s : State) (k : Nat) : Bool := (s.rd (R.ETH_STATUS k)).getLsbD 30

/-- The frames in queue q of a port. -/
def Port.queue (p : Port) (q : Nat) : List TxFrame := FMap.get [] p.queues q

/-- Queue q replaced. -/
def Port.setQueue (p : Port) (q : Nat) (l : List TxFrame) : Port := { p with queues := FMap.set [] p.queues q l }

/-- What became of a frame offered to a queue: the state, and 0, 2 when the queue is full, or 4 when the link is down (R360). -/
structure Offered where
  st   : State
  code : Nat

/-- A frame offered to queue q of port k: dropped and counted when the link is down or the queue holds 16 (R332). -/
def State.offer (s : State) (k q : Nat) (f : TxFrame) : Offered :=
  let p := s.port k
  if !s.linkUp k then ⟨s.bump (R.ETH_TXDROP k), 4⟩
  else if (p.queue q).length ≥ 16 then ⟨s.bump (R.ETH_TXDROP k), 2⟩
  else ⟨s.setPort k (p.setQueue q (p.queue q ++ [f])), 0⟩

/-- Answers that wait, of all ports (R352). -/
def State.answersWaiting (s : State) : Nat := (s.net.ports.map fun (p : Nat × Port) => p.2.answers.length).sum

/-- Waiting answers of port k moved into queue 1 while it has room. -/
def State.feedAnswers (s : State) (k : Nat) : State :=
  let p := s.port k
  let n := 16 - (p.queue 1).length
  s.setPort k { p.setQueue 1 (p.queue 1 ++ p.answers.take n) with answers := p.answers.drop n }

/-- An answer for port k: into queue 1, or the answer queue of 16; one that finds both full is dropped, a NAK counted in CARR_NAKDROP
(R352). -/
def State.answer (s : State) (k : Nat) (f : TxFrame) (nak : Bool) : State :=
  if !s.linkUp k then s.bump (R.ETH_TXDROP k)
  else if ((s.port k).queue 1).length < 16 then (s.offer k 1 f).st
  else if s.answersWaiting < 16 then s.setPort k { s.port k with answers := (s.port k).answers ++ [f] }
  else if nak then s.bump R.CARR_NAKDROP
  else s.bump (R.ETH_TXDROP k)

/-! ## The mirror link (R364 to R366) -/

/-- Lane k is up. -/
def State.laneUp (s : State) (k : Nat) : Bool := (s.rd R.MIR_STAT).getLsbD (26 + k)

/-- The lane of a class: H on lane 0 and F on lane 1 while both are up, else the one that is up (R366). -/
def State.laneFor (s : State) (classH : Bool) : Option Nat :=
  match s.laneUp 0, s.laneUp 1 with
  | true, true => some (if classH then 0 else 1)
  | true, false => some 0
  | false, true => some 1
  | false, false => none

/-- The version on the mirror link: the negotiated one, or 3 before. -/
def State.mirVer (s : State) : Nat := if s.field R.MIR_STAT 8 8 = 0 then 3 else s.field R.MIR_STAT 8 8

/-- A Carr frame sent on a lane. -/
def State.laneSend (s : State) (lane ver typ flags : Nat) (seq : Word) (step : Dword) (payload : List Byte) : State :=
  s.emit (.frame (4 + lane)
    (ethBytes Config.partnerMac (s.mac 0) none s.etype (carrBytes ver typ flags seq 0 step s.stamp payload)))

/-- The SEQ of the next MIRROR frame of a lane and subtype. -/
def State.mirSeq (s : State) (lane sub : Nat) : Word := FMap.get 0 s.pair.txSeq (lane * 8 + sub) + 1

/-- A MIRROR frame of a subtype sent on a lane: its subheader and items (R370). -/
def State.mirSend (s : State) (lane sub count off flags : Nat) (items : List Byte) : State :=
  let seq := s.mirSeq lane sub
  let s := { s with pair := { s.pair with txSeq := FMap.set 0 s.pair.txSeq (lane * 8 + sub) seq } }
  s.laneSend lane s.mirVer 0x0A flags seq 0 (beBytes 1 sub ++ beBytes 1 count ++ beBytes 2 off ++ items)

/-! ## Answers (R338, R350, R352) -/

/-- A frame's VLAN tag as it leaves: the queue's PCP is set at launch. -/
def txFrame (bytes : List Byte) (tagged : Bool) (launch : Option Word) : TxFrame := ⟨bytes, tagged, launch, none⟩

/-- An answer of a type to who asked: SEQ copied, RESP set, STEP 0, the stamp of this cycle. -/
def State.reply (s : State) (w : Asker) (typ flags : Nat) (payload : List Byte) : State × TxFrame :=
  let ver := if w.ver ≤ 2 then 2 else 3
  (s, txFrame (ethBytes w.mac (s.mac w.port) w.tci s.etype
    (carrBytes ver typ (Nat.lor flagRESP flags) w.seq 0 0 s.stamp payload)) w.tci.isSome none)

/-- An answer sent: through the port's queue, or on the class F lane of the mirror link. -/
def State.sendAnswer (s : State) (w : Asker) (typ flags : Nat) (payload : List Byte) (nak : Bool) : State :=
  if w.port < 4 then s.answer w.port (s.reply w typ flags payload).2 nak
  else match s.laneFor false with
    | some l => s.laneSend l (if w.ver ≤ 2 then 2 else 3) typ (Nat.lor flagRESP flags) w.seq 0 payload
    | none => s

/-- An answer to who asked finds room: in its port's queue or the answer queue, or on a lane. -/
def State.answerFits (s : State) (w : Asker) : Bool :=
  if w.port < 4 then
    s.linkUp w.port && (decide (((s.port w.port).queue 1).length < 16) || decide (s.answersWaiting < 16))
  else (s.laneFor false).isSome

/-- A NAK sent, at most one to an address in 10 µs, which begin when one has found room (R352). -/
def State.nakOnce (s : State) (w : Asker) (send : State → State) : State :=
  let key := w.mac.toNat
  let recent := match FMap.find s.net.nakAt key with
    | some t => decide ((s.tb.raw - t).toNat < 10000)
    | none => false
  if recent then s.bump R.CARR_NAKDROP
  else if !s.answerFits w then send s
  else
    let old := s.net.nakAt.filter fun (c : Nat × Dword) => decide ((s.tb.raw - c.2).toNat < 10000)
    send { s with net := { s.net with nakAt := FMap.upd old key (some s.tb.raw) } }

/-- A NAK with its code and detail. -/
def State.nak (s : State) (w : Asker) (code detail : Nat) : State :=
  s.nakOnce w fun s => s.sendAnswer w 0x06 0 (beBytes 1 code ++ [0] ++ beBytes 2 detail) true

/-! ## Violations (R353, R354) -/

/-- A violation of case k: counted, recorded, flagged, and logged when its flag was clear. `src` is 0 to 3, or 4 for the mirror
link; entry 0x1FF is none. -/
def State.viol (s : State) (k src entry : Nat) (h : Carr) (stamp : Word) : State :=
  let src := min src 4
  let i := (s.rd R.CARR_VLOGCNT).toNat % 16
  let s := s.bump (R.CARR_VCNT k)
  let s := s.wr (R.CARR_VLOG i 0) (w32 (k * 2 ^ 28 + src * 2 ^ 25 + entry * 2 ^ 16 + h.ctx))
  let s := s.wr (R.CARR_VLOG i 1) h.seq
  let s := s.wr (R.CARR_VLOG i 2) (w32 (h.typ * 2 ^ 24 + h.ver * 2 ^ 16 + h.len))
  let s := s.wr (R.CARR_VLOG i 3) stamp
  let s := s.wr R.CARR_VLOGCNT (s.rd R.CARR_VLOGCNT + 1)
  if (s.rd R.CARR_VFLAGS).getLsbD k then s
  else (s.setBits R.CARR_VFLAGS (bitMask k)).event 0x0C01 (w32 (k * 2 ^ 28 + src * 2 ^ 25 + h.ctx)) (some h.ctx)

/-! ## Reception (R326 to R329, R342) -/

/-- The raw receive stamp of a frame (R328). -/
def State.rxRaw (s : State) (r : RxFrame) : Dword :=
  if r.port < 4 then r.raw - BitVec.ofInt 64 (signed 16 (fld (s.act (R.ETH_TSC r.port)) 16 16)) else r.raw

/-- The 32-bit stamp of a raw stamp (R329). -/
def State.stampOf (s : State) (raw : Dword) : Word := lo32 (timeAt (s.act64 R.TB_RATE) (s.act64 R.TB_OFFSET) raw)

/-- The VID a frame is taken to have. -/
def State.vidOf (s : State) (r : RxFrame) : Nat :=
  match r.frame.tci with
  | some t => t.toNat % 4096
  | none => fld (s.act (R.ETH_CFG r.port)) 0 12

/-- The destination passes the address filter of port k. -/
def State.dstOk (s : State) (k : Nat) (d : BitVec 48) : Bool :=
  d == s.mac k || ((s.act (R.ETH_CFG k)).getLsbD 28 && d == 0xFFFFFFFFFFFF) ||
    (List.range 16).any fun i =>
      let m := s.act64 (R.ETH_MC k i)
      m.getLsbD 63 && mac48 m == d

/-- The frame passes the VLAN filter of its port. -/
def State.vlanOk (s : State) (r : RxFrame) : Bool :=
  !r.frame.badTag &&
  match r.frame.tci with
  | none => (s.act (R.ETH_CFG r.port)).getLsbD 27
  | some t => (List.range 16).any fun i =>
      let v := s.act (R.ETH_VID r.port i)
      v.getLsbD 31 && fld v 0 12 == t.toNat % 4096

/-- The length lies in the range of R325. -/
def lenOk (f : EthFrame) : Bool := decide (64 ≤ f.len) && decide (f.len ≤ if f.tci.isSome then 1522 else 1518)

/-- The whole frame without FCS, as it came. -/
def frameBytes (f : EthFrame) : List Byte :=
  (beBytes 6 f.dst.toNat ++ beBytes 6 f.src.toNat ++
    (match f.tci with
      | some t => [0x81, 0x00] ++ beBytes 2 t.toNat
      | none => []) ++ beBytes 2 f.etype.toNat ++ f.body)

/-- Bytes of port k's receive buffer in use: frames for the host ring and payloads in placement. -/
def State.rxHeld (s : State) (k : Nat) : Nat :=
  ((s.net.rxWait.filter fun x => x.port == k).map fun x => x.bytes.length).sum +
    ((s.net.placing.filter fun x => x.port == k).map fun x => x.payload.length).sum

/-- Whether a frame is accepted, with what its rejection counts (R326). -/
structure Accept where
  st : State
  ok : Bool

/-- A frame at its port, after the filters of R326, or at its lane (R364). -/
def State.accept (s : State) (r : RxFrame) : Accept :=
  let k := r.port
  if 4 ≤ k then
    if !s.laneUp (k - 4) ∨ 6 ≤ k then ⟨s, false⟩
    else if !r.frame.fcsOk then ⟨s.bump (R.MIR_LERR (k - 4)), false⟩
    else ⟨s, decide (r.frame.len ≤ 1518) && r.frame.etype.toNat == s.etype⟩
  else if !s.linkUp k then ⟨s, false⟩
  else if !r.frame.fcsOk then ⟨s.bump (R.ETH_RXFCS k), false⟩
  else if !lenOk r.frame then ⟨s.bump (R.ETH_RXSIZE k), false⟩
  else if r.frame.etype = 0x8808 then ⟨s.bump (R.ETH_RXPAUSE k), false⟩
  else if !(s.dstOk k r.frame.dst && s.vlanOk r) then ⟨s.bump (R.ETH_RXFILT k), false⟩
  else if s.rxHeld k + r.frame.len > 65536 then ⟨(s.bump (R.ETH_RXOVF k)).setBits (R.ETH_FLAGS k) 4, false⟩
  else ⟨s.bump (R.ETH_RXFRM k), true⟩

/-- Types that a path receives (R338, R365); on the mirror link a WR is known, to be answered UNMAPPED (R369). -/
def carrKnown (mirror : Bool) (typ : Nat) : Bool :=
  if mirror then [0x03, 0x04, 0x05, 0x06, 0x08, 0x0A].contains typ else [0x01, 0x03, 0x04, 0x05, 0x06, 0x07, 0x08, 0x09].contains typ

/-- The first of checks 1 to 3 that fails (R342). -/
def carrGate (mirror : Bool) (h : Carr) (blen : Nat) : Option Nat :=
  if blen < 28 ∨ h.len > 1472 ∨ blen < 28 + h.len then some 0
  else if h.typ ≠ 0x08 ∧ h.ver ≠ 3 ∧ h.ver ≠ 2 then some 2
  else if !carrKnown mirror h.typ then some 1
  else none

/-- The NAK code and detail of a case (R350, R353). -/
def nakOf (case_ : Nat) (h : Carr) (off : Nat) : Nat × Nat :=
  match case_ with
  | 0 => (0x01, h.len)
  | 1 => (0x02, h.typ)
  | 2 => (0x03, 0x0203)
  | 3 => (0x07, 0)
  | 9 => (0x04, 1024)
  | 10 => (0x05, 0)
  | 11 => (0x06, off)
  | _ => (0x08, 0)

/-- Who sent a frame. -/
def askerOf (r : RxFrame) (h : Carr) : Asker := ⟨r.port, r.frame.src, r.frame.tci, h.ver, h.seq⟩

/-- A frame refused with a case: recorded, and answered with a NAK unless it is a MEAS, an answer, or a MIRROR frame on
its link (R338, R352, R353). -/
def State.refuse (s : State) (r : RxFrame) (h : Carr) (case_ entry off : Nat) : State :=
  let s := s.viol case_ r.port entry h (s.stampOf (s.rxRaw r))
  if h.typ = 0x01 ∨ h.typ = 0x05 ∨ h.typ = 0x06 ∨ (h.typ = 0x0A ∧ 4 ≤ r.port) then s
  else s.nak (askerOf r h) (nakOf case_ h off).1 (nakOf case_ h off).2

/-! ## The parse table (R339, R340) -/

/-- A parse entry. -/
structure PEntry where
  en : Bool
  ports : Nat
  act : Nat
  typ : Nat
  ctxlo : Nat
  ctxhi : Nat
  job : Bool
  subst : Bool
  vid : Nat
  smac : BitVec 48
  smany : Bool
  w4 : Word
  w5 : Word
  w6 : Word
  deriving DecidableEq, Repr

/-- An entry out of its words. -/
def PEntry.ofWords (w : Nat → Word) : PEntry :=
  { en := (w 0).getLsbD 31, ports := fld (w 0) 27 4, act := fld (w 0) 24 3, typ := fld (w 0) 16 8, ctxlo := fld (w 0) 0 12
    ctxhi := fld (w 1) 16 12, job := (w 1).getLsbD 15, subst := (w 1).getLsbD 14, vid := fld (w 1) 0 12
    smac := BitVec.ofNat 48 (fld (w 3) 0 16 * 2 ^ 32 + (w 2).toNat), smany := (w 3).getLsbD 31, w4 := w 4, w5 := w 5, w6 := w 6 }

/-- Active entry i. -/
def State.pentry (s : State) (i : Nat) : PEntry := PEntry.ofWords fun k => s.act (R.CARR_PARSE i k)

def PEntry.ioff (e : PEntry) : Nat := fld e.w4 16 16
def PEntry.hlen (e : PEntry) : Nat := fld e.w4 0 16
def PEntry.maxlen (e : PEntry) : Nat := fld e.w5 16 16
def PEntry.maxage (e : PEntry) : Nat := fld e.w5 0 16
def PEntry.maxlead (e : PEntry) : Nat := fld e.w6 16 16
def PEntry.objstr (e : PEntry) : Nat := fld e.w6 14 2
def PEntry.objbase (e : PEntry) : Nat := fld e.w6 0 14
def PEntry.base (e : PEntry) : Nat := (join64 e.w4 e.w5).toNat
def PEntry.rdok (e : PEntry) : Bool := e.w6.getLsbD 31
def PEntry.wrok (e : PEntry) : Bool := e.w6.getLsbD 30
def PEntry.size (e : PEntry) : Nat := fld e.w6 0 20 * 4096

/-- The entry's TYPE and ACT take the frame's type: 0xFF takes any, with TXN the four types it covers (R340). -/
def PEntry.takes (e : PEntry) (typ : Nat) : Bool :=
  if e.typ = 0xFF then e.act != 2 || [0x03, 0x04, 0x08, 0x09].contains typ else e.typ == typ

/-- The entry matches. -/
def PEntry.hit (e : PEntry) (port vid : Nat) (src : BitVec 48) (h : Carr) : Bool :=
  e.en && e.ports.testBit port && e.takes h.typ && decide (e.ctxlo ≤ h.ctx) && decide (h.ctx ≤ e.ctxhi) &&
    (e.vid == 0xFFF || e.vid == vid) && (e.smany || e.smac == src)

/-- The first entry that matches a frame (R340). -/
def State.match_ (s : State) (r : RxFrame) (h : Carr) : Option Nat :=
  (List.range 128).find? fun i => (s.pentry i).hit r.port (s.vidOf r) r.frame.src h

/-! ## The host receive ring (R360, R405) -/

/-- A device address in the host-memory window. -/
def hostAddr (a : Nat) : Option Nat := if 2 ^ 63 ≤ a ∧ a < 2 ^ 64 then some (a - 2 ^ 63) else none

/-- A read of bytes: in LPDDR6 the words touched, on die whole rows (R274). -/
def State.readAny (s : State) (a len src : Nat) (ctx : Option Nat) : Reads :=
  if 0x1000000000 ≤ a then s.readWords (wordsOf a len) (fun _ => true) src ctx else s.readWide a len src ctx

/-- A write that the Carr rings make: posted to host memory, or made on the device (R405). -/
def State.ringWrite (s : State) (a : Nat) (bs : List Byte) : State :=
  match hostAddr a with
  | some h => if s.canSend then s.emit (.hostWrite h bs) else s
  | none => if s.openRange a bs.length then (s.writeBytes a bs 0xC none false).st else s

/-- Address of entry i of the receive ring. -/
def State.rxEntryAddr (s : State) : Nat :=
  (s.act64 R.CARR_HRXBASE).toNat + 32 * (s.net.rxHead % 2 ^ fld (s.act R.CARR_HRCFG) 28 4)

/-- A frame meets its receive entry: dropped with OWN at 0; else its bytes and the entry are written and VEC is raised. -/
def State.rxFill (s : State) (x : RxHost) (entry : List Byte) : State :=
  let w0 := w32 (leAt entry 0 4)
  if !w0.getLsbD 31 then s.bump R.CARR_HRXDROP
  else
    let buf := leAt entry 8 8
    let bytes := x.bytes.take 2048
    let s := s.ringWrite buf bytes
    let s := s.ringWrite s.rxEntryAddr
      (leBytes 4 (x.pcp * 2 ^ 21 + x.port * 2 ^ 19 + bytes.length) ++ leBytes 4 x.stamp.toNat ++ leBytes 8 buf ++
        leBytes 4 x.entry ++ leBytes 4 0 ++ leBytes 8 x.raw.toNat)
    let s := { s with net := { s.net with rxHead := (s.net.rxHead + 1) % 4096 } }
    s.raiseVec (fld (s.act R.CARR_HRCFG) 0 6)

/-- Outbound requests fail at once: bus mastering off, no link, or scope 5 escalated (R405, R426). -/
def State.outFails (s : State) : Bool := !s.canSend || s.escalated 5 0 0

/-- The bytes of one outbound read at most (R400, R405). -/
def State.readSize (s : State) : Nat := 128 * 2 ^ s.host.mrrs

/-- The event argument's name of a requester: its channel, or 0xFF for Carr (R431). -/
def Requester.num : Requester → Nat
  | .dma k => k
  | _ => 0xFF

/-- A failed outbound request (R406): logged with its requester and kind, and counted for escalation. -/
def State.pcieFail (s : State) (who kind : Nat) : State :=
  let s := s.event 0x0502 (w32 (who * 2 ^ 16 + kind * 2 ^ 8)) none
  let s := s.escFail 5 0 0 kind
  s.wr R.PCI_RUN (w32 (min 3 (s.escOf (escKey 5 0 0)).run))

/-- An outbound read request (R405): it takes a tag and leaves; none while it fails at once or no tag is free. -/
def State.outRead (s : State) (who : Requester) (h len : Nat) : Option State :=
  if s.outFails then none
  else
    let used := s.host.outbound.map (·.tag)
    match (List.range 256).find? fun i => !used.contains ((s.host.nextTag + i) % 256) with
    | none => none
    | some i =>
      let tag := (s.host.nextTag + i) % 256
      some ({ s with host := { s.host with
        nextTag := (tag + 1) % 256, outbound := s.host.outbound ++ [({ tag := tag, who := who, addr := h, len := len, raw := s.tb.raw } : Outbound)] } }.emit (.hostRead tag h len))

/-- A read for the Carr rings asked for: one that fails at once is logged, and the ring entry stays untaken (R406). -/
def State.carrAsk (s : State) (who : Requester) (h len : Nat) : State :=
  if s.outFails then s.pcieFail who.num 4 else (s.outRead who h len).getD s

/-- The next request for a transmit buffer of `len` bytes at host address h, `got` holding what came so far (R405). -/
def State.txAsk (s : State) (entry got : List Byte) (h len : Nat) : State :=
  let a := h + got.length
  s.carrAsk (.txBuffer entry got) a (min (len - got.length) (s.readSize - a % s.readSize))

/-- The receive entry of the frame that waits first is asked for, once; frames whose read fails at once are dropped and counted (R360, R406). -/
def State.rxAsk (s : State) : State :=
  let n := s.net.rxWait.length
  if n = 0 || s.host.outbound.any (fun o => o.who == .rxEntry) then s
  else
    match hostAddr s.rxEntryAddr with
    | none => ({ s with net := { s.net with rxWait := [] } }).addSat R.CARR_HRXDROP n
    | some h =>
      if s.outFails then
        forEach (List.range n) { s with net := { s.net with rxWait := [] } } fun s _ => (s.pcieFail 0xFF 4).bump R.CARR_HRXDROP
      else (s.outRead .rxEntry h 32).getD s

/-- A frame passed to the host (R360): its receive entry is read, in device memory at once, in host memory by a request that answers
later; a frame whose entry cannot be read is dropped and counted. -/
def State.hostRx (s : State) (r : RxFrame) (entry : Nat) : State :=
  let raw := s.rxRaw r
  let pcp := match r.frame.tci with
    | some t => t.toNat / 2 ^ 13
    | none => 0
  let x : RxHost := ⟨frameBytes r.frame, r.port, pcp, entry, s.stampOf raw, raw⟩
  let a := s.rxEntryAddr
  match hostAddr a with
  | some _ => ({ s with net := { s.net with rxWait := s.net.rxWait ++ [x] } }).rxAsk
  | none =>
    if s.openRange a 32 then
      let g := s.readAny a 32 9 none
      if g.bad.isSome then g.st.bump R.CARR_HRXDROP else g.st.rxFill x (bytesOf g.words a 32)
    else s.bump R.CARR_HRXDROP

/-- A frame that no entry matches (R340, R353). -/
def State.noMatch (s : State) (r : RxFrame) (h : Carr) : State :=
  let s := s.viol 12 r.port 0x1FF h (s.stampOf (s.rxRaw r))
  if (s.act R.CARR_CFG).getLsbD 0 then s.hostRx r 0x1FF else s

/-! ## Sequence (R343) -/

/-- The stream's difference: none when it is unsynchronised. -/
def seqDiff (last : Option Word) (seq : Word) : Option Int := last.map fun l => (seq - l).toInt

/-! ## Locked bytes (R448) -/

/-- A byte range meets a copy of a locked part: its partition. -/
def State.lockedBy (s : State) (a len : Nat) : Option Nat :=
  (s.boot.locks.find? fun (l : Nat × List LockPart) => l.2.any fun p =>
    (List.range p.copies).any fun c =>
      let b := p.addr + c * p.stride
      decide (a < b + p.len ∧ b < a + len)).map (·.1)

/-- A write to locked bytes refused: logged while SEC_FLAGS.LOCK is clear; sources 0 BAR2, 1 Carr, 2 DMA. -/
def State.lockWrite (s : State) (part src : Nat) : State :=
  if (s.rd R.SEC_FLAGS).getLsbD 1 then s
  else (s.setBits R.SEC_FLAGS 2).event 0x0E04 (w32 (part + src * 2 ^ 8)) none

/-- The lock on partition p ends: its manifest address is cleared unless the artifact's load was accepted (R448). -/
def State.unlock (s : State) (p : Nat) : State :=
  match FMap.find s.boot.locks p with
  | none => s
  | some _ =>
    let b := s.boot
    let s := { s with boot := { b with
      locks := FMap.upd b.locks p none, loaded := if b.loaded.testBit p then b.loaded - 2 ^ p else b.loaded } }
    if b.loaded.testBit p then s else s.wr64 (R.SCH_MAN p) 0

/-! ## Requests the device sends (R351) -/

/-- The partner's index among peers. -/
def partner : Nat := 32

/-- Word pair of peer i: its address, port and validity. -/
def State.peer (s : State) (i : Nat) : Dword := s.act64 (R.CARR_PEER i)

/-- The peer of a port and address. -/
def State.peerOf (s : State) (port : Nat) (mac : BitVec 48) : Option Nat :=
  if 4 ≤ port then some partner
  else (List.range 32).find? fun i =>
    let p := s.peer i
    p.getLsbD 63 && p.toNat / 2 ^ 48 % 4 == port && mac48 p == mac

/-- The version negotiated with a peer, if any. -/
def State.peerVer (s : State) (i : Nat) : Option Nat :=
  if i = partner then (if s.field R.MIR_STAT 8 8 = 0 then none else some (s.field R.MIR_STAT 8 8))
  else
    let w := s.rd (R.CARR_PEERST i)
    if w.getLsbD 31 then some (fld w 8 8) else none

/-- A frame of a request leaves for its peer: on queue 1 of the peer's port, or the class F lane. -/
def State.sendTo (s : State) (peer : Nat) (f : TxFrame) : State :=
  if peer = partner then
    match s.laneFor false with
    | some l => s.emit (.frame (4 + l) f.bytes)
    | none => s
  else (s.offer (((s.peer peer).toNat / 2 ^ 48) % 4) 1 f).st

/-- A request to a peer: it takes the next SEQ of the peer and waits for its answer (R338, R351). -/
def State.request (s : State) (peer : Nat) (kind : ReqKind) (typ : Nat) (payload : List Byte) : State × Word :=
  let seq := FMap.get 0 s.net.peerSeq peer + 1
  let ver := (s.peerVer peer).getD 3
  let body := carrBytes ver typ 0 seq 0 0 s.stamp payload
  let f := if peer = partner then txFrame (ethBytes Config.partnerMac (s.mac 0) none s.etype body) false none
    else txFrame (ethBytes (mac48 (s.peer peer)) (s.mac ((s.peer peer).toNat / 2 ^ 48 % 4)) none s.etype body) false none
  let s := { s with net := { s.net with
    peerSeq := FMap.set 0 s.net.peerSeq peer seq
    requests := s.net.requests ++ [({ peer := peer, seq := seq, kind := kind, tries := 1, raw := s.tb.raw, frame := f } : Request)] } }
  (s.sendTo peer f, seq)

/-- A HELLO sent to a peer with VMIN 2 and VMAX 3 (R358). -/
def State.sendHello (s : State) (peer : Nat) : State :=
  let ver := (s.peerVer peer).getD 3
  (s.request peer .hello 0x08 ([2, 3, 0, 0] ++ if ver = 2 then [] else beBytes 4 Config.features.toNat)).1

end Sys2Proof.Machine
end

