-- ==== Sys2Proof/Machine/Access.lean ====
section
/-! DEFINITION. A core's accesses to its own scratchpad and its cluster memory: narrow reads, stores through the pod buffer,
row-unit and drain writes, with suppression in batch slots, poison and digests (R26, R84, R126, R239 to R247, R279 to R285,
R372). -/

namespace Sys2Proof.Machine

/-- Why a core's access is not made. -/
inductive Denied where
  | misaligned | unmapped
  deriving DecidableEq, Repr

/-- The place core n reaches at address `a` with `len` bytes: its own scratchpad or its cluster's memory, in a bank that performs
accesses (R26, R265). -/
def State.reach (s : State) (n a len : Nat) : Option Place :=
  match s.place a with
  | some p =>
    if (p.mem = n ∨ p.mem = 128 + n / 8) ∧ p.off + len ≤ s.memSize p.mem ∧ !s.bankGated p.mem (bankOf p.mem p.off) then some p
    else none
  | none => none

/-- A narrow access checked: aligned to its size, and reachable (R126). -/
def State.narrow (s : State) (n a size : Nat) : Except Denied Place :=
  if a % size ≠ 0 then .error .misaligned
  else match s.reach n a size with
    | some p => .ok p
    | none => .error .unmapped

/-- A wide access of the row unit: 64 bytes of the own scratchpad, aligned to 64 (R144). -/
def State.wide (s : State) (n a : Nat) : Except Denied Place :=
  if a % 64 ≠ 0 then .error .misaligned
  else match s.reach n a 64 with
    | some p => if p.mem = n then .ok p else .error .unmapped
    | none => .error .unmapped

/-! ## Suppressed writes (R84) -/

/-- A write of core n's batch command at `a` is suppressed: it lies in the context area of a position whose qualifying bit is 0, or
of a context torn down during the slot (R84). -/
def State.suppressed (s : State) (n a : Nat) : Bool :=
  let c := s.core n
  let t := s.slot c.part c.slot
  c.batch && (s.slotCtxs t fun h => h == n).any fun x =>
    let k := s.ctxIndex x - t.first
    decide (s.ctxArea x ≤ a) && decide (a < s.ctxArea x + s.ctxSize x) &&
      (!(FMap.get 0 c.qmask (k / 32)).getLsbD (k % 32) || c.tornIn.contains x)

/-! ## The pod buffer (R244 to R247) -/

/-- An entry's valid words written to the bank, cancelling their queued corrections (R245, R278, R296); under the sequencer's latch those that
its instance stored are written poisoned (R284). -/
def State.drainEntry (s : State) (n : Nat) (e : PodEntry) (latch : Bool) : State :=
  forEach e.words s fun s x =>
    let wa := e.row + 8 * x.1
    let (s, d, syn) := s.inject ⟨n, wa - memBase n⟩ x.2.1 (if latch && !e.old.contains x.1 then 0xFF else x.2.2)
    (s.putBank wa d syn).cancelWb n wa

/-- The words of an entry with word i set. -/
def podWords (ws : List (Nat × Dword × Byte)) (i : Nat) (d : Dword) (x : Byte) : List (Nat × Dword × Byte) :=
  FMap.upd ws i (some (d, x))

/-- The lowest slot number that no entry uses. -/
def podFree (pod : List PodEntry) : Option Nat := (List.range 4).find? fun k => !(pod.any fun e => e.slot == k)

/-- The entry that a forced drain writes when a word at `wa` needs a new one (R245). -/
def Core.forced (c : Core) (wa : Nat) : Option PodEntry :=
  if (c.pod.any fun e => e.row == wa / 128 * 128) || (podFree c.pod).isSome then none else c.pod.head?

/-- Word i of an entry set by the running instance. -/
def PodEntry.put (e : PodEntry) (i : Nat) (d : Dword) (x : Byte) : PodEntry :=
  { e with words := podWords e.words i d x, old := e.old.filter fun k => k != i }

/-- A pod buffer with a word placed in it (R244); `slot` is that of the entry it takes when none holds its row. -/
def podPut (pod : List PodEntry) (slot wa : Nat) (d : Dword) (x : Byte) : List PodEntry :=
  let row := wa / 128 * 128
  if pod.any fun e => e.row == row then pod.map fun e => if e.row = row then e.put (wa % 128 / 8) d x else e
  else pod ++ [PodEntry.put ⟨slot, row, [], []⟩ (wa % 128 / 8) d x]

/-- A word placed in core n's pod buffer, after the forced drain that it needs (R244, R245). -/
def State.podPlace (s : State) (n wa : Nat) (d : Dword) (x : Byte) : State :=
  let c := s.core n
  let at_ := (s.coreNow n, wa / 128 * 128)
  match c.forced wa with
  | some e =>
    let s := (s.drainEntry n e c.poison).bump (R.SPD_PODFORCE n)
    s.modCore n fun c => { c with pod := podPut (c.pod.drop 1) e.slot wa d x, podAt := at_ }
  | none => s.modCore n fun c => { c with pod := podPut c.pod ((podFree c.pod).getD 0) wa d x, podAt := at_ }

/-- A whole word stored by core n's sequencer: into its pod buffer, or to the cluster memory on its lane (R241, R243, R244), poisoned
under the command's latch (R284), and hashed into the S stream of a real-time command (R372). -/
def State.storeWord (s : State) (n : Nat) (p : Place) (wa : Nat) (d : Dword) : State :=
  if s.suppressed n wa then s
  else
    let c := s.core n
    let s :=
      if p.mem < 128 then
        let (s, d, x) := s.inject p d (cleanSyn c.poison)
        s.podPlace n wa d x
      else s.writeWord p wa d c.poison
    if s.isRt c.part then s.hashWord n false wa d c.poison else s

/-! ## Narrow accesses -/

/-- What an access of a core gives. -/
structure Got where
  st   : State
  data : Dword
  bad  : Bool
  deriving DecidableEq, Repr

/-- An uncorrectable read of core n's sequencer (R282, source 0x1): the command's latch, and in a real-time partition the teardown of
its context. -/
def State.seqUe (s : State) (n : Nat) : State :=
  let c := s.core n
  let s := s.modCore n fun c => { c with poison := true }
  if s.isRt c.part then
    match c.ctx with
    | some x => s.teardownUe x 3
    | none => s
  else s

/-! ## Wide accesses -/

/-- Whole words written from `a` by core n's wide side with a latch, hashed when real-time (R239, R247, R372). -/
def State.writeLanes (s : State) (n a : Nat) (ws : List Dword) (poison : Bool) : State :=
  forEach ws.zipIdx s fun s x =>
    let wa := a + 8 * x.2
    match s.place wa with
    | none => s
    | some p =>
      if s.suppressed n wa then s
      else
        let rt := s.isRt (s.core n).part
        let s := s.writeWord p wa x.1 poison
        if rt then s.hashWord n false wa x.1 poison else s

end Sys2Proof.Machine
end

