-- ==== Sys2Proof/Machine/Desc.lean ====
section
/-! DEFINITION. DMA descriptors: their fields, and how the current one goes on through its runs (R309 to R313). -/

namespace Sys2Proof.Machine

/-! ## Fields (R309) -/

def Desc.op (d : Desc) : Nat := fld d.w0 28 4
def Desc.last (d : Desc) : Bool := d.w0.getLsbD 27
def Desc.sigc (d : Desc) : Bool := d.w0.getLsbD 26
def Desc.var (d : Desc) : Bool := d.w0.getLsbD 25
def Desc.next (d : Desc) : Nat := fld d.w0 12 12
def Desc.rpt (d : Desc) : Nat := fld d.w1 24 8
def Desc.len (d : Desc) : Nat := fld d.w1 0 24
def Desc.sstr (d : Desc) : Nat := fld d.w6 16 16 * 128
def Desc.dstr (d : Desc) : Nat := fld d.w6 0 16 * 128
def Desc.obj (d : Desc) : Nat := fld d.w7 18 14
def Desc.amount (d : Desc) : Nat := fld d.w7 10 8

/-- A descriptor out of its 32 bytes. -/
def Desc.ofBytes (b : List Byte) : Desc :=
  { w0 := w32 (leAt b 0 4), w1 := w32 (leAt b 4 4), src := w64 (leAt b 8 8), dst := w64 (leAt b 16 8), w6 := w32 (leAt b 24 4)
    w7 := w32 (leAt b 28 4) }

/-- On-die addresses of a descriptor's run. -/
def onDie (a : Nat) : Bool := decide (0x40000000 ≤ a) && decide (a < 0x70000000)

/-- Both ends of a COPY, or the destination of a FILL, lie in core scratchpads or cluster memories (R248). -/
def Desc.bothDie (d : Desc) : Bool :=
  onDie d.dst.toNat && (d.op != 1 || onDie d.src.toNat)

/-- The descriptor moves bytes. -/
def Desc.moves (d : Desc) : Bool := d.op == 1 || d.op == 2

/-- The first byte of each run: source and destination. -/
def Desc.runs (d : Desc) : List (Nat × Nat) :=
  (List.range (d.rpt + 1)).map fun j => (d.src.toNat + j * d.sstr, d.dst.toNat + j * d.dstr)

/-- The 8-byte pattern of a FILL from a destination address on: byte b takes byte (DST + b) mod 8 (R309). -/
def Desc.fill (d : Desc) (dst len : Nat) : List Byte :=
  let pat := leBytes 8 d.src.toNat
  (List.range len).map fun b => pat.getD ((dst + b) % 8) 0

/-! ## Going through the runs -/

/-- Bytes from `a` to the end of its block of `sz` bytes, `left` at most. -/
def pieceLen (sz a left : Nat) : Nat := min left (sz - a % sz)

/-- Where the current descriptor goes on reading, and writing. -/
def DmaChan.srcNow (c : DmaChan) (d : Desc) : Nat := d.src.toNat + c.run * d.sstr + c.off
def DmaChan.dstNow (c : DmaChan) (d : Desc) : Nat := d.dst.toNat + c.run * d.dstr + c.off

/-- The descriptor has bytes that are not yet issued. -/
def DmaChan.more (c : DmaChan) (d : Desc) : Bool := d.moves && decide (c.run ≤ d.rpt)

/-- The current descriptor's last write has completed, or its operation is done (R309). -/
def DmaChan.finished (c : DmaChan) : Bool :=
  c.issued && c.waits.isNone && c.segs.isEmpty && !(c.desc.any c.more)

/-- `n` bytes issued; the next ones come `step` cycles later at the earliest. -/
def DmaChan.advance (c : DmaChan) (d : Desc) (n step : Nat) (raw : Dword) : DmaChan :=
  let c := { c with nextAt := raw + w64 (5 * step) }
  if d.len ≤ c.off + n then { c with run := c.run + 1, off := 0 } else { c with off := c.off + n }

/-- The descriptor of which a part is due to be issued at a raw time. -/
def DmaChan.issues (c : DmaChan) (raw : Dword) : Option Desc :=
  if c.st == .run && c.issued && !c.ending && decide (c.nextAt.toNat ≤ raw.toNat) then c.desc.filter c.more else none

/-- The parts that are presented to be written at a raw time. -/
def DmaChan.puts (c : DmaChan) (raw : Dword) : List DmaSeg := c.read.filter fun g => decide (g.due.toNat ≤ raw.toNat)

/-- Every access of a compiled chain that is still to come moves by one held cycle (R313). -/
def DmaChan.hold (c : DmaChan) : DmaChan :=
  if c.var then c
  else { c with nextAt := c.nextAt + 5, segs := c.segs.map fun g => if g.data.isSome then { g with due := g.due + 5 } else g }

end Sys2Proof.Machine
end

