-- ==== Sys2Proof/Machine/Ports.lean ====
section
/-! DEFINITION. The wide sides of the banks: who is granted a bank's read bus and sub-bank writes in a cycle, who is held, and what one
core's arrays and stores do in one cycle of its issue clock (R147, R157, R158, R239 to R253, R274, R279, R282, R284). -/

namespace Sys2Proof.Machine

open Sys2Proof

/-! ## Arrays of a core -/

/-- Array a of a core. -/
def Core.arr (c : Core) (a : Nat) : Arr := FMap.get Arr.reset c.arrs a

/-- Array a replaced. -/
def Core.setArr (c : Core) (a : Nat) (x : Arr) : Core := { c with arrs := FMap.set Arr.reset c.arrs a x }

/-- The cycle at which an AMM's accumulators are complete (R157). -/
def runDone (r : AmmRun) : Nat := r.issue + r.need * amCost r.w0 + 20 + r.held

/-- The cycle at which all accumulators of an array are complete (R157, R161). -/
def Arr.doneAt (a : Arr) : Nat := a.runs.foldl (fun m r => max m (runDone r)) a.accAt

/-- The core's partition is real-time. -/
def State.coreRt (s : State) (n : Nat) : Bool := s.isRt (s.core n).part

/-- A teardown of the running command's context with a cause; a command without one is stopped (R14, R101). -/
def State.coreTeardown (s : State) (n cause : Nat) (ue : Bool) : State :=
  match (s.core n).ctx with
  | some x => if ue then s.teardownUe x cause else s.teardown x cause
  | none => s.stopSeq n

/-! ## The array command descriptor (R154, R155) -/

/-- The eight words of a descriptor, read. -/
structure ArrDesc where
  w0 : Word
  w1 : Word
  aaddr : Word
  baddr : Word
  taddr : Word
  strides : Word
  tan : Word
  arrs : Word
  deriving DecidableEq, Repr

/-- A descriptor out of its four double words. -/
def ArrDesc.ofDwords (d : List Dword) : ArrDesc :=
  let g := fun i => d.getD i 0
  ⟨lo32 (g 0), hi32 (g 0), lo32 (g 1), hi32 (g 1), lo32 (g 2), hi32 (g 2), lo32 (g 3), hi32 (g 3)⟩

/-- The descriptor of an AMM in progress. -/
def AmmRun.desc (r : AmmRun) : ArrDesc :=
  let g := fun i => r.rest.getD i 0
  ⟨r.w0, r.w1, g 0, g 1, g 2, g 3, g 4, g 5⟩

/-- Bytes of a FLOAT or tangent element row: BF16, or binary32. -/
def floatRow (wide : Bool) : Nat := if wide then 64 else 32

/-- Bytes of an A row, a B row and a tangent's row (R155). -/
def ArrDesc.aRow (d : ArrDesc) : Nat := if amFmt d.w0 = 2 then floatRow (d.w0.getLsbD 24) else 16
def ArrDesc.bRow (d : ArrDesc) : Nat := if amFmt d.w0 = 2 then floatRow (d.w0.getLsbD 23) else 16
def ArrDesc.tRow (d : ArrDesc) : Nat := floatRow (d.w0.getLsbD 22)

/-- Row steps of the command: an INT4 row covers two k steps. -/
def ArrDesc.rows (d : ArrDesc) : Nat := if amFmt d.w0 = 1 then amDepth d.w0 / 2 else amDepth d.w0

/-- Whether the checks of R155 on the descriptor's own fields fail: reserved values, and misaligned rows and strides. -/
def ArrDesc.bad (d : ArrDesc) : Bool :=
  let fmt := amFmt d.w0
  let pass := amPass d.w0
  let nt := amNtan d.w0
  decide (fmt = 3) || decide (fmt = 2 ∧ pass = 0) || decide (fmt ≠ 2 ∧ pass ≠ 0) || decide (nt > 4) || decide (fmt ≠ 0 ∧ nt ≠ 0) ||
  decide (fld d.w0 16 4 ≠ 0) || decide (fld d.w1 0 16 ≠ 0) || decide (nt = 0 ∧ d.taddr ≠ 0) ||
  decide (fmt = 1 ∧ amDepth d.w0 % 2 = 1) ||
  (decide (fmt = 1) && ((!d.w0.getLsbD 21 && decide (fld d.w1 24 8 > 15)) || (!d.w0.getLsbD 20 && decide (fld d.w1 16 8 > 15)))) ||
  decide (d.aaddr.toNat % d.aRow ≠ 0) || decide (d.baddr.toNat % d.bRow ≠ 0) ||
  decide (fld d.strides 16 16 % d.aRow ≠ 0) || decide (fld d.strides 0 16 % d.bRow ≠ 0) ||
  decide (nt ≠ 0 ∧ (d.taddr.toNat % d.tRow ≠ 0 ∨ fld d.tan 16 16 % d.tRow ≠ 0))

/-- Addresses of the A row, the B row and tangent t's row of row step k for array a. -/
def ArrDesc.aAt (d : ArrDesc) (a k : Nat) : Nat := d.aaddr.toNat + a * fld d.arrs 16 16 * 64 + k * fld d.strides 16 16
def ArrDesc.bAt (d : ArrDesc) (a k : Nat) : Nat := d.baddr.toNat + a * fld d.arrs 0 16 * 64 + k * fld d.strides 0 16
def ArrDesc.tAt (d : ArrDesc) (a k t : Nat) : Nat := d.taddr.toNat + a * fld d.tan 0 16 * 64 + k * fld d.tan 16 16 + t * d.tRow

/-- Every operand row of row step k for array a: address and bytes. -/
def ArrDesc.rowsAt (d : ArrDesc) (a k : Nat) : List (Nat × Nat) :=
  [(d.aAt a k, d.aRow), (d.bAt a k, d.bRow)] ++ (List.range (amNtan d.w0)).map fun t => (d.tAt a k t, d.tRow)

/-- A row of the own scratchpad of core n, in a bank that performs accesses. -/
def State.ownRow (s : State) (n a len : Nat) : Bool :=
  match s.reach n a len with
  | some p => p.mem == n
  | none => false

/-- The lowest address among operand rows that are not in the own scratchpad (R155, R484). -/
def State.badRow (s : State) (n : Nat) (d : ArrDesc) (amask : Nat) : Option Nat :=
  (bitsOf 8 amask).foldl (fun m a => (List.range d.rows).foldl (fun m k => (d.rowsAt a k).foldl (fun m r =>
    if s.ownRow n r.1 r.2 then m
    else some (match m with
      | some x => min x r.1
      | none => r.1)) m) m) none

/-- The 16 elements of a row of `len` bytes: bytes, BF16 extended, or binary32 words (R155, R164). -/
def elements (len : Nat) (bs : List Byte) : List Word :=
  (List.range 16).map fun i =>
    if len = 16 then w32 (bs.getD i 0).toNat
    else if len = 32 then w32 (ofLe ((bs.drop (2 * i)).take 2) * 2 ^ 16)
    else w32 (ofLe ((bs.drop (4 * i)).take 4))

/-- The operands of array a in a row step, out of the rows read. -/
def ArrDesc.stepOf (d : ArrDesc) (got : List ((Nat × Nat) × List Byte)) (a k : Nat) : KStep :=
  let row := fun (at_ len : Nat) => elements len (((got.find? fun x => x.1 == (at_, len)).map (·.2)).getD [])
  ⟨row (d.aAt a k) d.aRow, row (d.bAt a k) d.bRow, (List.range (amNtan d.w0)).map fun t => row (d.tAt a k t) d.tRow⟩

/-! ## Drains (R147, R242) -/

/-- Where row r of array a is drained to: the wide row 8a + r from the address. -/
def drainRow (base a r : Nat) : Nat := base + 1024 * a + 128 * r

/-- The 16 double words of drain row r of an array: cell rows 2r and 2r + 1 of a set. -/
def drainWords (x : Arr) (set r : Nat) : List Dword :=
  pairUp ((List.range 32).map fun i => w32 (cellOut x set (32 * r + i)).1)

/-! ## The order of requests (R248, R249) -/

/-- Places in the order of requests: a requester's rank times 1,000, plus its place within the rank. Both memories rank their common
requesters alike; the POLL reads of a cluster memory come before its transfers. -/
def ordLane : Nat := 0
def ordSeq : Nat := 1000
def ordFen (m : Nat) : Nat := 2000 + m
def ordRead (a : Nat) : Nat := 3000 + a
def ordDrain (a : Nat) : Nat := 4000 + a
def ordPod : Nat := 5000
def ordPoll : Nat := 5500
def ordCommit : Nat := 6000
def ordOnDie (k : Nat) : Nat := 6001 + k
def ordOffDie (k : Nat) : Nat := 7000 + k
def ordPlace : Nat := 8000
def ordHost : Nat := 9000
def ordIdle : Nat := 10000

/-- Two requests that one bank cannot both grant in a cycle: the same resource, and not reads of one row (R239). -/
def Claim.clash (a b : Claim) : Bool := a.mem == b.mem && a.bank == b.bank && a.sub == b.sub && !(a.sub.isNone && a.row == b.row)

/-- The request for the row that holds address `a`: none where no bank lies. -/
def State.claimAt (s : State) (write : Bool) (a : Nat) : List Claim :=
  match s.place a with
  | some p => if p.mem < 144 then [⟨p.mem, bankOf p.mem p.off, if write then some (p.off / 128 % 8) else none, a / 128⟩] else []
  | none => []

/-- The requests for every row of a range. -/
def State.claimsOf (s : State) (write : Bool) (a len : Nat) : List Claim := (rowsOf a len).flatMap (s.claimAt write)

/-- Requests in order, as granted and held: each is held by an earlier one that is granted and clashes with it (R250). -/
def arbitrate (reqs : List (Nat × Claim)) : List (Nat × Claim) × List (Nat × Claim) :=
  reqs.foldl (fun r x => if r.1.any fun y => decide (y.1 < x.1) && y.2.clash x.2 then (r.1, r.2 ++ [x]) else (r.1 ++ [x], r.2)) ([], [])

/-! ## What a core asks for in a cycle -/

/-- The AMM of an array that has operand rows to read. -/
def Arr.reading (x : Arr) : Option AmmRun := x.runs.find? fun r => !r.left.isEmpty

/-- The operand rows that array a presents in cycle t, as wide rows. -/
def Arr.asks (x : Arr) (t : Nat) : List Nat :=
  match x.reading with
  | some r => if r.next = t then (r.left.map fun (p : Nat × Nat) => p.1 / 128 * 128).eraseDups else []
  | none => []

/-- The row that an AST writes for array a in cycle t. -/
def Arr.drains (x : Arr) (a t : Nat) : Option Nat :=
  match x.drain with
  | some d => if d.next = t then some (drainRow d.base a ((d.d + a) % 8)) else none
  | none => none

/-- Core n's requests of cycle t, in order: those granted already, those of its scratchpad's Fennel engine if that cycle is now, operand
reads and drains. -/
def State.coreReqs (s : State) (n t : Nat) : List (Nat × Claim) :=
  let c := s.core n
  let mine := c.claims.filterMap fun x => if x.1 = t then some x.2 else none
  let bus := if s.coreNow n = t then s.cyc.bus.filter fun x => x.2.mem == n && decide (x.1 < ordRead 0) else []
  let reads := (List.range 8).flatMap fun a => ((c.arr a).asks t).flatMap fun row => (s.claimAt false row).map fun k => (ordRead a, k)
  let drains := (List.range 8).flatMap fun a => match (c.arr a).drains a t with
    | some row => (s.claimAt true row).map fun k => (ordDrain a, k)
    | none => []
  mine ++ bus ++ reads ++ drains

/-- The place of channel k in the order of requests. -/
def DmaChan.order (c : DmaChan) (k : Nat) : Nat := if c.desc.any Desc.bothDie then ordOnDie k else ordOffDie k

/-- The requests that channel k presents in this cycle for the part it is due to issue. -/
def State.issueClaims (s : State) (c : DmaChan) : List Claim :=
  match c.issues s.tb.raw with
  | some d => if d.op = 1 then s.claimsOf false (c.srcNow d) (pieceLen 128 (c.srcNow d) (d.len - c.off)) else []
  | none => []

/-- What the DMA channels present to memory n in this cycle. -/
def State.dmaReqs (s : State) (n : Nat) : List (Nat × Claim) :=
  s.dma.flatMap fun (x : Nat × DmaChan) =>
    (((x.2.puts s.tb.raw).flatMap (fun g => s.claimsOf true g.dst g.len) ++ s.issueClaims x.2).filter fun c => c.mem == n).map
      fun c => (x.2.order x.1, c)

/-- Everything granted in memory n in this cycle to requesters that come before `order` (R248, R249). -/
def State.before (s : State) (n order : Nat) : List Claim :=
  let own := if n < 128 then (arbitrate (s.coreReqs n (s.coreNow n))).1 else
    ((List.range 8).flatMap fun k => let c := 8 * (n - 128) + k
      (s.core c).claims.filterMap fun x => if x.1 = s.coreNow c then some x.2 else none)
  (arbitrate (own ++ s.cyc.bus ++ s.dmaReqs n)).1.filterMap fun x => if x.1 < order then some x.2 else none

/-- The requests among `cs` that are held in this cycle. -/
def State.heldOf (s : State) (order : Nat) (cs : List Claim) : List Claim :=
  cs.filter fun c => (s.before c.mem order).any c.clash

/-- Requests granted in this cycle. -/
def State.grantBus (s : State) (order : Nat) (cs : List Claim) : State :=
  { s with cyc := { s.cyc with bus := s.cyc.bus ++ cs.map fun c => (order, c) } }

/-- The requests held in this cycle noted, for the test of a closing bank (R264). -/
def State.noteHeld (s : State) (cs : List Claim) : State :=
  { s with cyc := { s.cyc with held := s.cyc.held ++ cs.map fun c => (c.mem, c.bank) } }

/-- Soft holds counted (R253). -/
def State.softHolds (s : State) (cs : List Claim) : State := (forEach cs s fun s c => s.bump (R.SPD_SOFT c.mem c.bank)).noteHeld cs

/-- Hard holds counted; the first of an instance sets its flag and logs BANK_HARD with the highest rank held (R253, R267). -/
def State.hardHolds (s : State) (cs : List (Nat × Claim)) : State :=
  let s := (forEach cs s fun s c => s.bump (R.SPD_HARD c.2.mem c.2.bank)).noteHeld (cs.map Prod.snd)
  match cs with
  | [] => s
  | c :: _ =>
    let n := c.2.mem
    if (s.rd (R.SPD_FLAGS n)).getLsbD 0 then s
    else (s.setBits (R.SPD_FLAGS n) 1).event 0x0801 (w32 (n * 2 ^ 16 + c.2.bank * 2 ^ 8 + c.1 / 1000)) none

/-- A compiled or variable request: what it does when every resource it needs is granted, or its holds counted, and the requester presents it
again (R250, R253; log entry 77). -/
def State.ask (s : State) (order : Nat) (cs : List Claim) (act : State → State) : State :=
  let held := s.heldOf order cs
  if held.isEmpty then act (s.grantBus order cs) else s.softHolds held

/-- A Fennel engine's memory access: a held one stops the engine for the cycle, a hard hold (R251). -/
def State.fenRequest (s : State) (m : Nat) (cs : List Claim) (act : State → State) : State :=
  let held := s.heldOf (ordFen m) cs
  if held.isEmpty then act (s.grantBus (ordFen m) cs) else s.hardHolds (held.map fun c => (ordFen m, c))

/-- Bank b of memory n has an idle cycle (R276), in which the integrity block has done nothing yet. -/
def State.bankIdle (s : State) (n b : Nat) : Bool := !((s.before n (ordIdle + 1)).any fun c => c.mem == n && c.bank == b)

/-- Work of the integrity block in an idle cycle of bank b of memory n. -/
def State.idleWork (s : State) (n b : Nat) (act : State → State) : State :=
  if s.bankIdle n b then (act s).grantBus ordIdle [⟨n, b, none, 0⟩] else s

/-! ## One cycle of a core -/

/-- The state in which core n acts in cycle t of its issue clock. -/
def State.timed (s : State) (n t : Nat) : State := { s with cyc := { s.cyc with when := some ((s.core n).begRaw + w64 (5 * t)) } }

/-- The state in which the device acts at a raw time, or now. -/
def State.timedAt (s : State) (w : Option Dword) : State := { s with cyc := { s.cyc with when := w } }

/-- Requests of core n granted in cycle t. -/
def State.coreGrant (s : State) (n t order : Nat) (cs : List Claim) : State :=
  s.modCore n fun c => { c with claims := c.claims ++ cs.map fun k => (t, order, k) }

/-- The requests that a word placed by core n makes: a forced drain's write, or of the cluster memory its lane's (R243, R245, R276). -/
def State.placeClaims (s : State) (n mem wa : Nat) : List (Nat × Claim) :=
  if mem < 128 then
    match (s.core n).forced wa with
    | some e => (s.claimAt true e.row).map fun k => (ordSeq, k)
    | none => []
  else (s.claimAt true wa).map fun k => (ordLane, { k with sub := some (8 + n % 8) })

/-- One cycle of hold for an AMM whose products are not over: later products, its next reads and its completion come one cycle later (R251). -/
def AmmRun.hold (r : AmmRun) (t : Nat) : AmmRun :=
  let shift := fun x => if t ≤ x then x + 1 else x
  if r.issue + r.need * amCost r.w0 + 3 + r.held < t then r
  else { r with held := r.held + 1, next := shift r.next, prods := r.prods.map fun x => (shift x.1, shift x.2) }

/-- An array held in cycle t. -/
def Arr.hold (x : Arr) (t : Nat) : Arr := { x with runs := x.runs.map fun r => r.hold t, free := x.free + 1 }

/-- The next drain cycle, or the end of the drain. -/
def Drain.on (d : Drain) : Option Drain := if d.d = 7 then none else some { d with d := d.d + 1, next := d.next + 1 }

/-- Array a's drain in cycle t: held, or its row written (R147, R251). -/
def State.drainCycle (s : State) (n t : Nat) (held : List (Nat × Claim)) (a : Nat) : State :=
  let x := (s.core n).arr a
  match x.drain, x.drains a t with
  | some d, some row =>
    let k := (s.claimAt true row).map fun k => (ordDrain a, k)
    if k.any fun c => held.contains c then
      s.modCore n fun c => c.setArr a { x with drain := some { d with next := t + 1 }, free := x.free + 1 }
    else
      let s := s.writeLanes n row (drainWords x d.set ((d.d + a) % 8)) d.poison
      let s := s.modCore n fun c => c.setArr a { c.arr a with drain := d.on }
      forEach k s fun s c => s.coreGrant n t c.1 [c.2]
  | _, _ => s

/-- The word of a partial store placed in cycle t, after the wide writes (R247, R279). -/
def State.mergeCycle (s : State) (n t : Nat) : State :=
  match (s.core n).merge with
  | some m =>
    if m.next = t then
      let s := s.modCore n fun c => { c with merge := none }
      match s.place m.addr with
      | some p =>
        if p.mem = n ∨ p.mem = 128 + n / 8 then
          let s := forEach (s.placeClaims n p.mem m.addr) s fun s c => s.coreGrant n t c.1 [c.2]
          s.storeWord n p m.addr m.data
        else s
      | none => s
    else s
  | none => s

/-- The requests held and the writes made in cycle t, once (R239, R250, R251). -/
def State.coreWrites (s : State) (n t : Nat) : State :=
  if (s.core n).simAt = t + 1 then s
  else
    let held := (arbitrate (s.coreReqs n t)).2
    let s := (s.timed n t).modCore n fun c => { c with simAt := t + 1 }
    let s := forEach (List.range 8) (s.hardHolds held) fun s a => s.drainCycle n t held a
    s.mergeCycle n t

/-- A row read: its 16 words as delivered, and whether each is uncorrectable (R274). -/
def State.readRow (s : State) (row src : Nat) (ctx : Option Nat) : State × List (Dword × Bool) :=
  (rowWords row).foldl (fun r wa =>
    match r.1.place wa with
    | none => r
    | some p => let x := r.1.readWord p wa src ctx; (x.st, r.2 ++ [(x.data, x.bad)])) (s, [])

/-- Rows read in turn. -/
def State.readRows (s : State) (src : Nat → Nat) (ctx : Option Nat) (rows : List Nat) : State × List (Nat × List (Dword × Bool)) :=
  rows.foldl (fun r row => let x := r.1.readRow row (src row) ctx; (x.1, r.2 ++ [(row, x.2)])) (s, [])

/-- Addresses in ascending order, each once. -/
def ascending (as : List Nat) : List Nat := (as.foldl (fun m a => FMap.upd m a (some ())) ([] : FMap Unit)).map (·.1)

/-- The bytes of an element row out of the row that holds it, and whether a word of it is uncorrectable. -/
def elementOf (ws : List (Dword × Bool)) (a len : Nat) : List Byte × Bool :=
  (((ws.flatMap fun w => leBytes 8 w.1.toNat).drop (a % 128)).take len,
    ((ws.drop (a % 128 / 8)).take ((a % 8 + len + 7) / 8)).any (·.2))

/-- The AMM once the rows `got` are read in cycle t: held in the rest of its step, or one step further (R157, R158). -/
def AmmRun.took (r : AmmRun) (a t : Nat) (got : List ((Nat × Nat) × List Byte)) : AmmRun :=
  let left := r.left.filter fun p => !got.any fun g => g.1 == p
  let r := { r with got := r.got ++ got, left := left }
  if left.isEmpty then
    let d := r.desc
    let k := r.steps.length
    { r with
      got := [], steps := r.steps ++ [d.stepOf r.got a k], prods := r.prods ++ [(t + 2, t + 1 + amCost r.w0)], next := t + amCost r.w0
      left := if k + 1 < r.need then d.rowsAt a (k + 1) else [] }
  else r

/-- Array a's operand reads of cycle t out of the rows that were granted and read: its next step, its hold, and its latch (R251, R284). -/
def State.readCycle (s : State) (n t : Nat) (rows : List (Nat × List (Dword × Bool))) (a : Nat) : State :=
  let x := (s.core n).arr a
  match x.reading with
  | none => s
  | some r =>
    if r.next ≠ t then s
    else
      let got := r.left.filterMap fun p =>
        (rows.find? fun w => w.1 == p.1 / 128 * 128).map fun w => (p, elementOf w.2 p.1 p.2)
      let r' := r.took a t (got.map fun g => (g.1, g.2.1))
      let x := { x with runs := x.runs.map fun q => if q = r then r' else q, poison := x.poison || got.any fun g => g.2.2 }
      s.modCore n fun c => c.setArr a (if r'.next = t then x.hold t else x)

/-- The rows that the banks of core n read in cycle t: those granted to array a, and those of the row unit's own VLD (R239). -/
def State.rowsGranted (s : State) (n t : Nat) : List (Nat × Nat) :=
  (arbitrate (s.coreReqs n t)).1.filterMap fun x =>
    if x.2.sub.isNone && (x.1 == ordSeq || (decide (ordRead 0 ≤ x.1) && decide (x.1 < ordDrain 0))) then some (x.1, x.2.row * 128) else none

/-- The reads of cycle t: each row once, in ascending address, for all that take it (R158, R239, R277). In a real-time partition an array's
uncorrectable word tears the context down (R282). -/
def State.coreReads (s : State) (n t : Nat) : State :=
  let s := s.timed n t
  let rows := s.rowsGranted n t
  let own := rows.filterMap fun x => if x.1 = ordSeq then some x.2 else none
  let r := s.readRows (fun row => if own.contains row then 1 else 2) (s.core n).ctx (ascending (rows.map (·.2)))
  let was := (s.core n).arrs
  let s := forEach (List.range 8) r.1 fun s a => s.readCycle n t (r.2.filter fun w => rows.contains (ordRead a, w.1)) a
  let s := forEach rows s fun s x => if x.1 = ordSeq then s else s.coreGrant n t x.1 (s.claimAt false x.2)
  let hurt := (List.range 8).any fun a => ((s.core n).arr a).poison && !(FMap.get Arr.reset was a).poison
  if hurt && s.coreRt n then s.coreTeardown n 3 true else s

/-- One cycle of a core: its writes before its reads (R239). -/
def State.coreCycle (s : State) (n t : Nat) : State := (s.coreWrites n t).coreReads n t

/-! ## Many cycles of a core -/

/-- The next cycle in which an array or a store of the core has something to do. -/
def Core.nextAt (c : Core) : Option Nat :=
  let m := fun (t : Option Nat) (x : Nat) => some (match t with
    | some y => min x y
    | none => x)
  let t := match c.merge with
    | some g => some g.next
    | none => none
  c.arrs.foldl (fun t a =>
    let t := match a.2.reading with
      | some r => m t r.next
      | none => t
    match a.2.drain with
    | some d => m t d.next
    | none => t) t

/-- No fewer cycles than the core's arrays and stores can still take: each serves at least one request, or is held by one of the sequencer or of
a Fennel engine. -/
def Core.work (c : Core) : Nat := c.claims.length + 2 + (c.arrs.map fun a => (a.2.runs.map fun r => 7 * r.need).sum + 8).sum

/-- The cycles before `t` in which core n has something to do, in order. -/
def State.coreRun (n t : Nat) : Nat → State → State
  | 0, s => s
  | k + 1, s =>
    match (s.core n).nextAt with
    | some e => if e < t then State.coreRun n t k (s.coreCycle n e) else s
    | none => s

/-- Core n up to cycle t. -/
def State.coreTo (s : State) (n t : Nat) : State := (State.coreRun n t (s.core n).work s).timedAt s.cyc.when

/-- All that core n's arrays and stores have begun. -/
def State.coreFlush (s : State) (n : Nat) : State :=
  let c := s.core n
  s.coreTo n (c.now + (c.arrs.foldl (fun m a => max m a.2.doneAt) 0) + 8 * c.work)

/-- Every core that runs, up to the end of this cycle. -/
def State.tickCores (s : State) : State := forEach (s.cores.map (·.1)) s fun s n => s.coreTo n (s.coreNow n + 1)

/-- The grants of cycles up to this one are forgotten. -/
def State.tickClaims (s : State) : State :=
  forEach (s.cores.map (·.1)) s fun s n =>
    let t := s.coreNow n
    s.modCore n fun c => { c with claims := c.claims.filter fun x => decide (t < x.1) }

/-! ## Accesses of the sequencer (R241, R243, R279) -/

/-- A load of `size` bytes at `a` by an instruction issued at t: the bytes as a number (R241, source 0x1). -/
def State.load (s : State) (n t : Nat) (p : Place) (a size : Nat) : Got :=
  let s := (s.coreTo n (t + 2)).timed n (t + 1)
  let r := s.readWord ⟨p.mem, p.off / 8 * 8⟩ (a / 8 * 8) 1 (s.core n).ctx
  ⟨r.st, w64 (r.data.toNat / 2 ^ (8 * (a % 8)) % 2 ^ (8 * size)), r.bad⟩

/-- A store of the `size` low bytes of `v` at `a` by an instruction issued at t. A whole word is placed at t + 1; part of one is merged into the
word read then, which is placed at t + 3 (R279), and not at all when that read is uncorrectable (R281). -/
def State.store (s : State) (n t : Nat) (p : Place) (a size : Nat) (v : Dword) : Got :=
  let wa := a / 8 * 8
  let p8 : Place := ⟨p.mem, p.off / 8 * 8⟩
  if size = 8 then
    let s := s.coreTo n (t + 1)
    let s := forEach (s.placeClaims n p.mem wa) s fun s c => s.coreGrant n (t + 1) c.1 [c.2]
    ⟨((s.coreWrites n (t + 1)).timed n (t + 1)).storeWord n p8 wa v, 0, false⟩
  else
    let s := (s.coreTo n (t + 2)).timed n (t + 1)
    let r := s.readWord p8 wa 1 (s.core n).ctx
    if r.bad then ⟨r.st, 0, true⟩
    else
      let new := wordMask a ((leBytes 8 v.toNat).take size |>.map some) wa
      ⟨r.st.modCore n fun c => { c with merge := some ⟨t + 3, wa, mergeBytes r.data new⟩ }, 0, false⟩

/-- A wide read of 64 bytes from `a` by an instruction issued at t, as 16 lanes (R144, R239, R274). -/
def State.readLanes (s : State) (n t a : Nat) : State × List Word × Bool :=
  let s := ((s.coreTo n (t + 1)).coreGrant n (t + 1) ordSeq (s.claimAt false a)).coreCycle n (t + 1)
  let ws := (wordsOf a 64).filterMap fun wa => (s.place wa).map fun p => let w := s.stored p wa; (eccDeliver (eccDecode w.syn) w.data, (eccDecode w.syn).bad)
  (s, ws.flatMap fun d => [lo32 d.1, hi32 d.1], ws.any (·.2))

/-- A wide write of 64 bytes from `a` by an instruction issued at t (R144, R241). -/
def State.storeLanes (s : State) (n t a : Nat) (ws : List Dword) : State :=
  let s := ((s.coreTo n (t + 1)).coreGrant n (t + 1) ordSeq (s.claimAt true a)).timed n (t + 1)
  s.writeLanes n a ws (s.core n).poison

end Sys2Proof.Machine
end

