-- ==== Sys2Proof/Machine/DmaOps.lean ====
section
/-! DEFINITION. The DMA channels' shared operations: descriptors, addresses, halts, row transfers, and the answers of host memory and
the partner (R29, R31, R307 to R320, R369, R405, R406, R428). -/

namespace Sys2Proof.Machine

/-! ## Registers of a channel -/

/-- Channel k of the device is channel k mod 8 of cluster k / 8. -/
def chReg (f : Nat → Nat → Nat) (k : Nat) : Nat := f (k / 8) (k % 8)

/-- The channel changed. -/
def State.modDma (s : State) (k : Nat) (f : DmaChan → DmaChan) : State := s.setDma k (f (s.dmaOf k))

/-- The channel's cluster is populated. -/
def State.hasChan (s : State) (k : Nat) : Bool := decide (k / 8 < s.nClusters)

/-! ## Halts (R317, R318, R428) -/

/-- Halt causes. -/
def causeUNMAPPED : Nat := 1
def causeBANKOFF : Nat := 2
def causeUE : Nat := 3
def causeDESC : Nat := 4
def causeCHAIN : Nat := 5
def causeWDOG : Nat := 6
def causeLINK : Nat := 7

/-- A channel halts with a cause, a source for an uncorrectable read, and the failing address (R318); a watchdog or link halt of a chain
that a slot or DMAGO started clears itself unless its run has reached three (R428). -/
def State.dmaHalt (s : State) (k cause src : Nat) (addr : Nat) : State :=
  let c := s.dmaOf k
  let s := (s.setDma k { c with st := .halt, cause := cause, issued := false, segs := c.inAir, waits := none }).dropWait k
  let s := (s.wr64 (chReg R.DMA_CHADDR k) (w64 addr)).setBits (R.DMA_FLAGS (k / 8)) (bitMask (k % 8))
  let s := s.event 0x0A01
    (w32 (k / 8 + k % 8 * 2 ^ 4 + cause * 2 ^ 8 + src * 2 ^ 16 + c.didx * 2 ^ 20)) none
  let s := s.escFail 3 k 0 cause
  let s := s.dropCmd (.dma k)
  if (cause = causeWDOG ∨ cause = causeLINK) ∧ !c.host ∧ (s.escOf (escKey 3 k 0)).run < 3 ∧ !s.escalated 3 k 0 then s.dmaIdle k
  else s

/-! ## Descriptors (R308 to R311) -/

/-- Address of descriptor i of cluster m (R308). -/
def State.descAddr (s : State) (m i : Nat) : Nat := memBase (128 + m) + (s.act (R.DMA_DBASE m)).toNat + 32 * i

/-- An address in a memory of cluster m. -/
def State.ownAddr (s : State) (m a : Nat) : Bool :=
  match s.place a with
  | some p => decide (p.mem < 144) && memCluster p.mem == m
  | none => false

/-- A COPY or FILL that R311 allows with VAR at 0. -/
def Desc.compiledOk (d : Desc) : Bool :=
  let s := d.src.toNat
  let t := d.dst.toNat
  onDie t && t % 8 == 0 && d.len % 8 == 0 && (d.op == 2 || (onDie s && s % 8 == 0 && s % 128 == t % 128))

/-- The descriptor holds a reserved value (R309). -/
def Desc.reserved (d : Desc) : Bool :=
  decide (d.op > 5) || d.w0.getLsbD 24 || fld d.w0 0 12 != 0 || fld d.w7 0 10 != 0 ||
    ((d.op == 1 || d.op == 2) && (d.len == 0 || (d.sigc && d.amount == 0))) || (d.op == 3 && d.amount == 0)

/-! ## Addresses (R29, R31, R76, R310, R405) -/

/-- Where an address leads, for channel k. -/
inductive DmaEnd where
  | die | lp | host (h : Nat) | partner (off : Nat) | none
  deriving DecidableEq, Repr

/-- First address of the partner window (R9). -/
def partnerBase : Nat := 0x10000000000

/-- The end an address is, for channel k (R31, R76, R310). -/
def State.dmaEndOf (s : State) (k a : Nat) : DmaEnd :=
  let m := k / 8
  match s.place a with
  | some p =>
    if p.mem = 144 then .lp
    else if memCluster p.mem = m then .die
    else match s.partOf m with
      | some q => if s.hasCluster q (memCluster p.mem) then .die else .none
      | none => .none
  | none =>
    match hostAddr a with
    | some h => .host h
    | none => if partnerBase ≤ a ∧ a < 2 * partnerBase then .partner (a - partnerBase) else .none

/-- A range lies in the memories of cluster m, at both its ends. -/
def State.ownRun (s : State) (m a len : Nat) : Bool := s.ownAddr m a && s.ownAddr m (a + len - 1)

/-- A range lies in core scratchpads and cluster memories that channel k reaches, at both its ends. -/
def State.dieRun (s : State) (k a len : Nat) : Bool := s.dmaEndOf k a == .die && s.dmaEndOf k (a + len - 1) == .die

/-- The descriptor breaks R309, R310 or R311 for channel k: after a VAR descriptor none with VAR 0 may follow, and every run of a compiled one
stays in memories of its partition. -/
def State.descBad (s : State) (k : Nat) (d : Desc) : Bool :=
  let c := s.dmaOf k
  d.reserved || (!c.host && !d.var && c.var) ||
    (d.moves && ((!c.host && !d.var && !(d.compiledOk && d.runs.all fun r => s.dieRun k r.2 d.len && (d.op == 2 || s.dieRun k r.1 d.len))) ||
      !(d.runs.all fun r => s.ownRun (k / 8) r.2 d.len || (d.op == 1 && s.ownRun (k / 8) r.1 d.len))))

/-- What reading the current descriptor gives: the state, and the descriptor unless the channel halted. -/
structure DescRead where
  st   : State
  desc : Option Desc

/-- The current descriptor of channel k read (R313, R317): a place that is not backed, a bank that is off, an uncorrectable word or a
descriptor that breaks the rules halts the channel. -/
def State.dmaFetch (s : State) (k : Nat) : DescRead :=
  let a := s.descAddr (k / 8) (s.dmaOf k).didx
  if !s.openRange a 32 then ⟨s.dmaHalt k causeUNMAPPED 0 a, none⟩
  else
    let r := s.readWide a 32 6 (s.dmaOf k).ctx
    match r.bad with
    | some b => ⟨r.st.dmaHalt k causeUE 6 b, none⟩
    | none =>
      let d := Desc.ofBytes (bytesOf r.words a 32)
      if r.st.descBad k d then ⟨r.st.dmaHalt k causeDESC 0 a, none⟩
      else ⟨r.st.modDma k fun c => { c with var := c.var || d.var, desc := some d }, some d⟩

/-- 64-byte units that a range touches. -/
def units (a len : Nat) : Nat := if len = 0 then 0 else (a + len - 1) / 64 - a / 64 + 1

/-- The bytes of one row have been written: counted, and the watchdog starts again (R319, R323); `off` bytes went through the
off-cluster port. -/
def State.dmaCounted (s : State) (k n port : Nat) : State :=
  let s := (s.addSat (chReg R.DMA_CHBYTES k) n).wr (chReg R.DMA_CHDONE k) (s.rd (chReg R.DMA_CHDONE k) + w32 n)
  (s.addSat (R.DMA_PORTU (k / 8)) port).modDma k fun c => { c with raw := s.tb.raw }

/-- Result of a part of a transfer: the state, and a halt's cause, source and address. -/
structure Moved where
  st   : State
  fail : Option (Nat × Nat × Nat)

/-- The context areas that a batch slot's chain on channel k may not write (R84): of positions that do not qualify, or are torn down. -/
def State.dmaHidden (s : State) (k : Nat) : List (Nat × Nat) :=
  let c := s.dmaOf k
  match c.slot with
  | none => []
  | some i =>
    let t := s.slot c.part i
    let q := (FMap.get [] s.sch.work (c.part * 1024 + i)).map (·.1)
    if !t.batch then []
    else ((s.slotCtxs t fun h => h / 8 == k / 8).filter fun x => !q.contains x || s.isTorn x).map fun x => (s.ctxArea x, s.ctxSize x)

/-- Bytes written from `a` but for those that lie in an area of `hide`; when a row of them cannot be written, none is (R318). -/
def State.writeShown (s : State) (hide : List (Nat × Nat)) (a : Nat) (bs : List Byte) (ctx : Option Nat) : Wrote :=
  let hid := fun b => hide.any fun h => decide (h.1 ≤ b) && decide (b < h.1 + h.2)
  let data := bs.zipIdx.map fun x => if hid (a + x.2) then none else some x.1
  let w := (rowsOf a bs.length).foldl (fun (w : Wrote) row =>
    match w.bad with
    | some _ => w
    | none =>
      let lo := if row < a then a else row
      let hi := if row + 128 < a + bs.length then row + 128 else a + bs.length
      w.st.writeMasked lo ((data.drop (lo - a)).take (hi - lo)) 5 ctx false) ⟨s, none⟩
  if w.bad.isSome then { w with st := { w.st with mem := s.mem, syn := s.syn, cores := s.cores } } else w

/-- A write of `bs` by channel k from `a` (R281, R317, R448). -/
def State.dmaWrite (s : State) (k a : Nat) (bs : List Byte) : Moved :=
  match s.dmaEndOf k a with
  | .die | .lp =>
    if !s.backed a bs.length then ⟨s, some (causeUNMAPPED, 0, a)⟩
    else if !(rowsOf a bs.length).all s.openAt then ⟨s, some (causeBANKOFF, 0, a)⟩
    else
      match (if (s.dmaOf k).host then s.lockedBy a bs.length else none) with
      | some p => ⟨s.lockWrite p 2, some (causeUNMAPPED, 0, a)⟩
      | none =>
        let w := s.writeShown (s.dmaHidden k) a bs (s.dmaOf k).ctx
        match w.bad with
        | some b => ⟨w.st, some (causeUE, 5, b)⟩
        | none => ⟨w.st.dmaCounted k bs.length (if s.ownAddr (k / 8) a then 0 else units a bs.length), none⟩
  | .host h =>
    if !s.outFails then ⟨(s.emit (.hostWrite h bs)).dmaCounted k bs.length (units a bs.length), none⟩
    else ⟨s.pcieFail k 4, some (causeLINK, 0, a)⟩
  | _ => ⟨s, some (causeUNMAPPED, 0, a)⟩

/-! ## Transfers -/

/-- The parts of a run that fall within one 128-byte source row: source, destination and length (R313). -/
def rowParts (src dst len : Nat) : List (Nat × Nat × Nat) :=
  (rowsOf src len).map fun row =>
    let lo := if row < src then src else row
    let hi := if row + 128 < src + len then row + 128 else src + len
    (lo, dst + (lo - src), hi - lo)

/-- Bytes read by a channel, or why it halts. -/
structure DmaRead where
  st    : State
  bytes : Except (Nat × Nat × Nat) (List Byte)

/-- A source on the device read by channel k. -/
def State.dmaRead (s : State) (k src len : Nat) : DmaRead :=
  if !s.openRange src len then ⟨s, .error (causeUNMAPPED, 0, src)⟩
  else
    let r := s.readAny src len 5 (s.dmaOf k).ctx
    match r.bad with
    | some b => ⟨r.st, .error (causeUE, 5, b)⟩
    | none => ⟨if s.ownAddr (k / 8) src then r.st else r.st.addSat (R.DMA_PORTU (k / 8)) (units src len), .ok (bytesOf r.words src len)⟩

/-- One row moved by the service channel. -/
def State.dmaRow (s : State) (k src dst len : Nat) : Moved :=
  let r := s.dmaRead k src len
  match r.bytes with
  | .error f => ⟨r.st, some f⟩
  | .ok bs => r.st.dmaWrite k dst bs

/-- What asking for a part of an off-device source gives: the state, and the tag under which it was asked for; none when no tag is free; or a
link halt. -/
structure DmaAsk where
  st  : State
  tag : Except Unit (Option Nat)

/-- A read of host memory or of the partner leaves (R369, R405, R426). -/
def State.dmaRequest (s : State) (k src len : Nat) : DmaAsk :=
  match s.dmaEndOf k src with
  | .host h =>
    if s.outFails then ⟨s.pcieFail k 4, .error ()⟩
    else match s.outRead (.dma k) h len with
      | some t => ⟨t, .ok ((t.host.outbound.getLast?).map (·.tag))⟩
      | none => ⟨s, .ok none⟩
  | .partner off =>
    if s.escalated 4 partner 0 ∨ (s.laneFor false).isNone then ⟨s, .error ()⟩
    else
      let r := s.request partner (.read k) 0x03 (beBytes 8 off ++ beBytes 4 len ++ [0, 0, 0, 0])
      ⟨r.1, .ok (some r.2.toNat)⟩
  | _ => ⟨s, .error ()⟩

/-- A step of a channel: the state, and whether a request of the channel was held. -/
structure DmaStep where
  st   : State
  held : Bool

/-- A request of channel k: what it does when it is granted; a held one is counted (R250, R253). -/
def State.dmaPresent (s : State) (k : Nat) (cs : List Claim) (act : State → State) : DmaStep :=
  let o := (s.dmaOf k).order k
  let held := s.heldOf o cs
  if held.isEmpty then ⟨act (s.grantBus o cs), false⟩ else ⟨s.softHolds held, true⟩

/-- A part of a run issued: its bytes wait to be written, or are awaited. -/
def State.dmaIssue (s : State) (k : Nat) (d : Desc) (n step : Nat) (tag : Option Nat) (data : Option (List Byte)) (wait : Nat) : State :=
  s.modDma k fun c =>
    { c.advance d n step s.tb.raw with
      segs := c.segs ++ [⟨tag, c.srcNow d, c.dstNow d, n, data, s.tb.raw + w64 (5 * wait)⟩] }

/-- The part of its descriptor that channel k issues in this cycle (R313, R314): a row of the source, a row of a FILL, or a read of host memory,
split at the read request size (R405), or of the partner, at 1,024 bytes (R369). A transfer within the cluster issues a row in each cycle and
writes it 2 cycles later, another a row in every second cycle and writes it 8 cycles later (of a variable one DEDUCED, log entry 108). -/
def State.dmaIssues (s : State) (k : Nat) : DmaStep :=
  let c := s.dmaOf k
  match c.issues s.tb.raw with
  | none => ⟨s, false⟩
  | some d =>
    let src := c.srcNow d
    let dst := c.dstNow d
    let left := d.len - c.off
    if d.op = 2 then
      let n := pieceLen 128 dst left
      ⟨s.dmaIssue k d n 1 none (some (d.fill dst n)) 2, false⟩
    else
      match s.dmaEndOf k src with
      | .none => ⟨s.dmaHalt k causeUNMAPPED 0 src, false⟩
      | .die | .lp =>
        let n := pieceLen 128 src left
        let near := s.ownAddr (k / 8) src && s.ownAddr (k / 8) dst
        s.dmaPresent k (s.claimsOf false src n) fun s =>
          let r := s.dmaRead k src n
          match r.bytes with
          | .error (cause, from_, a) => r.st.dmaHalt k cause from_ a
          | .ok bs => r.st.dmaIssue k d n (if near then 1 else 2) none (some bs) (if near then 2 else 8)
      | e =>
        let n := pieceLen (match e with
          | .host _ => s.readSize
          | _ => 1024) src left
        let r := s.dmaRequest k src n
        match r.tag with
        | .error _ => ⟨r.st.dmaHalt k causeLINK 0 src, false⟩
        | .ok none => ⟨r.st, false⟩
        | .ok tag => ⟨r.st.dmaIssue k d n 1 tag none 0, false⟩

/-- A part presented to be written: its failure halts a running channel, and leaves the part unwritten (R318). -/
def State.dmaPut (s : State) (k : Nat) (g : DmaSeg) : DmaStep :=
  s.dmaPresent k (s.claimsOf true g.dst g.len) fun s =>
    let w := (s.modDma k fun c => { c with segs := c.segs.filter fun x => x != g }).dmaWrite k g.dst (g.data.getD [])
    match w.fail, (s.dmaOf k).st with
    | some (cause, src, a), .run => w.st.dmaHalt k cause src a
    | _, _ => w.st

/-! ## Going on (R309, R316, R317, R320) -/

/-- A channel whose chain was ended goes idle when nothing is in flight (R316). -/
def State.dmaSettleEnd (s : State) (k : Nat) : State :=
  let c := s.dmaOf k
  if c.ending && c.segs.isEmpty then s.dmaIdle k else s

/-- The next descriptor starts, or the 4,097th halts the channel (R317). -/
def State.dmaNext (s : State) (k next : Nat) : State :=
  let s := s.wr (chReg R.DMA_CHDONE k) 0
  let s := s.modDma k fun c => { c with st := .run, didx := next, issued := false, desc := none, segs := c.read, count := c.count + 1, raw := s.tb.raw }
  if (s.dmaOf k).count > 4096 then s.dmaHalt k causeCHAIN 0 (s.descAddr (k / 8) next) else s

/-- The chain has completed through LAST: its run of halts ends, and its slot's command completes (R426). -/
def State.dmaDone (s : State) (k : Nat) : State :=
  let s := s.escOk 3 k 0
  let s := match s.cmdOn (.dma k) with
    | some r => s.completeCmd r
    | none => s
  s.dmaIdle k

/-- One cycle of channel k: the part it issues, and those it writes; a hold moves what is still to come of a compiled chain (R313). -/
def State.dmaCycle (s : State) (k : Nat) : State :=
  let i := s.dmaIssues k
  let w := ((s.dmaOf k).puts s.tb.raw).foldl (fun (w : DmaStep) g => let x := w.st.dmaPut k g; ⟨x.st, w.held || x.held⟩) i
  (if w.held then w.st.modDma k DmaChan.hold else w.st).dmaSettleEnd k

/-- The channels' part of a cycle, in the order of their requests (R248, R249). -/
def State.tickDma (s : State) : State :=
  let near := s.dma.filter fun (x : Nat × DmaChan) => x.2.desc.any Desc.bothDie
  let far := s.dma.filter fun (x : Nat × DmaChan) => !(x.2.desc.any Desc.bothDie)
  forEach (near ++ far) s fun s x => s.dmaCycle x.1

/-- The channel may act on its current descriptor: a chain that DMAGO started begins in the cycle after its issue (R312). -/
def State.dmaReady (s : State) (k : Nat) : Bool :=
  let c := s.dmaOf k
  s.hasChan k && c.st == .run && !c.issued && !c.ending && c.segs.isEmpty && !(c.go.any fun g => decide (s.tb.raw.toNat < g.2.2.toNat))

/-- What a descriptor of operation `op` does, on a channel that is ready for it and whose read of it is granted; a descriptor that another command
names, or that halts the channel, is not done. -/
def State.dmaAct (s : State) (k op : Nat) (body : State → Desc → State) : State :=
  if !s.dmaReady k then s
  else
    let a := s.descAddr (k / 8) (s.dmaOf k).didx
    s.ask (if (s.dmaOf k).var then ordOffDie k else ordOnDie k) (s.claimsOf false a 32) fun s =>
      let r := s.dmaFetch k
      match r.desc with
      | none => r.st
      | some d => if d.op = op then body r.st d else s

/-- The channel acts on its current descriptor. -/
def State.dmaIssued (s : State) (k : Nat) : State :=
  s.modDma k fun c => { c with issued := true, run := 0, off := 0, nextAt := s.tb.raw }

/-! ## Answers from host memory and the partner -/

/-- The rows of the destination that data fill, one presented in each cycle from a raw time on. -/
def rowSegs (g : DmaSeg) (bs : List Byte) (raw : Dword) : List DmaSeg :=
  (rowsOf g.dst g.len).zipIdx.map fun x =>
    let lo := if x.1 < g.dst then g.dst else x.1
    let hi := if x.1 + 128 < g.dst + g.len then x.1 + 128 else g.dst + g.len
    ⟨none, g.src + (lo - g.dst), lo, hi - lo, some ((bs.drop (lo - g.dst)).take (hi - lo)), raw + w64 (5 * x.2)⟩

/-- The data of a read of channel k arrive: they wait to be written to their destination, whatever has happened to the chain (R316, R318). -/
def State.dmaData (s : State) (k tag : Nat) (data : List Byte) : State :=
  match (s.dmaOf k).segs.find? fun g => g.tag == some tag with
  | none => s
  | some g =>
    (s.modDma k fun c => { c with segs := (c.segs.filter fun x => x.tag != some tag) ++ rowSegs g data s.tb.raw }).addSat
      (R.DMA_PORTU (k / 8)) (units g.src g.len)

/-- A read of channel k has failed: it halts with DMA_LINK (R317). -/
def State.dmaLost (s : State) (k tag : Nat) : State :=
  let c := s.dmaOf k
  match c.segs.find? fun g => g.tag == some tag with
  | none => s
  | some g =>
    let s := s.modDma k fun c => { c with segs := c.segs.filter fun x => x.tag != some tag }
    if c.st = .run then s.dmaHalt k causeLINK 0 g.src else s

end Sys2Proof.Machine
end

