-- ==== Sys2Proof/Machine/Place.lean ====
section
/-! DEFINITION. Placement of measurements and substitution (R343 to R348), the items that wait for the mirror link (R370, R381), and the
service of Carr transactions (R349, R351). -/

namespace Sys2Proof.Machine

/-! ## Items for the partner (R370) -/

/-- An item queued for a MIRROR frame of a subtype, in PAIRED. -/
def State.mirItem (s : State) (sub : Nat) (item : List Byte) : State :=
  if !s.paired then s
  else { s with pair := { s.pair with
      items := FMap.set [] s.pair.items sub (FMap.get [] s.pair.items sub ++ [(item, s.tb.raw)]) } }

/-! ## Input tags and halves (R345, R377) -/

/-- Key of an input tag. -/
def tagKey (ctx job half : Nat) : Nat := (4 * ctx + job) * 2 + half

/-- The tag of a half. -/
def State.tag (s : State) (ctx job half : Nat) : InTag := FMap.get InTag.none s.net.tags (tagKey ctx job half)

/-- The tag of a half replaced. -/
def State.setTag (s : State) (ctx job half : Nat) (t : InTag) : State :=
  { s with net := { s.net with tags := FMap.set InTag.none s.net.tags (tagKey ctx job half) t } }

/-- AJOB of a context. -/
def State.ajob (s : State) (ctx : Nat) : Nat := s.field (R.SCH_RB ctx 6) 26 2

/-- A job has an input area of its own (INPEN). -/
def State.inpen (s : State) (ctx job : Nat) : Bool := (s.rd (R.SCH_RB ctx 6)).getLsbD (22 + job)

/-- The fill half of a context's job: STEP mod 2 for job 0, ASTEP mod 2 for job AJOB, else the frame counter mod 2. -/
def State.fillHalf (s : State) (ctx job : Nat) : Nat :=
  (s.jobStep ((s.ctxPart ctx).getD 0) (s.jobGroup ctx job) ctx job).toNat % 2

/-! ## Placement (R346, R347) -/

/-- The 32-byte placement record. -/
def Placing.record (p : Placing) (complete : Bool) : List Byte :=
  leBytes 8 (b2n complete * 2 ^ 63 + b2n p.tag.stale * (2 ^ 62 + 2 ^ 61) + b2n p.tag.gap * 2 ^ 60 + p.age * 2 ^ 48 + p.tag.len * 2 ^ 32 +
    p.tag.seq.toNat) ++ leBytes 8 p.tag.step.toNat ++ leBytes 4 p.tag.ts.toNat ++ leBytes 4 p.rx.toNat ++ leBytes 1 p.port ++
    leBytes 1 p.ver ++ leBytes 2 p.gapCnt ++ leBytes 4 0

/-- Address of the half a placement writes. -/
def Placing.addr (p : Placing) : Nat := p.area + p.half * p.hlen

/-- The place takes a placement write for a context: backed, in its partition, in a bank that performs accesses. -/
def State.placeable (s : State) (ctx a : Nat) : Bool :=
  match s.place a with
  | some p => decide (p.mem < 144) && !s.bankGated p.mem (bankOf p.mem p.off) &&
      (match s.ctxPart ctx with
        | some q => s.hasCluster q (memCluster p.mem)
        | none => false)
  | none => false

/-- What a placement write gives. -/
structure PWrote where
  st : State
  ok : Bool

/-- A write of a placement, row by row until one fails (R347; source 0xC). -/
def State.placeWrite (s : State) (ctx a : Nat) (bs : List Byte) : PWrote :=
  (rowsOf a bs.length).foldl (fun (w : PWrote) row =>
    if !w.ok then w
    else
      let lo := if row < a then a else row
      let hi := if row + 128 < a + bs.length then row + 128 else a + bs.length
      if !w.st.placeable ctx lo then ⟨w.st, false⟩
      else
        let r := w.st.writeMasked lo (((bs.drop (lo - a)).take (hi - lo)).map some) 0xC (some ctx) false
        ⟨r.st, r.bad.isNone⟩) ⟨s, true⟩

/-- The frame a placement came from, for a violation record. -/
def Placing.carr (p : Placing) : Carr :=
  { ver := p.ver, typ := 1, flags := 0, seq := p.tag.seq, ctx := p.ctx, len := p.tag.len, step := p.tag.step, ts := p.tag.ts
    payload := p.payload, crc := p.tag.crc }

/-- A placement that ends with PLFAIL. -/
def State.placeFail (s : State) (p : Placing) : State := s.viol 13 p.port p.entry p.carr p.rx

/-- Stages 1 and 2 of a placement: its half holds no placed payload from the first write on. -/
def State.placeStages (s : State) (p : Placing) : PWrote :=
  let s := s.setTag p.ctx p.job p.half InTag.none
  let w := s.placeWrite p.ctx p.addr ((p.record false).take 8)
  if w.ok then w.st.placeWrite p.ctx (p.addr + 8) ((p.record false).drop 8 ++ p.payload) else w

/-- A substitution as it begins: the latched half's record and payload, unless the fill half holds a placed payload or the latched half no
whole one (R348). -/
def State.substFill (s : State) (p : Placing) : State × Option Placing :=
  let a := p.area + (1 - p.half) * p.hlen
  if (s.tag p.ctx p.job p.half).complete || !s.placeable p.ctx a || !s.openRange a p.hlen then (s, none)
  else
    let r := s.readWide a 32 0xC (some p.ctx)
    let rec_ := bytesOf r.words a 32
    let w := leAt rec_ 0 8
    let len := w / 2 ^ 32 % 2 ^ 16
    if !w.testBit 63 ∨ r.bad.isSome ∨ p.hlen < 32 + len then (r.st, none)
    else
      let q := r.st.readWide (a + 32) len 0xC (some p.ctx)
      if q.bad.isSome then (q.st, none)
      else
        let payload := bytesOf q.words (a + 32) len
        let tag : InTag := { seq := w32 w, len := len, crc := crc32c payload, complete := false, stale := true, gap := w.testBit 60
                             step := w64 (leAt rec_ 8 8), ts := w32 (leAt rec_ 16 4) }
        (q.st, some { p with
          tag := tag, age := satTo 255 (w / 2 ^ 48 % 256), rx := w32 (leAt rec_ 20 4), port := leAt rec_ 24 1, ver := leAt rec_ 25 1
          gapCnt := leAt rec_ 26 2, payload := payload })

/-- The fill half chosen and stages 1 and 2 made; the placement is gone when a write fails, and a substitution when it cannot be made. -/
def State.placeBegin (s : State) (p : Placing) : State × Option Placing :=
  let p := { p with half := s.fillHalf p.ctx p.job, begun := true }
  let x := if p.subst then s.substFill p else (s, some p)
  match x.2 with
  | none => (x.1, none)
  | some p =>
    let w := x.1.placeStages p
    if w.ok then (w.st, some p) else (w.st.placeFail p, none)

/-- Waiting placements begin in order: at most four at once, one of a context-job (R347). -/
def State.placeNext (s : State) : State :=
  let r := s.net.placing.foldl (fun (x : State × List Placing) p =>
    if p.begun then (x.1, x.2 ++ [p])
    else if (x.2.filter Placing.begun).length ≥ 4 ∨
        ((x.2 ++ s.net.placing.filter Placing.begun).any fun q => q.ctx == p.ctx && q.job == p.job) then (x.1, x.2 ++ [p])
    else
      let b := x.1.placeBegin p
      match b.2 with
      | some p => (b.1, x.2 ++ [p])
      | none => (b.1, x.2)) (s, [])
  { r.1 with net := { r.1.net with placing := r.2 } }

/-- A placement later than another of its context-job: by receive stamp, then port (R347). -/
def Placing.after (p q : Placing) : Bool :=
  p.ctx == q.ctx && p.job == q.job && !p.begun && (decide ((p.rx - q.rx).toInt > 0) || (p.rx == q.rx && decide (q.port < p.port)))

/-- A placement put in its place among those that wait. -/
def placeInsert (l : List Placing) (p : Placing) : List Placing :=
  match l.findIdx? fun q => q.after p with
  | some i => l.take i ++ p :: l.drop i
  | none => l ++ [p]

/-- A placement accepted: it begins at once when it can. -/
def State.placeAdd (s : State) (p : Placing) : State :=
  { s with net := { s.net with placing := placeInsert s.net.placing p } }.placeNext

/-- The input notice of a placement (R381). -/
def Placing.notice (p : Placing) : List Byte :=
  leBytes 4 (p.ctx + p.job * 2 ^ 12) ++ leBytes 4 p.tag.seq.toNat ++ leBytes 8 p.tag.step.toNat ++ leBytes 4 p.tag.crc.toNat ++
    leBytes 4 (p.tag.len + b2n p.tag.stale * 2 ^ 16)

/-- The SIGNAL of a completed placement; an object outside the partition is not posted and counts as PLFAIL (R346, R347). -/
def State.placeSignal (s : State) (p : Placing) : State :=
  match p.obj with
  | none => s
  | some o =>
    match s.ctxPart p.ctx with
    | some q => if s.hasCluster q (o / 1024) then s.post o 8 (.signal 1) else s.placeFail p
    | none => s.placeFail p

/-- A placement completes: COMPLETE is written, its payload counts as placed, and the partner is told (R346, R381). -/
def State.placeDone (s : State) (p : Placing) : State :=
  let w := s.placeWrite p.ctx p.addr ((p.record true).take 8)
  let s := { w.st with net := { w.st.net with placing := w.st.net.placing.filter fun q => !(q.ctx == p.ctx && q.job == p.job && q.begun) } }
  if !w.ok then (s.placeFail p).placeNext
  else
    let s := s.setTag p.ctx p.job p.half { p.tag with complete := true }
    let s := s.placeSignal p
    let s := s.bump (if p.subst then R.CARR_SUBST else R.CARR_PLACED)
    let s := if p.fwd then s.bump R.MIR_FWDC else s
    let s := { s with pair := { s.pair with waits := s.pair.waits.filter fun x => !(x.1 == 4 * p.ctx + p.job && x.2.1 == p.tag.seq) } }
    (s.mirItem 0x03 p.notice).placeNext

/-! ## Checks 8 to 10 of a MEAS (R342 to R345, R348) -/

/-- The area of a context's input under a PLACE entry (R345). -/
def State.inputArea (s : State) (ctx : Nat) (e : PEntry) : Nat := s.ctxArea ctx + e.ioff

/-- A placement under an entry: its object and the fields that all placements share. -/
def State.placing (s : State) (e : PEntry) (i ctx job : Nat) (tag : InTag) (age : Nat) (rx : Word) (port ver gapCnt : Nat)
    (payload : List Byte) (fwd subst : Bool) : Placing :=
  { ctx := ctx, job := job, half := s.fillHalf ctx job, area := s.inputArea ctx e, hlen := e.hlen
    obj := if e.objstr = 0 then none else some (e.objbase + (ctx - e.ctxlo) * e.objstr)
    entry := i, tag := tag, age := age, rx := rx, port := port, ver := ver, gapCnt := gapCnt, payload := payload, begun := false, fwd := fwd
    subst := subst }

/-- The context is active and the job takes placements (R345). -/
def State.takesInput (s : State) (ctx job : Nat) : Bool := s.active ctx && s.inpen ctx job

/-- A MEAS that is CRC, STALE or EARLY is replaced by a copy of the latched half, or dropped (R348): the copy takes its turn among the
placements of its context-job, and is made of what the halves then hold. -/
def State.substitute (s : State) (e : PEntry) (i ctx job : Nat) (rx : Word) : State :=
  if !(e.subst && s.takesInput ctx job && !(s.tag ctx job (s.fillHalf ctx job)).complete) then s
  else s.placeAdd (s.placing e i ctx job InTag.none 0 rx 5 0 0 [] false true)

/-- The time check of a MEAS (R344): none, STALE (6) or EARLY (7). -/
def timeCheck (e : PEntry) (rx ts : Word) : Option Nat :=
  let age := (rx - ts).toInt
  if e.maxage ≠ 0 ∧ age > e.maxage * 1000 then some 6
  else if e.maxlead ≠ 0 ∧ -age > e.maxlead * 1000 then some 7
  else none

/-- A gap of `n` missing frames: one violation, and each frame counted (R343). -/
def State.gapCase (s : State) (n src i : Nat) (h : Carr) (stamp : Word) : State :=
  if n = 0 then s else (s.viol 4 src i h stamp).addSat (R.CARR_VCNT 4) (n - 1)

/-- The frames that a difference says are missing. -/
def missing (d : Option Int) : Nat :=
  match d with
  | some d => (d - 1).toNat
  | none => 0

/-- Checks 8 to 10 of a MEAS, received or forwarded: sequence, which SMANY leaves out, time, and placement. -/
def State.measTail (s : State) (h : Carr) (i : Nat) (e : PEntry) (rx : Word) (port src : Nat) (fwd : Bool) : State :=
  let job := if e.job then s.ajob h.ctx else 0
  let key := 2 * h.ctx + b2n e.job
  let d := if e.smany then none else seqDiff (FMap.find s.net.measSeq key) h.seq
  if (match d with
      | some d => decide (d ≤ 0)
      | none => false) then s.viol 5 src i h rx
  else
    let gap := missing d
    let s := s.gapCase gap src i h rx
    match timeCheck e rx h.ts with
    | some k => (s.viol k src i h rx).substitute e i h.ctx job rx
    | none =>
      if !s.takesInput h.ctx job then s.viol 13 src i h rx
      else
        let s := if e.smany then s else { s with net := { s.net with measSeq := FMap.upd s.net.measSeq key (some h.seq) } }
        let tag : InTag := { seq := h.seq, len := h.len, crc := h.crc, complete := false, stale := false, gap := decide (gap ≠ 0)
                             step := h.step, ts := h.ts }
        s.placeAdd (s.placing e i h.ctx job tag 0 rx port h.ver (min gap 65535) h.payload fwd false)

/-! ## Reception of the Carr types -/

/-- The payload length a type requires (R342, check 6). -/
def typeLenOk (h : Carr) : Bool :=
  match h.typ with
  | 0x03 => h.len == 16
  | 0x04 => decide (16 ≤ h.len) && h.len == 16 + beAt h.payload 8 4
  | 0x08 => if h.ver ≤ 2 then h.len == 4 else decide (8 ≤ h.len)
  | 0x09 => h.len == 32
  | _ => true

/-- Checks 6 and 7 of a frame that is not a MEAS under a PLACE entry: length, size and CRC-32C; the state after the one that fails. -/
def State.bodyCheck (s : State) (r : RxFrame) (h : Carr) (i : Nat) : Option State :=
  let dlen := beAt h.payload 8 4
  if !typeLenOk h then some (s.refuse r h 0 i 0)
  else if (h.typ = 0x03 ∨ h.typ = 0x04) ∧ (dlen = 0 ∨ 1024 < dlen) then some (s.refuse r h 9 i 0)
  else if crc32c h.payload ≠ h.crc then some (s.refuse r h 3 i 0)
  else none

/-- Where a received Carr frame goes after checks 1 to 5. -/
inductive Routed where
  | done (st : State)
  | entry (st : State) (h : Carr) (i : Nat) (e : PEntry)

/-- Checks 1 to 5 of a frame of a type on an Ethernet port (R326, R342): DROP and HOST entries act after the checks that hold for them. A frame that is not of the
type, or not on a port, changes nothing. -/
def State.route (s : State) (r : RxFrame) (typ : Nat) : Routed :=
  let h := Carr.parse r.frame.body
  if 4 ≤ r.port ∨ r.frame.etype.toNat ≠ s.etype ∨ h.typ ≠ typ then .done s
  else
    let a := s.accept r
    if !a.ok then .done a.st
    else
      let s := a.st
      match carrGate false h r.frame.body.length with
      | some c => .done (s.refuse r h c 0x1FF 0)
      | none =>
        match s.match_ r h with
        | none => .done (s.noMatch r h)
        | some i =>
          let e := s.pentry i
          if e.act = 0 ∨ e.act = 3 then
            .done ((s.bodyCheck r h i).getD (if e.act = 3 then s.hostRx r i else s))
          else .entry s h i e

/-- Checks 6 to 8 of a transaction under an entry: length, size, CRC-32C and sequence, with its difference d (R343) when its stream keeps
one and is synchronised. -/
inductive TxnCheck where
  | done (st : State)
  | ok (st : State) (d : Option Int)

/-- Checks 6 to 8. -/
def State.txnCheck (s : State) (r : RxFrame) (h : Carr) (i : Nat) (seqd : Bool) : TxnCheck :=
  match s.bodyCheck r h i with
  | some s => .done s
  | none =>
    if !seqd then .ok s none
    else
      let d := seqDiff (FMap.find s.net.txnSeq i) h.seq
      let stamp := s.stampOf (s.rxRaw r)
      .ok (if (match d with
        | some d => decide (d ≤ 0)
        | none => false) then s.viol 5 r.port i h stamp else s.gapCase (missing d) r.port i h stamp) d

/-- The action of a transaction is taken: its stream takes its SEQ (R343). -/
def State.txnTake (s : State) (h : Carr) (i : Nat) (seqd : Bool) (d : Option Int) : State :=
  if !seqd || (match d with
    | some d => decide (d ≤ 0)
    | none => false) then s
  else { s with net := { s.net with txnSeq := FMap.upd s.net.txnSeq i (some h.seq) } }

/-! ## Transactions (R349) -/

/-- The offset of a failing word in double words. -/
def ueOff (a bad : Nat) : Nat := bad / 8 - a / 8

/-- An RD's bytes, or the case that answers it (R349, R369). -/
def State.serveRead (s : State) (a len : Nat) : State × Except (Nat × Nat) (List Byte) :=
  if !s.openRange a len then (s, .error (10, 0))
  else
    let r := s.readAny a len 9 none
    match r.bad with
    | some b => (r.st, .error (11, ueOff a b))
    | none => (r.st, .ok (bytesOf r.words a len))

/-- A range of register space (R9). -/
def inRegs (a len : Nat) : Bool := decide (0x70000000 ≤ a) && decide (a + len ≤ 0x80000000)

/-- Writes of the WRs that are in service: at most four at once; registers are written when the WR completes. -/
def State.txnNext (s : State) : State :=
  let r := s.net.txns.foldl (fun (x : State × List Txn) t =>
    if t.begun ∨ 4 ≤ (x.2.filter Txn.begun).length then (x.1, x.2 ++ [t])
    else if inRegs t.addr t.data.length then (x.1, x.2 ++ [{ t with begun := true, bad := none }])
    else
      let w := x.1.writeBytes t.addr t.data 9 none false
      (w.st, x.2 ++ [{ t with begun := true, bad := w.bad.map (ueOff t.addr) }])) (s, [])
  { r.1 with net := { r.1.net with txns := r.2 } }

/-! ## Requests answered and failed (R351, R426) -/

/-- A request leaves the list. -/
def State.dropReq (s : State) (peer : Nat) (seq : Word) : State :=
  { s with net := { s.net with requests := s.net.requests.filter fun q => !(q.peer == peer && q.seq == seq) } }

/-- The outstanding request of a peer and SEQ. -/
def State.findReq (s : State) (peer : Nat) (seq : Word) : Option Request :=
  s.net.requests.find? fun q => q.peer == peer && q.seq == seq

/-- A request fails, by timeout (0) or with a NAK code: logged, counted; a partner read halts its channel, or a
transaction's read is answered with the partner's NAK, or BUSY after a timeout. -/
def State.reqFail (s : State) (q : Request) (code detail : Nat) : State :=
  let s := s.dropReq q.peer q.seq
  let s := (s.event 0x0C02 (w32 ((if q.peer = partner then Config.partnerIndex.toNat else q.peer) + code * 2 ^ 8)) none).escFail 4 q.peer 0 code
  match q.kind with
  | .hello => s
  | .read k => s.dmaLost k q.seq.toNat
  | .relay who => if code = 0 then s.nak who 0x08 0 else s.nak who code detail

/-- A request answered: the peer's run of failures ends. -/
def State.reqDone (s : State) (q : Request) (data : List Byte) : State :=
  let s := (s.dropReq q.peer q.seq).escOk 4 q.peer 0
  match q.kind with
  | .hello => s
  | .read k => s.dmaData k q.seq.toNat data
  | .relay who => (s.bump R.CARR_TXNCNT).sendAnswer who 0x05 0 data false

/-- A peer has answered a HELLO or sent one: the version is negotiated (R358). Returns whether one is common. -/
def State.negotiate (s : State) (peer vmin vmax : Nat) : State × Bool :=
  let v := min 3 vmax
  let ok := decide (max 2 vmin ≤ v)
  let ver := if ok then v else 0
  let old := (s.peerVer peer).getD 0
  let s := if peer = partner then s.setField R.MIR_STAT 8 8 ver
    else s.wr (R.CARR_PEERST peer) (w32 (b2n ok * 2 ^ 31 + ver * 2 ^ 8 + vmax))
  (if old = ver ∨ peer = partner then s else s.event 0x0C04 (w32 (peer + ver * 2 ^ 8)) none, ok)

end Sys2Proof.Machine
end

