-- ==== Sys2Proof/Machine/MirOps.lean ====
section
/-! DEFINITION. The mirror block's shared operations: reception on a lane, the drive and the pair state, heartbeats, and the frames that carry
waiting items (R364 to R371, R380, R383, R387 to R391, R397). -/

namespace Sys2Proof.Machine

open Sys2Proof

/-! ## Reception on a lane (R365, R370, R383) -/

/-- Subtypes of MIRROR frames. -/
def subHB : Nat := 1
def subDIGEST : Nat := 2
def subINOTE : Nat := 3
def subFWDREQ : Nat := 4
def subFWD : Nat := 5

/-- Item size of a subtype. -/
def mirSize (sub : Nat) : Nat :=
  match sub with
  | 1 => 80
  | 2 => 32
  | 3 => 24
  | _ => 8

/-- Items that a frame of a subtype holds at most. -/
def mirMax (sub : Nat) : Nat :=
  match sub with
  | 2 => 45
  | 3 => 61
  | 4 => 183
  | _ => 1

/-- Bytes of an item that the first fragment carries (R383). -/
def fragBytes : Nat := 1468

/-- The partial item of a lane discarded and counted (R383). -/
def State.dropPartial (s : State) (lane : Nat) : State :=
  match FMap.find s.pair.partials lane with
  | none => s
  | some _ => { s with pair := { s.pair with partials := FMap.upd s.pair.partials lane none } }.bump (R.MIR_LOST lane)

/-- What a frame on a lane is after checks 1 to 3 of R342. -/
inductive MirIn where
  | done (st : State)
  | ok (st : State) (h : Carr)

/-- A Carr frame of a type on a lane: checks 1 to 3, without a parse match. Any frame but its second fragment discards a partial item. -/
def State.mirRoute (s : State) (r : RxFrame) (typ : Nat) : MirIn :=
  let h := Carr.parse r.frame.body
  if r.port < 4 ∨ r.frame.etype.toNat ≠ s.etype ∨ h.typ ≠ typ then .done s
  else
    let a := s.accept r
    if !a.ok then .done a.st
    else
      let second := h.typ == 0x0A && beAt h.payload 0 1 == subFWD && beAt h.payload 2 2 == fragBytes
      let s := if second then a.st else a.st.dropPartial (r.port - 4)
      match carrGate true h r.frame.body.length with
      | some c => .done (s.refuse r h c 0x1FF 0)
      | none => .ok s h

/-- A MIRROR frame's SEQ counted against the last of its lane and subtype (R365). -/
def State.mirCount (s : State) (lane sub : Nat) (seq : Word) : State :=
  let k := lane * 8 + sub
  let lost := match FMap.find s.pair.rxSeq k with
    | some l => if (seq - l).toInt > 1 then (seq - l).toNat - 1 else 0
    | none => 0
  { s with pair := { s.pair with rxSeq := FMap.upd s.pair.rxSeq k (some seq) } }.addSat (R.MIR_LOST lane) lost

/-- The LEN that a FWD frame must have: its first fragment or whole item gives LEN of the record, its second what is left (R370, R383). -/
def State.fwdLen (s : State) (lane : Nat) (h : Carr) : Nat :=
  let recLen := fun (b : List Byte) => 32 + leAt b 4 2
  if beAt h.payload 2 2 = 0 then
    if h.flags.testBit 12 then 4 + fragBytes else 4 + recLen (h.payload.drop 4)
  else
    match FMap.find s.pair.partials lane with
    | some (b, _) => 4 + recLen b - fragBytes
    | none => h.len

/-- A MIRROR frame of subtype `sub`: its items' bytes after the checks of length and CRC. A frame of another subtype changes nothing;
one whose SUB is reserved is BAD_LEN under every subtype's command. -/
def State.mirBody (s : State) (r : RxFrame) (sub : Nat) : MirIn :=
  match s.mirRoute r 0x0A with
  | .done st => .done st
  | .ok st h =>
    let b := h.payload
    let known := decide (1 ≤ beAt b 0 1) && decide (beAt b 0 1 ≤ 5) && decide (4 ≤ h.len)
    if known && beAt b 0 1 != sub then .done s
    else
      let want := if sub = subFWD then st.fwdLen (r.port - 4) h else 4 + beAt b 1 1 * mirSize sub
      if !known ∨ h.len ≠ want then .done (st.refuse r h 0 0x1FF 0)
      else if crc32c b ≠ h.crc then .done (st.refuse r h 3 0x1FF 0)
      else .ok (st.mirCount (r.port - 4) sub h.seq) h

/-- The items of a MIRROR frame. -/
def mirItems (h : Carr) : List (List Byte) :=
  (List.range (beAt h.payload 1 1)).map fun i => slice h.payload (4 + i * mirSize (beAt h.payload 0 1)) (mirSize (beAt h.payload 0 1))

/-! ## Pair state and drive (R368, R387, R390, R391, R397) -/

/-- Bits and fields of MIR_STAT. -/
def State.isSecondary (s : State) : Bool := (s.rd R.MIR_STAT).getLsbD 31
def State.drives (s : State) : Bool := (s.rd R.MIR_STAT).getLsbD 30
def State.pstate (s : State) : Nat := s.field R.MIR_STAT 28 2
def State.givep (s : State) : Bool := (s.rd R.MIR_STAT).getLsbD 23

/-- Steps with own records that wait for a match: (context, job, step). -/
def State.openSteps (s : State) : List (Nat × Nat × Dword) :=
  (s.dig.own.map fun r => (r.ctx, r.job, r.step)).eraseDups

/-- The pair state changed, and MIR_PAIR logged; leaving PAIRED, every step still open is UNCHECKED and every record discarded (R368, R385). -/
def State.setPstate (s : State) (p : Nat) : State :=
  if s.pstate = p then s
  else
    let s := if s.pstate = 2 then
        let s := forEach s.openSteps s fun s x => s.settle x.1 x.2.1 x.2.2 6
        { s with dig := { s.dig with own := [], queue := [] }, pair := { s.pair with theirs := [], sumRaw := [] } }
      else s
    let s := s.setField R.MIR_STAT 28 2 p
    s.event 0x0D02 (w32 (p + s.field R.MIR_STAT 8 8 * 2 ^ 8)) none

/-- The part takes the drive (R389 to R391), by cause: 0 misses, 1 TAKE, 2 handover, 3 formation. -/
def State.takeDrive (s : State) (cause : Nat) : State :=
  let s := (s.setBits R.MIR_STAT (bitMask 30)).clrBits R.MIR_STAT (bitMask 22)
  { s with pair := { s.pair with taking := none } }.event 0x0D03 (w32 cause) none

/-- The part gives up the drive, by cause: 0 dual drive, 1 handover, 2 YIELD. -/
def State.yieldDrive (s : State) (cause : Nat) : State :=
  let s := s.clrBits R.MIR_STAT (bitMask 30 ||| bitMask 23)
  { s with pair := { s.pair with giving := none, accepted := false } }.event 0x0D04 (w32 cause) none

/-- The heartbeat group's partition and group in a group of words. -/
def hbPart (cfg : Word) : Nat := fld cfg 25 3
def hbGrp (cfg : Word) : Nat := fld cfg 28 2

/-- R397 forbids a takeover: SKEW of HBPART is set, the hashes differ, and SKEWTAKE is 0. -/
def State.skewBars (s : State) : Bool :=
  let cfg := s.act R.MIR_CFG
  let p := hbPart cfg
  cfg.getLsbD (16 + p) && s.rd64 (R.MIR_BHASH p) != s.rd64 (R.MIR_PHASH p) && !cfg.getLsbD 24

/-! ## Heartbeats (R371, R388, R390, R391) -/

/-- The heartbeat item of this anchor. -/
def State.hbItem (s : State) (accept : Bool) : List Byte :=
  let cfg := s.act R.MIR_CFG
  let tables := (List.range 8).foldl (fun m p => m + b2n (s.partOn p) * 2 ^ p) 0
  leBytes 4 (b2n s.isSecondary * 2 ^ 31 + b2n s.drives * 2 ^ 30 + b2n s.givep * 2 ^ 29 + b2n accept * 2 ^ 28 + tables * 2 ^ 16) ++
    leBytes 4 0 ++ leBytes 8 (s.rd64 (R.SCH_FC (hbPart cfg) (hbGrp cfg))).toNat ++
    (List.range 8).flatMap fun p => leBytes 8 (if s.partOn p then (s.rd64 (R.MIR_BHASH p)).toNat else 0)

/-- What a handover or a formation does at a heartbeat anchor, before the heartbeat is formed (R390, R391); the flag says that this
heartbeat carries ACCEPT. -/
def State.hbAdvance (s : State) : State × Bool :=
  let s := match s.pair.giving with
    | some 0 => { s with pair := { s.pair with giving := some 1 } }.setBits R.MIR_STAT (bitMask 23)
    | some (n + 1) =>
      if 2 ≤ n + 1 ∧ s.pair.accepted then s.yieldDrive 1
      else { s with pair := { s.pair with giving := some (n + 2) } }
    | none => s
  let r := match s.pair.taking with
    | some 0 => ({ s with pair := { s.pair with taking := some 1 } }, true)
    | some (_ + 1) => (s.takeDrive 2, false)
    | none => (s, false)
  let s := r.1
  -- formation: a primary in SEEK that has heard a partner which does not drive
  if s.pstate = 1 ∧ !s.isSecondary ∧ !s.drives ∧ s.pair.peerDrive = some false ∧ s.field R.MIR_STAT 8 8 ≠ 0 then
    ((if s.skewBars then s else s.takeDrive 3).setPstate 2, r.2)
  else (s, r.2)

/-- The heartbeat of a true anchor of the heartbeat group, on every lane that is up (R388). -/
def State.heartbeat (s : State) : State :=
  if s.pstate = 0 then s
  else
    let r := s.hbAdvance
    let item := r.1.hbItem r.2
    let s := forEach [0, 1] r.1 fun s k => if s.laneUp k then s.mirSend k subHB 1 0 0 item else s
    { s with pair := { s.pair with hbRaw := s.tb.raw, hbOpen := true } }

/-! ## Frames of waiting items (R366, R370) -/

/-- The bytes of a digest record (R376). -/
def DigRec.bytes (r : DigRec) : List Byte :=
  leBytes 4 (r.kind * 2 ^ 29 + b2n r.poison * 2 ^ 28 + b2n r.batch * 2 ^ 27 + r.job * 2 ^ 25 + r.layer * 2 ^ 16 + r.part * 2 ^ 12 + r.ctx) ++
    leBytes 4 (r.ord % 2 ^ 16 * 2 ^ 16 + r.nrec % 2 ^ 16) ++ leBytes 8 r.step.toNat ++ leBytes 8 r.digest.toNat ++ leBytes 8 r.extra.toNat

/-- A digest record out of its bytes. -/
def DigRec.ofItem (b : List Byte) : DigRec :=
  let w0 := w32 (leAt b 0 4)
  let w1 := w32 (leAt b 4 4)
  { kind := fld w0 29 3, poison := w0.getLsbD 28, batch := w0.getLsbD 27, job := fld w0 25 2, layer := fld w0 16 8, part := fld w0 12 3
    ctx := fld w0 0 12, ord := fld w1 16 16, nrec := fld w1 0 16, step := w64 (leAt b 8 8), digest := w64 (leAt b 16 8)
    extra := w64 (leAt b 24 8) }

/-- The items that wait under a subtype, with the raw time of each. -/
def State.waitingItems (s : State) (sub : Nat) : List (List Byte × Dword) :=
  if sub = subDIGEST then s.dig.queue.map fun x => (x.1.bytes, x.2) else FMap.get [] s.pair.items sub

/-- The first `n` items of a subtype gone. -/
def State.dropItems (s : State) (sub n : Nat) : State :=
  if sub = subDIGEST then { s with dig := { s.dig with queue := s.dig.queue.drop n } }
  else { s with pair := { s.pair with items := FMap.set [] s.pair.items sub ((FMap.get [] s.pair.items sub).drop n) } }

/-- A forwarded input sent on the class F lane, in one frame or two (R382, R383). -/
def State.sendFwd (s : State) (item : List Byte) : State :=
  match s.laneFor false with
  | none => s
  | some l =>
    if item.length ≤ fragBytes then s.mirSend l subFWD 1 0 0 item
    else (s.mirSend l subFWD 1 0 flagFRAG (item.take fragBytes)).mirSend l subFWD 1 fragBytes 0 (item.drop fragBytes)

end Sys2Proof.Machine
end

