-- ==== Sys2Proof/Machine/Plan.lean ====
section
/-! DEFINITION. The chains of nested slots (R86): where in the windows of its group's frame each slot of a chain runs. -/

namespace Sys2Proof.Machine

/-- A place in the windows of a frame: how many windows after the one at the group's anchor, and a cycle of that window. -/
structure Spot where
  win : Nat
  off : Nat
  deriving DecidableEq, Repr

/-- A run of window cycles within one window: where it begins, and its cycles. -/
abbrev Piece := Spot × Nat

/-- The cycle after a piece. -/
def Piece.fin (x : Piece) : Spot := ⟨x.1.win, x.1.off + x.2⟩

/-- The first place from `c` on, over at most `fuel` windows of `wlen` cycles, with `n` cycles left before the window's end; `used` gives the
cycles of each window that another chain has. -/
def fitSpot (wlen : Nat) (used : Nat → Nat) (n : Nat) : Nat → Spot → Spot
  | 0, c => c
  | fuel + 1, c =>
    let off := max c.off (used c.win)
    if off + n ≤ wlen then ⟨c.win, off⟩ else fitSpot wlen used n fuel ⟨c.win + 1, 0⟩

/-- `n` window cycles from `c` on, in as many windows as they need. -/
def spread (wlen : Nat) (used : Nat → Nat) : Nat → Nat → Spot → List Piece
  | 0, _, _ => []
  | fuel + 1, n, c =>
    if n = 0 then []
    else
      let off := max c.off (used c.win)
      let m := min n (wlen - off)
      (⟨c.win, off⟩, m) :: spread wlen used fuel (n - m) ⟨c.win + 1, 0⟩

/-- Where a nested slot runs: its instances, or a batch's command, none across a window's end; then the rest of LEN. -/
structure SlotPlan where
  slot  : Nat
  units : List Piece
  rest  : List Piece
  deriving DecidableEq, Repr

/-- The cycle after the slot, which began at `c`. -/
def SlotPlan.fin (q : SlotPlan) (c : Spot) : Spot := (((q.units ++ q.rest).getLast?).map Piece.fin).getD c

/-- The unbroken runs of a slot: ILEN cycles for each instance; of a batch its command, compiled at `cmd` cycles. -/
def Slot.unitLens (t : Slot) (cmd : Nat) : List Nat :=
  if t.batch then [min t.len (if cmd = 0 then t.wlen else cmd)] else List.replicate t.count t.ilen

/-- A slot of a chain planned from `c` on, over `num` windows. -/
def planSlot (wlen : Nat) (used : Nat → Nat) (num : Nat) (c : Spot) (i : Nat) (t : Slot) (cmd : Nat) : SlotPlan :=
  let lens := t.unitLens cmd
  let u := lens.foldl (fun (r : List Piece × Spot) n =>
    let x := fitSpot wlen used n (num + 1) r.2
    (r.1 ++ [(x, n)], Piece.fin (x, n))) ([], c)
  ⟨i, u.1, spread wlen used (num + 1) (t.len - lens.sum) u.2⟩

/-- A nested slot of an engine: its number, its entry, and the compiled length of its commands. -/
abbrev Nested := Nat × Slot × Nat

/-- A chain planned from `c` on. -/
def planChain (wlen : Nat) (used : Nat → Nat) (num : Nat) : Spot → List Nested → List SlotPlan
  | _, [] => []
  | c, x :: l =>
    let q := planSlot wlen used num c x.1 x.2.1 x.2.2
    q :: planChain wlen used num (q.fin c) l

/-- The cycle after a chain. -/
def chainFin (l : List SlotPlan) : Spot := l.foldl (fun c q => q.fin c) ⟨0, 0⟩

/-- Cycles of window n that a chain which starts again every `num` windows keeps from the chain after it: all of a window in which it goes
on into the next, and what it uses of the one in which it ends. -/
def usedBy (l : List SlotPlan) (wlen num n : Nat) : Nat :=
  let e := chainFin l
  let k := if num = 0 then n else n % num
  if k < e.win then wlen else if k = e.win then e.off else 0

/-- The chain of group g among the nested slots of an engine, in a table with base group `base` and frame periods `per`; the group M chain
runs before the group S chain. -/
def chainOf (on : List Nested) (base : Nat) (per : Nat → Nat) (g : Nat) : List SlotPlan :=
  let wlen := (on.head?.map fun x => x.2.1.wlen).getD 0
  let num := fun h => if per base = 0 then 0 else per h / per base
  let mine := fun (h : Nat) => on.filter fun x => x.2.1.group == h
  let before := if g = 2 ∧ base ≠ 1 then planChain wlen (fun _ => 0) (num 1) ⟨0, 0⟩ (mine 1) else []
  planChain wlen (usedBy before wlen (num 1)) (num g) ⟨0, 0⟩ (mine g)

/-- The pieces of window n. -/
def SlotPlan.inWin (q : SlotPlan) (n : Nat) : List Piece := (q.units ++ q.rest).filter fun x => x.1.win == n

end Sys2Proof.Machine
end

