-- ==== Sys2Proof/Machine/SchedOps.lean ====
section
/-! DEFINITION. Frames, slot cycles, work lists and the commands that positions begin (R67, R83, R84, R86, R94, R97, R102, R426):
what the engines' start commands share. -/

namespace Sys2Proof.Machine

/-! ## Frames (R67, R77, R78) -/

/-- Before a group's first anchor. -/
def Frame.none : Frame := ⟨0, Option.none, Option.none, false, 0, false, false, [], [], [], 0, false⟩

/-- The frame of group g of partition p. -/
def State.frame (s : State) (p g : Nat) : Frame := FMap.get Frame.none s.sch.frames (4 * p + g)

/-- The frame replaced. -/
def State.setFrame (s : State) (p g : Nat) (f : Frame) : State :=
  { s with sch := { s.sch with frames := FMap.set Frame.none s.sch.frames (4 * p + g) f } }

/-- The base group of partition p. -/
def State.baseGroup (s : State) (p : Nat) : Nat := fld (s.act (R.SCH_PCFG p)) 28 2

/-- The register of a group's nominal frame period. -/
def flenReg (p g : Nat) : Nat :=
  match g with
  | 0 => R.SCH_FLEN_F p
  | 1 => R.SCH_FLEN_M p
  | _ => R.SCH_FLEN_S p

/-- The nominal frame period of group g of partition p, in cycles. -/
def State.flen (s : State) (p g : Nat) : Nat := fld (s.act (flenReg p g)) 0 21

/-- Cycles from the effective anchor of a frame to now; none while it has not come. -/
def State.sinceEff (s : State) (f : Frame) : Option Nat := f.effRaw.map fun r => cyclesBetween r s.tb.raw

/-- The effective anchor by which the slots that run are counted: the frame's, or the previous frame's until it has come (R68). -/
def Frame.counts (f : Frame) : Option Dword := f.effRaw.orElse fun _ => f.prevEff

/-- The chain of group g's nested slots on an engine of partition p (R86). -/
def State.chain (s : State) (p : Nat) (e : Engine) (g : Nat) : List SlotPlan :=
  let on := (List.range (s.nslot p)).filterMap fun i =>
    let t := s.slot p i
    if t.v && t.nest && t.group != 3 && (s.slotEngines p t).contains e then some (i, t, s.cmdLen p i) else none
  chainOf on (s.baseGroup p) (s.flen p) g

/-- The plan of nested slot i on an engine. -/
def State.planOf (s : State) (p i : Nat) (e : Engine) : Option SlotPlan :=
  (s.chain p e (s.slot p i).group).find? fun q => q.slot == i

/-- Now is a place in the windows of a group's frame, with the windows from cycle `start` of the base frame. -/
def State.atSpot (s : State) (p g start : Nat) (x : Spot) : Bool :=
  (s.frame p g).effRaw.isSome && (s.frame p g).wins == x.win &&
  s.sinceEff (s.frame p (s.baseGroup p)) == some (start + x.off)

/-- Where position pos of a nested slot runs on an engine; a batch has position 0 alone. -/
def State.unitOf (s : State) (p i : Nat) (e : Engine) (pos : Nat) : Option Piece := (s.planOf p i e).bind fun q => q.units[pos]?

/-- Now is the first cycle of position pos of a slot on an engine (R83, R84, R86). -/
def State.atPosStart (s : State) (p i : Nat) (t : Slot) (e : Engine) (pos : Nat) : Bool :=
  if t.nest then
    match s.unitOf p i e pos with
    | some x => s.atSpot p t.group t.start x.1
    | none => false
  else s.sinceEff (s.frame p t.group) == some (t.start + pos * t.ilen)

/-- Now is the cycle after position pos of a slot on an engine. -/
def State.atPosEnd (s : State) (p i : Nat) (t : Slot) (e : Engine) (pos : Nat) : Bool :=
  if t.nest then
    match s.unitOf p i e pos with
    | some x => s.atSpot p t.group t.start (Piece.fin x)
    | none => false
  else s.sinceEff (s.frame p t.group) == some (t.start + (if t.batch then t.len else (pos + 1) * t.ilen))

/-- Cycles from now to the start of position pos of a slot on an engine; one at least while its effective anchor, or its window, has not come. -/
def State.untilStart (s : State) (p i : Nat) (t : Slot) (e : Engine) (pos : Nat) : Int :=
  let f := s.frame p t.group
  if t.nest then
    match s.unitOf p i e pos, s.sinceEff f, s.sinceEff (s.frame p (s.baseGroup p)) with
    | some x, some _, some c => if f.wins = x.1.win then ((t.start + x.1.off : Nat) : Int) - c else if f.wins < x.1.win then 1 else -1
    | _, _, _ => 1
  else
    match s.sinceEff f with
    | some c => ((t.start + pos * t.ilen : Nat) : Int) - c
    | none => 1

/-- Cycles from now to the deadline of position pos of a FEN slot: its end counted from the true anchor (R232), of a nested one from the true
anchor of the base frame whose window it ends in. -/
def State.untilDead (s : State) (p i : Nat) (t : Slot) (e : Engine) (pos : Nat) : Int :=
  let f := s.frame p t.group
  let since := fun (f : Frame) => ((cyclesBetween f.trueRaw s.tb.raw : Nat) : Int)
  if t.nest then
    match s.unitOf p i e pos with
    | some x =>
      if f.wins = x.1.win then ((t.start + (Piece.fin x).off : Nat) : Int) - since (s.frame p (s.baseGroup p))
      else if f.wins < x.1.win then 1 else -1
    | none => -1
  else ((t.start + (if t.batch then t.len else min t.len ((pos + 1) * t.ilen)) : Nat) : Int) - since f

/-- Now is the first cycle of a slot, on one of its engines. -/
def State.atSlotStart (s : State) (p i : Nat) (t : Slot) : Bool :=
  if t.nest then (s.slotEngines p t).any fun e => s.atPosStart p i t e 0
  else s.sinceEff (s.frame p t.group) == some t.start

/-- A latency-critical slot of an active table: entry i of partition p, of a kind. -/
def State.lcSlot (s : State) (p i : Nat) : Bool :=
  s.running && s.partOn p && decide (p < 8) && decide (i < s.nslot p) && (s.slot p i).v && decide ((s.slot p i).group ≠ 3)

/-- The slot has started in its frame. -/
def State.slotBegun (s : State) (p i : Nat) : Bool := (s.frame p (s.slot p i).group).started.contains i

/-! ## Work lists (R84, R92, R93) -/

/-- The contexts that qualify for slot i of partition p in its frame, with their sub-frames. -/
def State.workOf (s : State) (p i : Nat) : List (Nat × Nat) := FMap.get [] s.sch.work (p * 1024 + i)

/-- The Reedbed as it stood before the host writes of this cycle, which is what the walk reads (R90). -/
def State.beforeWrites (s : State) : State :=
  { s with regs := s.cyc.rb.foldl (fun (m : FMap Word) x => FMap.set (RegMap.resetValue x.1) m x.1 x.2) s.regs }

/-- Contexts whose entries are active, lowest first. -/
def State.activeCtxs (s : State) : List Nat :=
  s.regs.filterMap fun (c : Nat × Word) =>
    if R.SCH_RB 0 0 ≤ c.1 ∧ c.1 < R.SCH_RB 4096 0 ∧ (c.1 - R.SCH_RB 0 0) % 64 = 24 ∧ c.2.getLsbD 31 then
      some ((c.1 - R.SCH_RB 0 0) / 64)
    else none

/-- A context is one of those an engine's slot serves, by its home core (R84). -/
def State.onEngine (s : State) (e : Engine) (ctx : Nat) : Bool :=
  match e with
  | .seq n => s.home ctx == n
  | .fen m => s.home ctx / 8 == m
  | .dma k => s.home ctx / 8 == k / 8
  | .carr _ => true

/-- The contexts of slot i's work list that an engine serves. -/
def State.qualifying (s : State) (p i : Nat) (e : Engine) : List (Nat × Nat) :=
  (s.workOf p i).filter fun x => s.onEngine e x.1

/-- The instance at a position of a slot among those that qualify, with its sub-frame: INDEX is FIRST plus the position; a batch stands for its
first qualifying instance. Of several contexts of one INDEX the lowest-numbered one. -/
def State.pick (s : State) (t : Slot) (q : List (Nat × Nat)) (pos : Nat) : Option (Nat × Nat) :=
  if t.batch then
    if pos = 0 then
      q.foldl (fun (b : Option (Nat × Nat)) x =>
        match b with
        | some y => if s.ctxIndex x.1 < s.ctxIndex y.1 then some x else b
        | none => some x) none
    else none
  else q.find? fun x => s.ctxIndex x.1 == t.first + pos

/-- The instance at a position of a slot on an engine. -/
def State.atPos (s : State) (p i : Nat) (t : Slot) (e : Engine) (pos : Nat) : Option (Nat × Nat) := s.pick t (s.qualifying p i e) pos

/-- The class is suspended on the engine, or a command of it was halted there by a trap (R143, R426). -/
def State.classHeld (s : State) (jclass : Nat) (e : Engine) : Bool :=
  s.escalated 1 jclass (engEsc e) ||
  (match e with
    | .seq n => (s.core n).halted.any fun h => h.jclass == jclass
    | _ => false)

/-- The command that a position of a slot begins on an engine. -/
def State.newCmd (s : State) (p i pos : Nat) (t : Slot) (e : Engine) (ctx : Option Nat) : RunCmd :=
  { eng := e, part := p, slot := i, pos := pos, kind := t.kind, group := t.group, jclass := t.jclass, atomic := t.atom
    ctx := ctx, raw := s.tb.raw, start := s.tb.raw, held := 0, paused := false }

/-- The active list holds an enabled ANCHOR entry, of a kind (0 PHASE, 1 TIME) if one is given, for partition p, of group g if one is given. -/
def State.hasAnchor (s : State) (kind : Option Nat) (p : Nat) (g : Option Nat) : Bool :=
  (List.range 64).any fun i =>
    let w := s.act (R.TB_EVT i 0)
    let a := s.act (R.TB_EVT i 1)
    w.getLsbD 31 && (kind == none || kind == some (fld w 29 2)) && fld w 24 5 == 1 && fld a 8 3 == p &&
    (g == none || g == some (fld a 0 2))

end Sys2Proof.Machine
end

