-- ==== Sys2Proof/Machine/Fennel.lean ====
section
/-! DEFINITION. The commands of the Fennel engine: the start of a solve, its ops and its deadline (R207 to R236). An op acts whole in
one command; the cycles of R209 and R213 are not modelled (log entry 60). -/

namespace Sys2Proof.Machine

open Sys2Proof

/-! ## The running program (R211, R213) -/

/-- Word w of the program descriptor. -/
def Fennel.dw (e : Fennel) (w : Nat) : Word := FMap.get 0 e.desc w

/-- The program refactors in every iteration (KIND 0b01). -/
def Fennel.ip (e : Fennel) : Bool := fld (e.dw 0) 30 2 == 1

/-- NVR and the bytes of a solution area (R212). -/
def Fennel.nvr (e : Fennel) : Nat := fld (e.dw 0) 16 8
def Fennel.areaLen (e : Fennel) : Nat := (e.nvr + 1) / 2 * 128

/-- Device address of solution area a, or of the safe area at 3 (R212). -/
def Fennel.areaAddr (e : Fennel) (a : Nat) : Nat := e.data + 0x180 + a * e.areaLen

/-- Passes of a block operation (R213). -/
def Fennel.passes (e : Fennel) (pf : Bool) : Nat := if pf then fld (e.dw 0) 28 2 else fld (e.dw 0) 26 2

/-- The factor buffer that a stream's references name (R222, R224): the front one, the back one in the F-stream, and in an interior-point
program each body's own. -/
def Fennel.buffer (e : Fennel) (fstream : Bool) : Nat :=
  if e.ip then e.nit % 2 else if fstream then 1 - e.fbuf else e.fbuf

/-- The device address of a row reference (R213). -/
def Fennel.ref (e : Fennel) (m : Nat) (fstream : Bool) (w : Word) : Nat :=
  e.rowAddr m (fld w 0 17 + (if w.getLsbD 18 then fld (e.dw 14) 0 16 * e.marea else 0) +
    (if w.getLsbD 17 then fld (e.dw 14) 16 16 * e.buffer fstream else 0))

/-- DT, OP and the op's own fields stand in word 0. -/
def fenOpc (op : FenOp) : Nat := fld op.w0 14 6

/-- Keys of `pgOf` for a data block: replacements of the front factor; those of the completed F-bodies of the back factor, and whether
those met a NaN. -/
def pgFront (data : Nat) : Nat := data
def pgBack (data : Nat) : Nat := data + 1
def nanBack (data : Nat) : Nat := data + 2

/-! ## Saturation and failures (R210, R236, R282) -/

/-- NUM_SAT: set once and logged once in a command. -/
def State.fenNumSat (s : State) (m : Nat) : State :=
  let e := s.fenOf m
  if e.numSat then s
  else ((s.modFen m fun e => { e with numSat := true }).setBits (R.FEN_FLAGS m) 4).event 0x0703 (e.arg 0) e.ctx

/-- A binary32 result with infinities saturated, and whether it was one. -/
def fenSat (b : Nat) : Word × Bool := if b % 2 ^ 31 = 0x7F800000 then (w32 (b - 1), true) else (w32 b, false)

/-- Results of several lanes. -/
def fenSats (l : List Nat) : List Word × Bool := (l.map fun b => (fenSat b).1, l.any fun b => (fenSat b).2)

/-- A NaN encoding. -/
def isNaN32 (w : Word) : Bool := decide (0x7F800000 < w.toNat % 2 ^ 31)

/-- An op that forms the factor (R213, R220): in the F-stream every op; in an interior-point body the pivot unit's, the moves of its block
registers, and the block operations with PF at 1. -/
def facOp (op : FenOp) : Bool :=
  op.fstream || (match fenOpc op with
    | 1 => op.w0.getLsbD 8
    | 2 => op.w2.getLsbD 4
    | 6 | 7 | 8 | 9 => true
    | _ => false)

/-- The engine writes elements of a factor: a NaN among them makes it non-finite (R220). -/
def State.fenNaN (s : State) (m : Nat) (op : FenOp) (ws : List Word) : State :=
  if facOp op && (op.fstream || (s.fenOf m).ip) && ws.any isNaN32 then s.modFen m fun e => { e with nanNew := true } else s

/-- An uncorrectable word read by the engine ends a real-time command with the teardown of its context (R101, R282). -/
def State.fenUe (s : State) (m : Nat) (bad : Bool) : State :=
  let e := s.fenOf m
  if bad && s.isRt e.part then
    match e.ctx with
    | some c => s.teardownUe c 3
    | none => s
  else s

/-- Engine m's command commits and has completed (R230, R426). -/
def State.fenFinish (s : State) (m : Nat) (k : FenMark) : State :=
  match s.cmdOn (.fen m) with
  | some r => ((s.fenCommit m k).completeCmd r)
  | none => s.fenCommit m k

/-- The provisional result committed at a deadline or at ITMAX (R230). -/
def State.fenDeadline (s : State) (m : Nat) : State := s.fenFinish m ⟨(s.fenOf m).status, true, false, false⟩

/-! ## The start of a command (R222 to R225, R229, R231) -/

/-- What the engine keeps before a command: its vector and block registers and the counts of each data block's factors. -/
def Fennel.blank (e : Fennel) : Fennel :=
  { Fennel.reset with v := e.v, blk0 := e.blk0, blk1 := e.blk1, pgOf := e.pgOf, pgSav := e.pgOf }

/-- The state row and the revision word taken into the engine (R221, R231). -/
def Fennel.takeRows (e : Fennel) (st : List Dword) (rev : Dword) : Fennel :=
  let a := lo32 (st.getD 0 0)
  let b := hi32 (st.getD 0 0)
  { e with
    wstreak := fld a 8 8, cvalid := a.getLsbD 2, carea := fld a 0 2
    fvalid := b.getLsbD 31, fbuf := fld b 30 1, frun := b.getLsbD 29, fwait := b.getLsbD 28, frejed := b.getLsbD 27
    fprog := fld b 0 16, revF := lo32 (st.getD 1 0), revB := hi32 (st.getD 1 0)
    rev := lo32 rev, marea := fld (hi32 rev) 0 1 }

/-- Step 1 of R222: a waiting factor becomes the front one. -/
def Fennel.takeWaiting (e : Fennel) : Fennel :=
  if e.fwait then
    { e with fwait := false, fvalid := true, fbuf := 1 - e.fbuf, revF := e.revB
             pgOf := FMap.set 0 e.pgOf (pgFront e.data) (FMap.get 0 e.pgOf (pgBack e.data)) }
  else e

/-- Step 2 of R222: a new revision starts the F-stream. -/
def Fennel.startF (e : Fennel) : Fennel :=
  if e.rev ≠ e.revF ∧ !(e.frun && e.rev == e.revB) ∧ !(e.frejed && e.rev == e.revB) ∧ e.dw 3 ≠ 0 then
    { e with frun := true, fprog := 0, revB := e.rev, frejed := false
             pgOf := FMap.set 0 (FMap.set 0 e.pgOf (pgBack e.data) 0) (nanBack e.data) 0 }
  else e

/-- Step 3 of R222, the mark of R235 and the kind of start of R225. -/
def Fennel.judge (e : Fennel) : Fennel :=
  { e with
    stale := !e.ip && e.rev != e.revF
    frej := e.frejed && e.rev == e.revB
    cold := !(e.cvalid && decide (e.wstreak < fld (e.dw 12) 8 8)) }

/-- A Fennel command begins for a context on engine m: the descriptor, then the revision word and the state row are read (R211, R222).
An uncorrectable word tears a real-time context down; elsewhere it only sets the latch (R282). A torn-down context with SAFEACT commits SAFE_VALUE
at once and runs no op (R233). -/
def State.fenBegin (s : State) (m : Nat) (r : RunCmd) (t : Slot) : State :=
  match r.ctx with
  | none => s
  | some ctx =>
    let s := s.setFen m { (s.fenOf m).blank with
      run := true, part := r.part, slot := r.slot, pos := r.pos, jclass := r.jclass, group := r.group, ctx := some ctx
      prog := t.entry % 256, gcore := t.unit % 8, amask := t.amask }
    let s := s.addCmd r
    let n := 8 * m + t.unit % 8
    let s := if s.isRt r.part then s.modCore n fun c => { c with dF := some Digest.empty } else s
    let d := s.fenRead m ((s.act (R.FEN_PTAB m)).toNat / 64 * 64 + 64 * (t.entry % 256)) 64
    let s := d.st
    let ws := d.words.flatMap fun x => [lo32 x, hi32 x]
    let w0 := ws.getD 0 0
    let data := (ws.getD 1 0).toNat + (if w0.getLsbD 25 then s.ctxArea ctx else 0)
    let s := s.modFen m fun e => { e with desc := ws.zipIdx.foldl (fun f x => FMap.set 0 f x.2 x.1) [], data := data }
    let rv := s.fenRead m (data + 0x100) 8
    let sr := rv.st.fenRead m (data + 0x80) 16
    let s := sr.st.modFen m fun e => e.takeRows sr.words (rv.words.getD 0 0)
    if (d.bad || rv.bad || sr.bad) && s.isRt r.part then s.fenUe m true
    else
      let adm := !(s.fenOf m).ip
      let s := (s.modFen m fun e => ((if adm then e.takeWaiting.startF else e)).judge).fenShow m
      if s.isTorn ctx then s.fenFinish m ⟨6, false, false, false⟩ else s

/-- A Fennel position begins on engine m (R84, R102): nothing runs for one without a qualifying context, of a suspended class, or torn
down without SAFEACT. -/
def State.fenStart (s : State) (m p i pos : Nat) (t : Slot) : State :=
  match s.atPos p i t (.fen m) pos with
  | none => s
  | some (ctx, _) =>
    if s.classHeld t.jclass (.fen m) || (s.isTorn ctx && !s.safeact ctx) then s
    else s.fenBegin m (s.newCmd p i pos t (.fen m) (some ctx)) t

/-- Position pos of FEN slot i may begin now on engine m: its deadline has not passed. -/
def State.fenDue (s : State) (m p i pos : Nat) (t : Slot) : Bool :=
  s.lcSlot p i && t.kind == 1 && (s.slotEngines p t).contains (.fen m) && s.slotBegun p i && s.atPosStart p i t (.fen m) pos &&
  (if t.batch then decide (pos = 0) else decide (pos < t.count)) && decide (0 ≤ s.untilDead p i t (.fen m) pos)

/-- FENNEL_COMMAND_START: in the first cycle of an instance position of a FEN slot. A command still there has met its deadline. -/
def execFennelCommandStart (cluster part slot pos : Nat) (s : State) : Host.Outcome State Fault Refusal :=
  let t := s.slot part slot
  .next (
    if !s.fenDue cluster part slot pos t then s
    else
      let s := if (s.fenOf cluster).run then s.fenDeadline cluster else s
      s.fenStart cluster part slot pos t)

/-! ## Factors (R220, R224) -/

/-- A factor with its count of replacements and a NaN is rejected, and why (R220, R236). -/
def Fennel.rejects (e : Fennel) (pg : Nat) (nan : Bool) : Option Nat :=
  if nan then some 2 else if fld (e.dw 12) 16 16 < pg then some 1 else none

/-- FACTOR_REJECT: counted, flagged and logged. -/
def State.fenReject (s : State) (m why : Nat) : State :=
  let e := s.fenOf m
  ((s.bump (R.FEN_FREJC m)).setBits (R.FEN_FLAGS m) 1).event 0x0701 (e.arg why) e.ctx

/-- Op i of a stream at byte address `a` of a cluster memory. -/
def State.opAt (s : State) (m a i : Nat) : FenOp :=
  let w := fun k => w32 (s.peekLe (memBase (128 + m) + a + 16 * i + 4 * k) 4)
  ⟨false, w 0, w 1, w 2, w 3⟩

/-- The ops of a stream up to its END, at most `n` of them. -/
def State.opsOf (s : State) (m a : Nat) : Nat → Nat → List FenOp
  | 0, _ => []
  | n + 1, i =>
    let o := s.opAt m a i
    if fenOpc o = 15 then [o] else o :: State.opsOf s m a n (i + 1)

/-- The factor ops of an iteration body of the running program: those between BODY and NEXT of its I-stream (R213, R216). -/
def State.bodyFacs (s : State) (m : Nat) : Nat :=
  let ops := s.opsOf m ((s.fenOf m).dw 2).toNat 4096 0
  (((ops.dropWhile fun o => fenOpc o != 13).takeWhile fun o => fenOpc o != 14).filter facOp).length

/-- After a factor op of an interior-point body (R220, R224): with the last one the factor is complete, and is judged. A rejected one ends the
command; the count of replacements is that of the factor in use. -/
def State.fenFactor (s : State) (m : Nat) (op : FenOp) : State :=
  let e := s.fenOf m
  if !(e.run && e.ip && e.body && facOp op) then s
  else
    let s := s.modFen m fun e => { e with facs := e.facs + 1 }
    if e.facs + 1 ≠ s.bodyFacs m then s
    else
      match e.rejects e.pgNew e.nanNew with
      | some why => (s.fenReject m why).fenFinish m ⟨5, false, false, false⟩
      | none => s.modFen m fun e => { e with pgOf := FMap.set 0 e.pgOf (pgFront e.data) e.pgNew }

/-! ## Ops -/

/-- Whether an op of a stream is done (R213, R216, R223): the engine runs; F-stream ops in an F-body; bodies without a valid front factor are
timed idle under ADMM. -/
def State.fenActive (s : State) (m : Nat) (op : FenOp) (opc : Nat) : Bool :=
  let e := s.fenOf m
  s.running && decide (m < s.nClusters) && e.run && fenOpc op == opc &&
  (if op.fstream then e.frun && e.fbody else e.ip || !e.body || e.fvalid)

/-- Vector register i of the engine. -/
def Fennel.vr (e : Fennel) (i : Nat) : List Word := (List.range 16).map fun l => FMap.get 0 e.v (16 * i + l)

/-- Vector register i set. -/
def State.fenSetV (s : State) (m i : Nat) (ws : List Word) : State :=
  s.modFen m fun e => { e with v := ws.zipIdx.foldl (fun v x => FMap.set 0 v (16 * i + x.2) x.1) e.v }

/-- Words of a read as 32-bit elements. -/
def elems (ws : List Dword) : List Word := ws.flatMap fun d => [lo32 d, hi32 d]

/-- Column k of a block's elements (R213: column k lies at byte 64 k). -/
def blockCol (ws : List Word) (k : Nat) : List Word := (ws.drop (16 * k)).take 16

/-- A FLOAT command's word 0 for a block operation (R146, R165). -/
def fenW0 (pass k : Nat) : Word := w32 (2 * 2 ^ 30 + pass * 2 ^ 28 + (k - 1))

/-- A block operation on array a of engine m's granted core: its K steps added to the array's sums, or to zero; the sums come back converted
(R165 to R170, R209), infinities saturated. -/
def State.fenArray (s : State) (m a : Nat) (acc : Bool) (pass : Nat) (steps : List KStep) : State × (Nat → Nat → Word) :=
  let e := s.fenOf m
  let n := e.core m
  let w0 := fenW0 pass steps.length
  let x := FMap.get Arr.reset (s.core n).arrs a
  let x := steps.foldl (arrStep w0 0) (arrStart x w0 acc)
  let out := (List.range 256).map fun k => cellOut x 0 k
  let x := { x with sticky := out.foldl (fun f o => Nat.lor f o.2) x.sticky }
  let s := s.modCore n fun c => { c with arrs := FMap.set Arr.reset c.arrs a x }
  let s := s.modFen m fun e => { e with tfl := Nat.lor e.tfl x.sticky }
  let r := fenSats (out.map (·.1))
  (if r.2 then s.fenNumSat m else s, fun i j => r.1.getD (16 * i + j) 0)

/-- FEN_BPROD. -/
def execFenBprod (cluster : Nat) (op : FenOp) (s : State) : Host.Outcome State Fault Refusal :=
  let e := s.fenOf cluster
  let arr := fld op.w0 11 3
  let k := fld op.w0 0 4 + 1
  let mode := fld op.w3 30 2
  .next (
    if !s.fenActive cluster op 0x01 || !e.amask.testBit arr || mode = 3 then s
    else s.fenRequest cluster (s.claimAt false (e.ref cluster op.fstream op.w1) ++ s.claimAt false (e.ref cluster op.fstream op.w2)) fun s =>
      let a := s.fenRead cluster (e.ref cluster op.fstream op.w1) (64 * k)
      let b := a.st.fenRead cluster (e.ref cluster op.fstream op.w2) (64 * k)
      let steps := (List.range k).map fun i => (⟨blockCol (elems a.words) i, blockCol (elems b.words) i, []⟩ : KStep)
      let (s, p) := b.st.fenArray cluster arr (op.w0.getLsbD 10) (e.passes (op.w0.getLsbD 8)) steps
      if (a.bad || b.bad) && s.isRt e.part then s.fenUe cluster true
      else if mode = 0 then s.fenFactor cluster op
      else
        let ca := e.ref cluster op.fstream op.w3
        let prod := (List.range 256).map fun x => p (x % 16) (x / 16)
        if mode = 1 then ((s.fenWrite cluster ca (pairUp prod)).fenNaN cluster op prod).fenFactor cluster op
        else
          let c := s.fenRead cluster ca 1024
          let d := fenSats ((elems c.words).zipWith (fun x y => (b32.add 0 true x.toNat y.toNat).bits) prod)
          let s := if d.2 then c.st.fenNumSat cluster else c.st
          if c.bad && s.isRt e.part then s.fenUe cluster true
          else ((s.fenWrite cluster ca (pairUp d.1)).fenNaN cluster op d.1).fenFactor cluster op)

/-- FEN_BMV: lane k of VS is every column's element of step k; the result is the first column of the sums. -/
def execFenBmv (cluster : Nat) (op : FenOp) (s : State) : Host.Outcome State Fault Refusal :=
  let e := s.fenOf cluster
  let arr := fld op.w0 11 3
  let k := fld op.w2 0 4 + 1
  .next (
    if !s.fenActive cluster op 0x02 || !e.amask.testBit arr then s
    else s.fenRequest cluster (s.claimAt false (e.ref cluster op.fstream op.w1)) fun s =>
      let a := s.fenRead cluster (e.ref cluster op.fstream op.w1) (64 * k)
      let v := e.vr (fld op.w0 5 5)
      let steps := (List.range k).map fun i => (⟨blockCol (elems a.words) i, List.replicate 16 (v.getD i 0), []⟩ : KStep)
      let (s, p) := a.st.fenArray cluster arr (op.w0.getLsbD 10) (e.passes (op.w2.getLsbD 4)) steps
      let s := (s.fenSetV cluster (fld op.w0 0 5) ((List.range 16).map fun i => p i 0)).fenUe cluster a.bad
      s.fenFactor cluster op)

/-- Lane i of a VOP (R214), before saturation; `none` for a reserved FN. -/
def fenVopLane (fn : Nat) (imm : Word) (a b c : List Word) (i : Nat) : Nat :=
  let x := (a.getD i 0).toNat
  let y := (b.getD i 0).toNat
  let z := (c.getD i 0).toNat
  match fn with
  | 0 => (b32.add 0 false x y).bits
  | 1 => (b32.add 0 true x y).bits
  | 2 => (b32.mul 0 x y).bits
  | 3 => (b32.fma 0 false false x y z).bits
  | 4 => (b32.fma 0 false false imm.toNat x y).bits
  | 5 => (b32.minmax false x y).bits
  | 6 => (b32.minmax true x y).bits
  | 7 => (b32.minmax false (b32.minmax true x y).bits z).bits
  | 8 =>
    if i ≠ 0 then 0
    else if a.any isNaN32 then (b32.nanOf false (a.map fun w => b32.decode w.toNat)).bits
    else a.foldl (fun m w => max m (w.toNat % 2 ^ 31)) 0
  | 9 => x
  | 10 => imm.toNat
  | _ => (a.getD (if i + fld imm 0 4 ≤ 15 then i + fld imm 0 4 else i) 0).toNat

/-- FEN_VOP. -/
def execFenVop (cluster : Nat) (op : FenOp) (s : State) : Host.Outcome State Fault Refusal :=
  let e := s.fenOf cluster
  let fn := fld op.w0 8 6
  .next (
    if !s.fenActive cluster op 0x03 || 11 < fn then s
    else
      let r := fenSats ((List.range 16).map
        (fenVopLane fn op.w2 (e.vr (fld op.w1 10 5)) (e.vr (fld op.w1 5 5)) (e.vr (fld op.w1 0 5))))
      let s := s.fenSetV cluster (fld op.w0 0 5) r.1
      if r.2 then s.fenNumSat cluster else s)

/-- FEN_VLD: with WS in a cold start the safe area takes the row's place (R225). -/
def execFenVld (cluster : Nat) (op : FenOp) (s : State) : Host.Outcome State Fault Refusal :=
  let e := s.fenOf cluster
  .next (
    if !s.fenActive cluster op 0x04 then s
    else
      let sidx := fld op.w0 7 5
      let a := if op.w0.getLsbD 6 && e.cold then e.areaAddr 3 + 128 * (sidx / 2) + 64 * (sidx % 2)
        else e.ref cluster op.fstream op.w1 + 64 * fld op.w0 5 1
      s.fenRequest cluster (s.claimAt false a) fun s =>
      let r := s.fenRead cluster a 64
      (r.st.fenSetV cluster (fld op.w0 0 5) (elems r.words)).fenUe cluster r.bad)

/-- FEN_VST. -/
def execFenVst (cluster : Nat) (op : FenOp) (s : State) : Host.Outcome State Fault Refusal :=
  let e := s.fenOf cluster
  .next (
    if !s.fenActive cluster op 0x05 then s
    else s.fenRequest cluster (s.claimAt true (e.ref cluster op.fstream op.w1)) fun s =>
      let v := e.vr (fld op.w0 0 5)
      let s := s.fenWrite cluster (e.ref cluster op.fstream op.w1 + 64 * fld op.w0 5 1) (pairUp v)
      s.fenNaN cluster op v)

/-- Block register REG of the engine. -/
def Fennel.blk (e : Fennel) (reg : Nat) : FMap Word := if reg = 0 then e.blk0 else e.blk1

/-- Block register REG replaced. -/
def State.fenSetBlk (s : State) (m reg : Nat) (b : FMap Word) : State :=
  s.modFen m fun e => if reg = 0 then { e with blk0 := b } else { e with blk1 := b }

/-- FEN_DLD: element (i, j) at byte 64 j + 4 i of the eight rows. -/
def execFenDld (cluster : Nat) (op : FenOp) (s : State) : Host.Outcome State Fault Refusal :=
  let e := s.fenOf cluster
  .next (
    if !s.fenActive cluster op 0x06 then s
    else s.fenRequest cluster (s.claimAt false (e.ref cluster op.fstream op.w1)) fun s =>
      let r := s.fenRead cluster (e.ref cluster op.fstream op.w1) 1024
      let b := (elems r.words).zipIdx.foldl (fun b x => FMap.set 0 b (16 * (x.2 % 16) + x.2 / 16) x.1) ([] : FMap Word)
      ((r.st.fenSetBlk cluster (fld op.w0 0 1) b).fenUe cluster r.bad).fenFactor cluster op)

/-- FEN_DST. -/
def execFenDst (cluster : Nat) (op : FenOp) (s : State) : Host.Outcome State Fault Refusal :=
  let e := s.fenOf cluster
  .next (
    if !s.fenActive cluster op 0x07 then s
    else s.fenRequest cluster (s.claimAt true (e.ref cluster op.fstream op.w1)) fun s =>
      let b := e.blk (fld op.w0 0 1)
      let ws := (List.range 256).map fun x => FMap.get 0 b (16 * (x % 16) + x / 16)
      ((s.fenWrite cluster (e.ref cluster op.fstream op.w1) (pairUp ws)).fenNaN cluster op ws).fenFactor cluster op)

/-- The pivot of R219: the value used, whether it was replaced, and whether a result saturated. -/
def pivotOf (d delta tau : Word) (neg : Bool) : Word × Bool × Bool :=
  let d0 := fenSat d.toNat
  let d1 := fenSat (b32.add 0 neg d0.1.toNat delta.toNat).bits
  let mag := d1.1.toNat % 2 ^ 31
  if isNaN32 d1.1 then (d1.1, false, d0.2)
  else if mag = 0 then (tau, true, d0.2)
  else if mag < tau.toNat % 2 ^ 31 then (w32 (b32.signBits (d1.1.getLsbD 31) + tau.toNat % 2 ^ 31), true, d0.2)
  else (d1.1, false, d0.2 || d1.2)

/-- The block after the elimination of column j with pivot d1: D on the diagonal, the column below it divided by d1, and the trailing
elements less the product of their row's factor and their column's old element, each result rounded once (R219). -/
def eliminate (b : FMap Word) (j : Nat) (d1 : Word) : FMap Word × Bool :=
  let at_ := fun (i k : Nat) => (FMap.get 0 b (16 * i + k)).toNat
  let l := fun (i : Nat) => fenSat (b32.div 0 (at_ i j) d1.toNat).bits
  let below := (List.range 16).filter fun i => j < i
  let upd := fun (i k : Nat) => fenSat (b32.fma 0 true false (l i).1.toNat (at_ k j) (at_ i k)).bits
  let cells := below.flatMap fun i => (16 * i + j, l i) :: below.map fun k => (16 * i + k, upd i k)
  (cells.foldl (fun b c => FMap.set 0 b c.1 c.2.1) (FMap.set 0 b (17 * j) d1), cells.any fun c => c.2.2)

/-- FEN_PIV. -/
def execFenPiv (cluster : Nat) (op : FenOp) (s : State) : Host.Outcome State Fault Refusal :=
  let e := s.fenOf cluster
  .next (
    if !s.fenActive cluster op 0x08 then s
    else
      let j := fld op.w0 0 4
      let (d1, rep, sat) := pivotOf (FMap.get 0 e.blk0 (17 * j)) (e.dw 5) (e.dw 6) (op.w0.getLsbD 4)
      let r := eliminate e.blk0 j d1
      let s := s.fenSetBlk cluster 0 r.1
      let s := if rep then (s.modFen cluster fun e => { e with pgNew := e.pgNew + 1 }).bump (R.FEN_PGC cluster) else s
      let s := if isNaN32 d1 || r.1.any (fun (c : Nat × Word) => isNaN32 c.2) then s.modFen cluster fun e => { e with nanNew := true } else s
      (if sat || r.2 then s.fenNumSat cluster else s).fenFactor cluster op)

/-- Column j of the inverse of the unit lower triangle of a block, from the diagonal down: each element is minus the sum of the products
above it, added in ascending order with one rounding each. -/
def linvCol (b : FMap Word) (j : Nat) : List Word × Bool :=
  (List.range 16).foldl (fun (r : List Word × Bool) i =>
    if i < j then (r.1 ++ [0], r.2)
    else if i = j then (r.1 ++ [0x3F800000], r.2)
    else
      let v := ((List.range i).filter fun k => j ≤ k).foldl (fun (a : Word × Bool) k =>
        let x := fenSat (b32.fma 0 true false (FMap.get 0 b (16 * i + k)).toNat (r.1.getD k 0).toNat a.1.toNat).bits
        (x.1, a.2 || x.2)) (0, r.2)
      (r.1 ++ [v.1], v.2)) ([], false)

/-- FEN_LINV. -/
def execFenLinv (cluster : Nat) (op : FenOp) (s : State) : Host.Outcome State Fault Refusal :=
  let e := s.fenOf cluster
  .next (
    if !s.fenActive cluster op 0x09 then s
    else
      let j := fld op.w0 0 4
      let c := linvCol e.blk0 j
      let s := s.fenSetBlk cluster 1 (c.1.zipIdx.foldl (fun b x => FMap.set 0 b (16 * x.2 + j) x.1) e.blk1)
      let s := s.fenNaN cluster op c.1
      (if c.2 then s.fenNumSat cluster else s).fenFactor cluster op)

/-- The first body of a command: RES, INF and publishes of an iterate are suppressed (R216). -/
def Fennel.firstBody (e : Fennel) : Bool := e.nit == 0

/-- FEN_RES (R226). R210 names the lane, reduction and pivot units; the compare unit's products saturate and set NUM_SAT as theirs do (DESIGN
CHOICE, log entry 102). The larger product is taken as maximumNumber, as the other maxima of the engine are, so that a NaN of one product alone
does not reach MEAS (DESIGN CHOICE, log entry 103). -/
def execFenRes (cluster : Nat) (op : FenOp) (s : State) : Host.Outcome State Fault Refusal :=
  let e := s.fenOf cluster
  .next (
    if !s.fenActive cluster op 0x0A || e.firstBody then s
    else
      let pres := (e.vr (fld op.w0 5 5)).getD 0 0
      let dres := (e.vr (fld op.w0 0 5)).getD 0 0
      let x := fenSat (b32.mul 0 (e.dw 9).toNat pres.toNat).bits
      let y := fenSat (b32.mul 0 (e.dw 10).toNat dres.toNat).bits
      let meas := w32 (b32.minmax true x.1.toNat y.1.toNat).bits
      let le := fun (a b : Word) => (b32.compare 2 a.toNat b.toNat).bits == 1
      let fin := !(isNaN32 pres || isNaN32 dres || isNaN32 meas)
      let best := fin && (b32.compare 1 meas.toNat e.best.toNat).bits == 1
      let s := s.modFen cluster fun e =>
        { e with rPres := pres, rDres := dres, rMeas := meas, rBest := best
                 rConv := fin && le pres (e.dw 7) && le dres (e.dw 8)
                 best := if best then meas else e.best, nonfin := e.nonfin || !fin }
      if x.2 || y.2 then s.fenNumSat cluster else s)

/-- FEN_INF (R227). -/
def execFenInf (cluster : Nat) (op : FenOp) (s : State) : Host.Outcome State Fault Refusal :=
  let e := s.fenOf cluster
  .next (
    if !s.fenActive cluster op 0x0B || e.firstBody then s
    else
      let a := (e.vr (fld op.w0 0 5)).getD 0 0
      let n := if (b32.compare 1 a.toNat 0).bits = 1 then e.infRun + 1 else 0
      let s := s.modFen cluster fun e => { e with infRun := n }
      let cnt := fld (e.dw 12) 0 8
      if cnt ≠ 0 ∧ n = cnt then s.fenFinish cluster ⟨4, false, false, false⟩ else s)

/-- The area the next publish writes: the two areas other than the committed one in turn, the lower-numbered first (R228). -/
def Fennel.nextArea (e : Fennel) : Nat :=
  let l := (List.range 3).filter fun a => a != e.carea
  l.getD (e.pubs % 2) 0

/-- FEN_PUB (R228 to R230). -/
def execFenPub (cluster : Nat) (op : FenOp) (s : State) : Host.Outcome State Fault Refusal :=
  let e := s.fenOf cluster
  let iterate := op.w0.getLsbD 10
  .next (
    if !s.fenActive cluster op 0x0C || (if iterate then e.firstBody || !(e.rBest || e.rConv) else e.cold) then s
    else
      let vs := fld op.w0 0 5
      let ws := (List.range e.nvr).flatMap fun r => e.vr ((vs + r) % 32)
      let area := e.nextArea
      s.fenRequest cluster (s.claimAt true (e.areaAddr area)) fun s =>
      let s := s.fenWrite cluster (e.areaAddr area) (pairUp ws)
      let s := s.modFen cluster fun e =>
        if iterate then
          { e with status := if e.stale then 3 else 1, side := area, iter := e.nit, pres := e.rPres, dres := e.rDres
                   meas := e.rMeas, warmOnly := false, pubs := e.pubs + 1 }
        else { e with status := 2, side := area, warmOnly := true, pubs := e.pubs + 1 }
      if iterate && e.rConv then s.fenFinish cluster ⟨0, false, false, false⟩ else s)

/-- FEN_BODY: the iteration body starts, and with it the next F-body of an F-stream in progress (R215). -/
def execFenBody (cluster : Nat) (op : FenOp) (s : State) : Host.Outcome State Fault Refusal :=
  let e := s.fenOf cluster
  .next (
    if !(s.running && e.run && fenOpc op == 0x0D) || op.fstream || e.body then s
    else s.modFen cluster fun e => { e with body := true, fbody := e.frun && !e.ip, pgNew := 0, nanNew := false, facs := 0 })

/-- An F-body completed: its replacements and NaN join those of the bodies before it (R215). -/
def Fennel.endFbody (e : Fennel) : Fennel :=
  if e.fbody then
    { e with fbody := false, fprog := e.fprog + 1
             pgOf := FMap.set 0 (FMap.set 0 e.pgOf (pgBack e.data) (FMap.get 0 e.pgOf (pgBack e.data) + e.pgNew))
               (nanBack e.data) (max (FMap.get 0 e.pgOf (nanBack e.data)) (b2n e.nanNew))
             pgNew := 0, nanNew := false }
  else e

/-- FEN_NEXT (R216, R220, R224): in the F-stream the end of an F-body; in the I-stream the iteration is counted, and the next
bodies begin. -/
def execFenNext (cluster : Nat) (op : FenOp) (s : State) : Host.Outcome State Fault Refusal :=
  let e := s.fenOf cluster
  .next (
    if !(s.running && e.run && fenOpc op == 0x0E) then s
    else if op.fstream then s.modFen cluster Fennel.endFbody
    else if !e.body then s
    else
      let nit := e.nit + 1
      let s := s.modFen cluster fun e =>
        let e := if e.ip then e else e.endFbody
        { e with nit := nit, fbody := e.frun && !e.ip, pgNew := 0, nanNew := false, facs := 0 }
      let itmax := fld (e.dw 0) 0 16
      if itmax ≠ 0 ∧ nit = itmax then s.fenDeadline cluster else s)

/-- FEN_END: at the end of the F-stream its factor is accepted, and waits for the next command, or rejected (R220, R222, R223). The I-stream
ends with nothing more to do. -/
def execFenEnd (cluster : Nat) (op : FenOp) (s : State) : Host.Outcome State Fault Refusal :=
  let e := s.fenOf cluster
  .next (
    if !s.fenActive cluster op 0x0F || !op.fstream then s
    else
      let e1 := e.endFbody
      match e1.rejects (FMap.get 0 e1.pgOf (pgBack e1.data)) (FMap.get 0 e1.pgOf (nanBack e1.data) != 0) with
      | some why =>
        let s := (s.setFen cluster { e1 with frun := false, frejed := true, frej := decide (e1.rev = e1.revB) }).fenReject cluster why
        if e1.fvalid then s.fenShow cluster else s.fenFinish cluster ⟨5, false, false, false⟩
      | none => (s.setFen cluster { e1 with frun := false, fwait := true }).fenShow cluster)

end Sys2Proof.Machine
end

