-- ==== Sys2Proof/Machine/Anchor.lean ====
section
/-! DEFINITION. True anchors, effective anchors and what they begin: slip, coasting, the Reedbed walk, the exchange of input halves and the
beginning of steps (R35, R36, R43, R67 to R72, R84, R91 to R93, R100, R110, R377, R378). -/

namespace Sys2Proof.Machine

open Sys2Proof

/-! ## Due jobs and work lists (R84, R91, R110) -/

/-- The sub-frame of a job at frame counter fc (R91). -/
def State.subframe (s : State) (ctx j : Nat) (fc : Dword) : Nat :=
  let w := s.rd (R.SCH_RB ctx (10 + j))
  (((fc.toNat : Int) - fld w 7 8) % ((fld w 15 8 + 1 : Nat) : Int)).toNat

/-- An enabled job of group g: its context, its number, its class and its sub-frame. -/
structure Due where
  ctx    : Nat
  job    : Nat
  jclass : Nat
  u      : Nat
  deriving DecidableEq, Repr

/-- The jobs of group g among some contexts. -/
def State.groupJobs (s : State) (ctxs : List Nat) (g : Nat) (fc : Dword) : List Due :=
  ctxs.flatMap fun c => (s.jobsOf c).filterMap fun j =>
    if s.jobGroup c j = g then some ⟨c, j, fld (s.rd (R.SCH_RB c (10 + j))) 23 6, s.subframe c j fc⟩ else none

/-- In HOTSET mode an instance of a class that reads the resident model qualifies only for that model (R110). -/
def State.modelFits (s : State) (p jclass ctx : Nat) : Bool :=
  let h := s.rd R.SCH_HOTSTAT
  !(fld (s.act (R.SCH_MODE p)) 0 2 == 1 && (s.classDesc p jclass).getLsbD 8) ||
    (!h.getLsbD 30 && fld h 0 2 == s.field (R.SCH_RB ctx 6) 28 2)

/-- A job qualifies for a slot of its group. -/
def State.fits (s : State) (p : Nat) (t : Slot) (d : Due) : Bool :=
  d.jclass == t.jclass && (t.subfAny || d.u == t.subf) && s.modelFits p d.jclass d.ctx

/-- The work list of a slot: active contexts, and for FEN and CARR slots those torn down with SAFEACT (R102), lowest first. -/
def State.workList (s : State) (p : Nat) (t : Slot) (live safe : List Due) : List (Nat × Nat) :=
  let l := if t.kind = 1 ∨ t.kind = 3 then live ++ safe else live
  let q := (l.filter (s.fits p t)).map fun d => (d.ctx, d.u)
  q.foldl (fun (m : FMap Nat) x => if (FMap.find m x.1).isSome then m else FMap.upd m x.1 (some x.2)) []

/-! ## Deadlines of Fennel positions (R68, R69, R232) -/

/-- The due jobs of partition p's active entries among some contexts. -/
def State.dueJobs (s : State) (p g : Nat) (fc : Dword) (of : Nat → Bool) : List Due :=
  s.groupJobs (s.activeCtxs.filter fun c => s.ctxPart c == some p && of c) g fc

/-- The instances of a slot in its frame, on engine m: those of the walk, or, while the walk has not begun, those that it would find now. -/
def State.fenInstances (s : State) (p i m : Nat) (t : Slot) : List (Nat × Nat) :=
  if (s.frame p t.group).effRaw.isSome then s.qualifying p i (.fen m)
  else
    let live := (s.dueJobs p t.group (s.rd64 (R.SCH_FC p t.group)) fun _ => true).filter fun d =>
      d.u == 0 || s.sch.begun.contains (d.ctx * 4 + d.job)
    (s.workList p t live []).filter fun x => s.onEngine (.fen m) x.1

/-- A position of a FEN slot whose command has not begun meets its deadline on engine m: SAFE_VALUE with SKIPPED (R232), once. -/
def State.fenSkip (s : State) (m p i pos : Nat) (t : Slot) : State :=
  let key := (m, p * 1024 + i, pos)
  match s.pick t (s.fenInstances p i m t) pos with
  | none => s
  | some (ctx, _) =>
    if s.cyc.late.contains key || (s.fenOf m).run || (s.isTorn ctx && !s.safeact ctx) then s
    else
      let s := { s with cyc := { s.cyc with late := s.cyc.late ++ [key] } }.fenBegin m (s.newCmd p i pos t (.fen m) (some ctx)) t
      if (s.fenOf m).run then s.fenFinish m ⟨6, true, false, true⟩ else s

/-- FENNEL_DEADLINE: in the cycle of the position's deadline (R69, R230, R232) a command that runs commits its provisional result; one that has
not begun commits SAFE_VALUE with SKIPPED. -/
def execFennelDeadline (cluster part slot pos : Nat) (s : State) : Host.Outcome State Fault Refusal :=
  let e := s.fenOf cluster
  let t := s.slot part slot
  .next (
    if !s.lcSlot part slot || t.kind ≠ 1 || !(s.slotEngines part t).contains (.fen cluster) ||
        s.untilDead part slot t (.fen cluster) pos ≠ 0 then s
    else if e.run && e.part == part && e.slot == slot && e.pos == pos then s.fenDeadline cluster
    else if e.run || s.untilStart part slot t (.fen cluster) pos ≤ 0 then s
    else s.fenSkip cluster part slot pos t)

/-- The positions of group g's FEN slots that have not begun when the next true anchor fires have met their deadline (R68, R69, R232). -/
def State.fenSkips (s : State) (p g : Nat) : State :=
  forEach ((List.range (s.nslot p)).filter fun i => (s.slot p i).v && (s.slot p i).group == g && (s.slot p i).kind == 1) s fun s i =>
    let t := s.slot p i
    forEach (s.slotEngines p t) s fun s e =>
      match e with
      | .fen m =>
        forEach ((List.range (if t.batch then 1 else t.count)).filter fun pos =>
          decide (0 ≤ s.untilStart p i t e pos) && decide (0 ≤ s.untilDead p i t e pos)) s fun s pos => s.fenSkip m p i pos t
      | _ => s

/-! ## True anchors (R67, R68, R91, R100) -/

/-- The engines on which partition p has a slot of group g. -/
def State.groupEngines (s : State) (p g : Nat) : List Engine :=
  (List.range (s.nslot p)).flatMap fun i => if (s.slot p i).group = g then s.slotEngines p (s.slot p i) else []

/-- The commands of the previous frame end at a true anchor: a solve has met its deadline (R69), the others end under R98, and so do group B
commands on the engines of group g (R100); so do compiled chains that a DMAGO of the group's slots started (R316). -/
def State.anchorEnds (s : State) (p g : Nat) : State :=
  let engs := s.groupEngines p g
  let lc := s.sch.running.filter fun r => r.part == p && r.group == g && !r.paused
  let gb := s.sch.running.filter fun r => r.part == p && r.group == 3 && !r.paused && engs.contains r.eng
  let s := forEach lc s fun s r =>
    match r.eng with
    | .fen m => s.fenDeadline m
    | _ => s.endCmd r .anchor
  let s := forEach gb s fun s r => s.endCmd r .anchor
  forEach s.dma s fun s (x : Nat × DmaChan) =>
    if x.2.part == p && !x.2.var && x.2.go.any fun y => (s.slot p y.2.1).group == g then s.dmaEnd x.1 else s

/-- Calibration windows of partition p that count group g's anchors (R194): those of enabled entries, as a disabled entry has no window to close
(DESIGN CHOICE, log entry 106). -/
def State.countWindows (s : State) (p g : Nat) : State :=
  forEach (s.clustersOf p) s fun s m =>
    forEach (List.range 32) s fun s e =>
      let c := s.act (R.CLU_CALCFG m e)
      if c.getLsbD 31 && fld c 29 2 == g then
        let s := s.wr (R.CLU_CALWIN m e) (s.rd (R.CLU_CALWIN m e) + 1)
        { s with cyc := { s.cyc with cal := { s.cyc.cal with due := s.cyc.cal.due ++ [m * 32 + e] } } }
      else s

/-- FC of group g, and HPCNT at an HP anchor: 0 at the first anchor of the first table, then one more at each (R91). -/
def State.countAnchor (s : State) (p g : Nat) (hp : Bool) : State :=
  let f := s.frame p g
  if f.counted then
    let s := s.wr64 (R.SCH_FC p g) (s.rd64 (R.SCH_FC p g) + 1)
    if hp then s.wr64 (R.SCH_HPCNT p) (s.rd64 (R.SCH_HPCNT p) + 1) else s
  else if s.partOn p then s.setFrame p g { f with counted := true }
  else s

/-- The slots of group g in the active table of partition p. -/
def State.groupSlots (s : State) (p g : Nat) : List Nat := (List.range (s.nslot p)).filter fun i => (s.slot p i).group == g

/-- The anchor begins a base frame: one more window for the frames of slower groups that began before this cycle (R86). -/
def State.countWindow (s : State) (p g : Nat) : State :=
  if s.baseGroup p ≠ g then s
  else
    forEach (List.range 3) s fun s h =>
      let f := s.frame p h
      if h = g ∨ f.trueRaw = s.tb.raw ∨ (FMap.find s.sch.frames (4 * p + h)).isNone then s else s.setFrame p h { f with wins := f.wins + 1 }

/-- A frame whose effective anchor had not come when the next true anchor fires: none of its slots has started (R68). -/
def State.skipFrame (s : State) (p g : Nat) : State :=
  let f := s.frame p g
  if (FMap.find s.sch.frames (4 * p + g)).isSome && f.effRaw.isNone && s.partOn p then s.addSat (R.TB_SLOT_SKIP p) (s.groupSlots p g).length
  else s

/-- A true anchor of group g of partition p, with its trigger phase. -/
def State.trueAnchor (s : State) (p g : Nat) (hp : Bool) (phase : Word) : State :=
  let s := if s.partOn p && (FMap.find s.sch.frames (4 * p + g)).isSome then (s.anchorEnds p g).fenSkips p g else s
  let s := (s.skipFrame p g).countWindow p g
  let f := s.frame p g
  let s := s.setFrame p g { f with
    trueRaw := s.tb.raw, effRaw := none, prevEff := f.counts, hp := hp, phase := phase, prevS0 := f.s0, s0 := false, wins := 0 }
  let s := s.countAnchor p g hp
  let s := if s.partOn p && s.isRt p then s.countWindows p g else s
  let cfg := s.act R.MIR_CFG
  if cfg.getLsbD 31 && hbPart cfg == p && hbGrp cfg == g then s.heartbeat else s

/-! ## Slip and coasting (R68 to R71) -/

/-- The slip limit of a group. -/
def State.slipLimit (s : State) (p g : Nat) : Nat := fld (s.act (R.TB_SLIP_LIM p)) (10 * g) 10

/-- Partition p coasts from this cycle on (R71). -/
def State.startCoast (s : State) (p : Nat) (phase : Word) : State :=
  let acc := BitVec.ofNat 48 (phase.toNat * 2 ^ 16)
  let inc := BitVec.ofNat 48 (s.rd64 (R.TB_COAST_INC p)).toNat
  let s := { s with tb := { s.tb with coast := FMap.upd s.tb.coast p (some ⟨acc, acc, inc, s.tb.wNow, false⟩) } }
  (s.setBits R.TB_COAST (bitMask p)).setBits R.TB_FLAGS 8

/-- The slip S of an effective anchor: counted, raised above the limit, and the last good INC kept when there was none (R68, R70, R71). The
slots of the previous frame that have not started are counted; none starts once the true anchor has fired (DEDUCED, log entry 39). A partition
whose groups have anchors of both kinds coasts on the slip of any group (DESIGN CHOICE, log entry 96). -/
def State.settleSlip (s : State) (p g : Nat) (f : Frame) (slip : Nat) : State :=
  let s := s.addSat (R.TB_SLIP_CYC p g) slip
  let late := (f.slots.filter fun i => !f.started.contains i).length
  let s := s.addSat (R.TB_SLOT_SKIP p) late
  if slip > s.slipLimit p g then
    let s := (s.setBits R.TB_FLAGS 4).event 0x0204 (w32 (p * 2 ^ 8 + g + slip * 2 ^ 16)) none
    if s.hasAnchor (some 0) p none then s.startCoast p f.phase else s
  else if slip = 0 ∧ f.prevS0 then s.wr64 (R.TB_COAST_INC p) (w64 s.tb.incS.toNat)
  else s

/-! ## The walk (R43, R92, R93) -/

/-- The work lists of group g's slots of partition p, each changed by `f`. -/
def State.modWork (s : State) (p g : Nat) (f : Slot → List (Nat × Nat) → List (Nat × Nat)) : State :=
  forEach (List.range (s.nslot p)) s fun s i =>
    let t := s.slot p i
    if t.v && t.group == g then
      { s with sch := { s.sch with work := FMap.set [] s.sch.work (p * 1024 + i) (f t (s.workOf p i)) } }
    else s

/-! ## Steps (R91, R377, R378) -/

/-- The STEPSUM record of the step that ends; the context has completed a step (R426). -/
def State.endStep (s : State) (p g ctx j : Nat) : State :=
  let st := FMap.get ⟨[], false⟩ s.dig.steps (ctx * 4 + j)
  let step := if j = 0 ∨ j = s.ajob ctx then s.jobStep p g ctx j else s.rd64 (R.SCH_FC p g) - 1
  let s := s.closeRec
    { kind := 3, poison := st.poison, batch := false, job := j, layer := 0, part := p, ctx := ctx, ord := 0
      nrec := st.digs.length, step := step, digest := crc64 (st.digs.flatMap fun d => leBytes 8 d.toNat)
      extra := s.rd64 (R.MIR_BHASH p) }
  s.escOk 2 ctx 0

/-- The bytes of an input tag (R377). -/
def InTag.bytes (t : InTag) : List Byte :=
  leBytes 4 t.seq.toNat ++ leBytes 2 t.len ++ leBytes 4 t.crc.toNat ++
    leBytes 1 (4 * b2n t.complete + 2 * b2n t.stale + b2n t.gap) ++ leBytes 1 0 ++ leBytes 8 t.step.toNat ++ leBytes 4 t.ts.toNat

/-- The halves of a job's input exchange (R35, R36, R91), after its counter has advanced: PLACED is copied, the INPUT record closed, and a
placement cut by the exchange starts again in the new fill half (R347). -/
def State.exchange (s : State) (p g ctx j : Nat) : State :=
  let fill := s.fillHalf ctx j
  let t := s.tag ctx j (1 - fill)
  let s := s.setField (R.SCH_RB ctx 8) (28 + j) 1 (b2n t.complete)
  let s := s.closeRec
    { kind := 2, poison := false, batch := false, job := j, layer := 0, part := p, ctx := ctx, ord := 0, nrec := 0
      step := s.jobStep p g ctx j, digest := crc64 t.bytes, extra := w64 t.seq.toNat }
  let s := s.setTag ctx j fill InTag.none
  let r := s.net.placing.foldl (fun (x : State × List Placing) q =>
    if q.begun && q.ctx == ctx && q.job == j then
      match x.1.placeBegin q with
      | (s, some q) => (s, x.2 ++ [q])
      | (s, none) => (s, x.2)
    else (x.1, x.2 ++ [q])) (s, [])
  { r.1 with net := { r.1.net with placing := r.2 } }.placeNext

/-- A job begins a step: the one before it ends, the counters advance, the halves exchange, and PONLY shows a step without a measurement. -/
def State.beginStep (s : State) (p g : Nat) (d : Due) : State :=
  let key := d.ctx * 4 + d.job
  let s := if s.sch.begun.contains key then s.endStep p g d.ctx d.job
    else { s with sch := { s.sch with begun := s.sch.begun ++ [key] } }
  let s := s.newStep d.ctx d.job
  let s := if d.job = 0 then s.wr64 (R.SCH_RB d.ctx 0) (s.rd64 (R.SCH_RB d.ctx 0) + 1) else s
  let s := if d.job = s.ajob d.ctx then s.wr64 (R.SCH_RB d.ctx 2) (s.rd64 (R.SCH_RB d.ctx 2) + 1) else s
  let s := if s.inpen d.ctx d.job then s.exchange p g d.ctx d.job else s
  let placed := s.field (R.SCH_RB d.ctx 8) (28 + d.job) 1
  s.setField (R.SCH_RB d.ctx 8) (24 + d.job) 1 (1 - placed)

/-- The walk reads its next 256 entries (R43, R44, R92): `v` holds them as they are read. A job whose sub-frame is 0 and which became active
after the anchor begins its step now (DEDUCED, log entry 39); the entries that qualify join the work lists. -/
def State.walkRead (s v : State) (w : Walk) : State :=
  let mine := fun c => c / 256 == w.read
  let jobs := v.dueJobs w.part w.group w.fc mine
  let s := forEach (jobs.filter fun d => d.u == 0 && !w.began.contains (d.ctx * 4 + d.job)) s fun s d => s.beginStep w.part w.group d
  let live := jobs.filter fun d => !s.isTorn d.ctx && s.sch.begun.contains (d.ctx * 4 + d.job)
  let safe := s.groupJobs (s.sch.torn.filter fun c => s.safeact c && s.ctxPart c == some w.part && mine c) w.group w.fc
  s.modWork w.part w.group fun t l => l ++ v.workList w.part t live safe

/-- The walks under way each read 256 entries in a cycle after their anchor, until they have read all 4,096. -/
def State.tickWalks (s : State) : State :=
  let ws := s.sch.walks
  let s := forEach ws s fun s w => s.walkRead s w
  { s with sch := { s.sch with walks := (ws.filter fun w => decide (w.read < 15)).map fun w => { w with read := w.read + 1 } } }

/-- The walk of group g of partition p begins with its effective anchor, and so do the steps of the frame (R91, R92). -/
def State.walk (s : State) (p g : Nat) : State :=
  let v := s.beforeWrites
  let fc := s.rd64 (R.SCH_FC p g)
  let due := (v.dueJobs p g fc fun _ => true).filter fun d => d.u == 0 && !s.isTorn d.ctx
  let s := forEach due s fun s d => s.beginStep p g d
  let w : Walk := ⟨p, g, fc, 0, due.map fun d => d.ctx * 4 + d.job⟩
  let s := (s.modWork p g fun _ _ => []).walkRead v w
  let others := s.sch.walks.filter fun x => !(x.part == p && x.group == g)
  { s with sch := { s.sch with walks := others ++ [{ w with read := 1 }] } }

/-- EFFECTIVE_ANCHOR: the first cycle in which no atomic command of the group runs any more settles the slip and begins the frame. -/
def execEffectiveAnchor (part group : Nat) (s : State) : Host.Outcome State Fault Refusal :=
  let f := s.frame part group
  let atomic := s.sch.running.any fun r => r.part == part && r.group == group && r.atomic && !r.paused
  .next (
    if !s.running || !s.partOn part || decide (3 ≤ group) || (FMap.find s.sch.frames (4 * part + group)).isNone || f.effRaw.isSome ||
        atomic then s
    else
      let slip := cyclesBetween f.trueRaw s.tb.raw
      let s := s.settleSlip part group f slip
      let s := { s with sch := { s.sch with lanes := s.sch.lanes.filter fun x => !(x.1 == part && (f.slots.contains x.2)) } }
      let s := s.setFrame part group { f with
        effRaw := some s.tb.raw, prevEff := none, s0 := decide (slip = 0), slots := s.groupSlots part group, started := [], ended := [] }
      s.walk part group)

end Sys2Proof.Machine
end

