-- ==== Sys2Proof/Machine/Ring.lean ====
section
/-! DEFINITION. Reedbed writes (R89, R90) and the command rings: the poll, what its entries do, and the write-back
(R409 to R417). -/

namespace Sys2Proof.Machine

open Sys2Proof

/-! ## Reedbed writes (R89, R90, R426) -/

/-- The bits of word `w` of a Reedbed entry that a write reaches (R89). -/
def rbMask (w : Nat) : Word :=
  if w < 6 then 0xFFFFFFFF else if w = 6 then 0xFFC00000 else if w = 7 then 0xFFFFFF7F
  else if 10 ≤ w ∧ w < 14 then 0xFFFFFF80 else 0

/-- The state after a write to a Reedbed word, and whether part of it was ignored. -/
structure RbWrote where
  st      : State
  ignored : Bool

/-- A context that becomes active: its jobs have begun no step (R93), a torn-down one has no work left in the current frames (R101 to R103),
and its MEAS streams synchronise again (R343). -/
def State.ctxEnters (s : State) (ctx : Nat) : State :=
  let s := if s.isTorn ctx then s.dropWork ctx false else s
  { s with
    sch := { s.sch with begun := s.sch.begun.filter fun k => k / 4 != ctx, torn := s.sch.torn.filter fun c => c != ctx }
    net := { s.net with measSeq := FMap.upd (FMap.upd s.net.measSeq (2 * ctx) none) (2 * ctx + 1) none } }

/-- The old value of a Reedbed word kept for the walk's read of the same cycle (R90). -/
def State.rbOld (s : State) (off : Nat) : State :=
  if (FMap.find s.cyc.rb off).isSome then s else { s with cyc := { s.cyc with rb := FMap.upd s.cyc.rb off (some (s.rd off)) } }

/-- A write of the bits of `mask` in word `w` of entry `ctx` (R90): while ACTIVE is 1 only ACTIVE itself is written, and an ignored write is
counted, one of ACTIVE's word when it would have changed another bit; ACTIVE stays 0 while the context is escalated (R426). -/
def State.rbWrite (s : State) (ctx w : Nat) (value mask : Word) : RbWrote :=
  let off := R.SCH_RB ctx w
  let s := s.rbOld off
  let old := s.rd off
  let m := mask &&& rbMask w
  let new := (old &&& ~~~ m) ||| (value &&& m)
  if s.active ctx then
    let kept := if w = 6 then old &&& ~~~ (bitMask 31) ||| new &&& bitMask 31 else old
    let lost := if w = 6 then new != kept else m != 0
    let s := s.wr off kept
    ⟨if lost then s.bump R.SCH_IGNCNT else s, lost⟩
  else if w = 6 ∧ new.getLsbD 31 then
    if s.escalated 2 ctx 0 then ⟨(s.wr off (new &&& ~~~ (bitMask 31))).bump R.SCH_IGNCNT, true⟩
    else ⟨(s.ctxEnters ctx).wr off new, false⟩
  else ⟨s.wr off new, false⟩

/-! ## Directory entries (R410) -/

/-- A directory entry as read. -/
structure RingDir where
  en   : Bool
  logn : Nat
  vec  : Nat
  base : Nat
  prod : Dword
  cons : Dword
  stat : Word
  deriving DecidableEq, Repr

/-- A directory entry out of its four double words. -/
def RingDir.ofWords (ws : List Dword) : RingDir :=
  let d0 := ws.getD 0 0
  { en := d0.getLsbD 31, logn := fld (lo32 d0) 24 4, vec := fld (lo32 d0) 0 6, base := (hi32 d0).toNat,
    prod := ws.getD 1 0, cons := ws.getD 2 0, stat := lo32 (ws.getD 3 0) }

/-- BAD: LOGN is out of range, or the ring runs past the backed cluster memory. -/
def RingDir.bad (d : RingDir) (size : Nat) : Bool :=
  decide (d.logn < 4) || decide (12 < d.logn) || decide (size < d.base + 64 * 2 ^ d.logn)

/-- Address of the directory row of cluster `cl` (R409). -/
def State.ringRow (s : State) (cl : Nat) : Nat := memBase (128 + cl) + 128 * s.field R.GLB_RINGDIR 0 16

/-- Address of entry `i` of a ring. -/
def RingDir.entry (d : RingDir) (cl i : Nat) : Nat := memBase (128 + cl) + d.base + i % 2 ^ d.logn * 64

/-- RUNF of ring r. -/
def State.ringRun (s : State) (r : Nat) : Nat := (s.escOf (escKey 6 r 0)).run

/-- What the STAT word of an enabled ring shows (R410). -/
def State.ringStat (s : State) (cl r : Nat) (d : RingDir) : Word :=
  w32 (b2n (s.escalated 6 r 0) * 2 ^ 31 + b2n (d.bad (s.memSize (128 + cl))) * 2 ^ 30 + min 3 (s.ringRun r) * 2 ^ 24)

/-- A poll read that could not be corrected (R417). -/
def State.ringUe (s : State) (r : Nat) : State := s.escFail 6 r 0 0

/-! ## Operations (R412, R416) -/

/-- What an entry's operation gives: the state, CODE, and a WRITE64 to be made at the write-back. -/
structure RingOp where
  st   : State
  code : Nat
  wr   : Option (Nat × Dword) := none

/-- An object that some partition holds. -/
def State.ownedObj (s : State) (obj : Nat) : Bool := (s.partOf (obj / 1024)).isSome

/-- A DMAGO entry: a host GO (R320), refused on the service channel. -/
def State.ringGo (s : State) (a : Word) : RingOp :=
  let cl := fld a 0 4
  let ch := fld a 4 3
  if s.nClusters ≤ cl ∨ ch = 7 then ⟨s, 2, none⟩
  else if (s.dmaOf (8 * cl + ch)).st ≠ .idle then ⟨s.bump (R.DMA_IGN cl), 3, none⟩
  else ⟨s.dmaStart (8 * cl + ch) (fld a 16 12) true none 0 none, 0, none⟩

/-- A WRITE64 entry: only core scratchpads and cluster memories. -/
def State.ringStore (s : State) (addr data : Dword) : RingOp :=
  let a := addr.toNat
  match s.place a with
  | some p => if a % 8 = 0 ∧ p.mem < 144 then ⟨s, 0, some (a, data)⟩ else ⟨s, 2, none⟩
  | none => ⟨s, 2, none⟩

/-- The operation of an entry, executed `at_` cycles after the poll slot's START. -/
def State.ringOp (s : State) (ws : List Dword) (at_ : Nat) : RingOp :=
  let d0 := ws.getD 0 0
  let a := lo32 (ws.getD 3 0)
  if fld (lo32 d0) 16 6 ≠ 0 ∨ fld (hi32 d0) 24 7 ≠ 0 ∨ fld (hi32 d0) 0 16 ≠ 0 then ⟨s, 1, none⟩
  else
    match fld (lo32 d0) 24 8 with
    | 0 => ⟨s, 0, none⟩
    | 1 =>
      let r := s.rbWrite (fld a 0 12) (fld a 16 4) (hi32 (ws.getD 3 0)) (lo32 (ws.getD 4 0))
      ⟨r.st, if r.ignored then 3 else 0, none⟩
    | 2 =>
      if !s.ownedObj (fld a 0 14) || fld a 16 8 == 0 then ⟨s, 2, none⟩
      else ⟨s.post (fld a 0 14) (at_ + 8) (.signal (fld a 16 8)), 0, none⟩
    | 3 => if !s.ownedObj (fld a 0 14) then ⟨s, 2, none⟩ else ⟨s.post (fld a 0 14) (at_ + 8) .reset, 0, none⟩
    | 4 => s.ringGo a
    | 5 => ⟨s.teardown (fld a 0 12) 6, 0, none⟩
    | 6 => s.ringStore (ws.getD 3 0) (ws.getD 4 0)
    | _ => ⟨s, 1, none⟩

/-! ## The write-back (R413) -/

/-- A write of the write-back, which a bank that performs no access does not take (R265; DESIGN CHOICE, log entry 100). -/
def State.ringPut (s : State) (a : Nat) (bs : List Byte) : State :=
  if s.openRange a bs.length then (s.writeBytes a bs 7 none false).st else s

/-- One executed entry written back. -/
def State.ringDoneOut (s : State) (d : RingDone) : State :=
  let s := s.ringPut (d.addr + 4) (leBytes 4 (2 ^ 31 + d.code * 2 ^ 16))
  let s := s.ringPut (d.addr + 16) (leBytes 8 d.fc.toNat)
  match d.wr with
  | some (a, v) => s.ringPut a (leBytes 8 v.toNat)
  | none => s

/-- The directory entry of ring r of cluster `cl` as it stands. -/
def State.ringDirNow (s : State) (cl r : Nat) : RingDir :=
  RingDir.ofWords ((List.range 4).map fun i => w64 (s.peekLe (s.ringRow cl + 32 * r + 8 * i) 8))

/-- The write-back of the last poll: each ring's entries, then its CONS; then STAT where it has changed; then the vectors. -/
def State.ringBack (s : State) : State :=
  let h := s.host
  let cl := h.pollCl
  let s := { s with host := { h with ringDone := [], ringCons := [], ringVecs := [] } }
  let s := forEach h.ringCons s fun s (c : Nat × Nat × Dword) =>
    let s := forEach (h.ringDone.filter fun d => d.ring == c.1) s fun s d => s.ringDoneOut d
    s.ringPut c.2.1 (leBytes 8 c.2.2.toNat)
  let s := forEach (List.range 4) s fun s r =>
    let d := s.ringDirNow cl r
    let st := s.ringStat cl r d
    if d.en && s.openRange (s.ringRow cl) 128 && d.stat != st then s.ringPut (s.ringRow cl + 32 * r + 24) (leBytes 4 st.toNat)
    else s
  forEach h.ringVecs s fun s v => s.raiseVec v

/-! ## The poll (R409, R413, R417) -/

/-- A poll under way: the state, and the entries taken so far. -/
structure Poll where
  st    : State
  taken : Nat

/-- Ring r served from its entry CONS + k on, for at most `n` entries: it stops when it is empty, at an entry whose frame has not come, at an entry
that could not be corrected, and at one in a bank that performs no access (R265 gives it no effect; DESIGN CHOICE, log entry 100). Each result holds the entries of this ring taken. -/
def State.pollRing (cl r : Nat) (d : RingDir) (fc : Dword) : Nat → Nat → Poll → Poll
  | 0, _, w => w
  | n + 1, k, w =>
    if d.cons.toNat + k < d.prod.toNat then
      let a := d.entry cl (d.cons.toNat + k)
      let g := w.st.readWide a 64 7 none
      if !w.st.openRange a 64 then w
      else match g.bad with
      | some _ => ⟨(g.st.ringUe r).event 0x0101 (w32 r) none, w.taken⟩
      | none =>
        let w0 := lo32 (g.words.getD 0 0)
        if w0.getLsbD 22 && decide (fc.toNat < (g.words.getD 1 0).toNat) then ⟨g.st, w.taken⟩
        else
          let o := g.st.ringOp g.words (2 * w.taken + 3)
          let h := o.st.host
          let s := { o.st with host := { h with
            ringDone := h.ringDone ++ [⟨r, a, o.code, fc, w0.getLsbD 23, o.wr⟩] } }
          State.pollRing cl r d fc n (k + 1) ⟨s, w.taken + 1⟩
    else w

/-- Ring r of a poll of at most `e` entries in all: its run of failures returns to 0 unless an entry failed (R417). -/
def State.pollOne (cl e : Nat) (fc : Dword) (w : Poll) (r : Nat) (d : RingDir) : Poll :=
  if !d.en || w.st.escalated 6 r 0 || d.bad (w.st.memSize (128 + cl)) then w
  else
    let run := w.st.ringRun r
    let x := State.pollRing cl r d fc (e - w.taken) 0 w
    let s := if x.st.ringRun r = run then x.st.escOk 6 r 0 else x.st
    let n := x.taken - w.taken
    let h := s.host
    let irq := h.ringDone.any fun q => q.ring == r && q.irq
    ⟨{ s with host := { h with
        ringCons := if n = 0 then h.ringCons else h.ringCons ++ [(r, s.ringRow cl + 32 * r + 16, d.cons + w64 n)]
        ringVecs := if irq then h.ringVecs ++ [d.vec] else h.ringVecs } }, x.taken⟩

/-- A poll of cluster `cl` in a slot of length `len` at frame count `fc`; what an earlier poll still has to write back is written first. No ring
is served where the directory's bank performs no access (R265; DESIGN CHOICE, log entry 100). -/
def State.poll (s : State) (cl len : Nat) (fc : Dword) : State :=
  let s := s.ringBack
  let s := { s with host := { s.host with pollCl := cl } }
  if !s.openRange (s.ringRow cl) 128 then s
  else
    let g := s.readWide (s.ringRow cl) 128 7 none
    let dirs := (List.range 4).map fun r => RingDir.ofWords ((g.words.drop (4 * r)).take 4)
    match g.bad with
    | some _ =>
      let s := forEach dirs.zipIdx g.st fun s x => if x.1.en then s.ringUe x.2 else s
      s.event 0x0101 (bitMask 8) none
    | none => (dirs.zipIdx.foldl (fun w x => State.pollOne cl ((len - 4) / 2) fc w x.2 x.1) ⟨g.st, 0⟩).st

/-- BEST_EFFORT_POLL_TIMER: 200,000 cycles after the last poll, or after the first table was accepted, while every partition is best-effort. -/
def execBestEffortPollTimer (s : State) : Host.Outcome State Fault Refusal :=
  .next (
    if s.running && s.allBestEffort && s.sch.firstRaw.isSome && decide (200000 ≤ cyclesBetween s.host.pollRaw s.tb.raw) then
      let s := { s with host := { s.host with pollRaw := s.tb.raw } }
      let s := s.wr64 R.GLB_POLLCNT (s.rd64 R.GLB_POLLCNT + 1)
      s.poll (s.field R.GLB_RINGDIR 28 4) 64 (s.rd64 R.GLB_POLLCNT)
    else s)

/-- RING_WRITEBACK. -/
def execRingWriteback (s : State) : Host.Outcome State Fault Refusal := .next s.ringBack

end Sys2Proof.Machine
end

