-- ==== Sys2Proof/Machine/Sched.lean ====
section
/-! DEFINITION. The schedule unit's commands: slots and their positions, group B tiles, the command watchdog, teardown requests and
Reedbed writes (R83 to R102, R120, R122, R123, R312, R427). -/

namespace Sys2Proof.Machine

open Sys2Proof

/-! ## Sequencer positions (R94, R115, R122, R123) -/

/-- A core as an instance or tile begins on it: registers, arrays and the pod buffer as the previous one left them, the CSRs at their
start values, and g28 to g31 and QMASK written (R94). -/
def Core.begin (c : Core) (r : RunCmd) (entry : Nat) (code : Nat × Nat) (ctx : Option Nat) (job : Nat) (rt : Bool) (regs : List Word)
    (mask : FMap Word) (raw : Dword) : Core :=
  let gone := cyclesBetween c.begRaw raw
  { c with
    g := [28, 29, 30, 31].zipIdx.foldl (fun m x => FMap.set 0 m x.1 (regs.getD x.2 0)) c.g
    pc := entry % 2 ^ 14, run := true, part := r.part, slot := r.slot, pos := r.pos, jclass := r.jclass
    ctx := ctx, job := job, batch := r.ctx.isNone, tornIn := [], code := code, fetched := 1
    now := 0, ready := [], mulFree := 0, divFree := 0, fpFree := 0, doneAt := 0, snapAt := 0, ended := false, tileEnd := false, tileAt := none
    xflags := 0, fctl := 0x10000, tvec := 0, epc := 0, ecause := 0, etval := 0, frep := 0, tflags := 0, qmask := mask
    late := [], snaps := [], inTrap := false, loops := [], poison := false, waitOn := none, waitMet := false
    begRaw := raw, issAt := 0, simAt := 0, claims := [], merge := none, podAt := (0, 0)
    pod := c.pod.map fun (e : PodEntry) => { e with old := e.words.map (·.1) }
    arrs := c.arrs.map fun (a : Nat × Arr) => (a.1, { a.2 with free := a.2.free - gone, accAt := a.2.accAt - gone })
    dS := if rt then some Digest.empty else none }

/-- The qualifying mask of a batch slot on a core: bit i of word k stands for INDEX FIRST + 32 k + i (R94). -/
def State.maskOf (s : State) (t : Slot) (q : List (Nat × Nat)) : FMap Word :=
  (List.range 8).foldl (fun m k =>
    FMap.set 0 m k (w32 ((List.range 32).foldl (fun v i =>
      if q.any fun x => s.ctxIndex x.1 == t.first + 32 * k + i then v + 2 ^ i else v) 0))) []

/-- A sequencer command of class `t.jclass` begins at an instruction index on core n, for a context with sub-frame u; a batch for its first
qualifying instance, and without one with undefined g28 to g30 (log entry 94). -/
def State.seqBegin (s : State) (n : Nat) (r : RunCmd) (t : Slot) (entry : Nat) (of : Option (Nat × Nat)) : State :=
  match s.codeOf r.part t.jclass n with
  | none => s
  | some code =>
    let mask := if t.batch then s.maskOf t (s.qualifying r.part r.slot (.seq n)) else []
    let free := fun k => Config.emptyBatch s.free k
    let regs := match of with
      | some (ctx, u) => [w32 (s.ctxArea ctx), w32 (s.ctxIndex ctx), w32 u]
      | none => [free 28, free 29, free 30]
    let job := (of.map fun x => s.jobOf x.1 t.jclass t.group).getD 0
    (s.modCore n fun c => c.begin r entry code (of.map (·.1)) job (s.isRt r.part) (regs ++ [FMap.get 0 mask 0]) mask s.tb.raw).addCmd r

/-- A sequencer command that reaches the end of its position without completing END (R120). -/
def State.noEnd (s : State) (n : Nat) (r : RunCmd) : State :=
  ((s.bump (R.COR_NOEND n)).endCmd { r with atomic := false } .other)

/-- An atomic command's compiled length fits in the rest of its slot from a position on (R97). -/
def State.atomFits (s : State) (part slot pos : Nat) (t : Slot) : Bool :=
  !t.atom || decide (s.cmdLen part slot ≤ t.len - (if t.batch then 0 else pos * t.ilen))

/-- A position of a slot that may begin now on an engine. -/
def State.posDue (s : State) (part slot pos : Nat) (t : Slot) (e : Engine) : Bool :=
  s.lcSlot part slot && (s.slotEngines part t).contains e && s.slotBegun part slot && s.atPosStart part slot t e pos &&
    (if t.batch then decide (pos = 0) else decide (pos < t.count)) && s.atomFits part slot pos t

/-- SEQ_INSTANCE_START: timed idle when no entry qualifies, its context is torn down, or its class is held on the core; a batch runs also for
no instance (R84). -/
def execSeqInstanceStart (core part slot pos : Nat) (s : State) : Host.Outcome State Fault Refusal :=
  let t := s.slot part slot
  .next (
    if t.kind ≠ 0 || !s.posDue part slot pos t (.seq core) then s
    else
      let s := match s.cmdOn (.seq core) with
        | some r => s.noEnd core r
        | none => s
      let of := s.atPos part slot t (.seq core) pos
      if s.classHeld t.jclass (.seq core) || (!t.batch && (of.isNone || of.any fun x => s.isTorn x.1)) then s
      else s.seqBegin core (s.newCmd part slot pos t (.seq core) (if t.batch then none else of.map (·.1))) t t.entry of)

/-! ## Slots (R83, R86) -/

/-- The commit of a position of a CARR slot begins on the lane, if it has a context with a frame to commit (R102). -/
def State.carrPos (s : State) (part slot pos : Nat) (t : Slot) : State :=
  match s.atPos part slot t (.carr part) pos with
  | some (ctx, _) =>
    if (s.isTorn ctx && !s.safeact ctx) || !s.atomFits part slot pos t then s
    else s.addCmd (s.newCmd part slot pos t (.carr part) (some ctx))
  | none => s

/-- The positions of a CARR slot that has begun: in this cycle those that end are killed if their commit still runs (R356), and those that
begin put theirs on the lane. -/
def State.laneTick (s : State) (part slot : Nat) : State :=
  let t := s.slot part slot
  let poss := List.range (if t.batch then 1 else t.count)
  let s := match s.cmdOn (.carr part) with
    | some r => if r.part == part && r.slot == slot && s.atPosEnd part slot t (.carr part) r.pos then s.endCmd { r with atomic := false } .other else s
    | none => s
  forEach (poss.filter fun i => s.atPosStart part slot t (.carr part) i) s fun s i => s.carrPos part slot i t

/-- The lanes one cycle on. -/
def State.tickLanes (s : State) : State := forEach s.sch.lanes s fun s x => s.laneTick x.1 x.2

/-- SLOT_START: the slot's first cycle. Engines begin its positions by their own commands; the commit lane and the poll begin here. -/
def execSlotStart (part slot : Nat) (s : State) : Host.Outcome State Fault Refusal :=
  let t := s.slot part slot
  .next (
    if !s.lcSlot part slot || s.slotBegun part slot || !s.atSlotStart part slot t then s
    else
      let f := s.frame part t.group
      let s := s.setFrame part t.group { f with started := f.started ++ [slot] }
      match t.kind with
      | 3 => { s with sch := { s.sch with lanes := s.sch.lanes ++ [(part, slot)] } }.carrPos part slot 0 t
      | 4 => s.poll t.unit t.len (s.rd64 (R.SCH_FC part 2))
      | _ => s)

/-- A slot has reached its end: START + LEN from the effective anchor, or from the true anchor for FEN; a nested one once its window cycles
have passed. Between a true anchor and its effective anchor the slots of the previous frame run on (R68). -/
def State.atSlotEnd (s : State) (part slot : Nat) (t : Slot) : Bool :=
  let f := s.frame part t.group
  if t.nest then
    (s.slotEngines part t).any fun e =>
      match s.planOf part slot e with
      | some q => s.atSpot part t.group t.start (q.fin ⟨0, 0⟩)
      | none => false
  else if t.kind = 1 then f.effRaw.isSome && cyclesBetween f.trueRaw s.tb.raw == t.start + t.len
  else f.counts.map (fun r => cyclesBetween r s.tb.raw) == some (t.start + t.len)

/-- SLOT_END: a solve has met its deadline; a sequencer command without END and a commit end under R98, atomic or not; a chain goes on
(R316). -/
def execSlotEnd (part slot : Nat) (s : State) : Host.Outcome State Fault Refusal :=
  let t := s.slot part slot
  let f := s.frame part t.group
  .next (
    if !s.lcSlot part slot || !s.slotBegun part slot || f.ended.contains slot || !s.atSlotEnd part slot t then s
    else
      let s := s.setFrame part t.group { f with ended := f.ended ++ [slot] }
      let s := { s with sch := { s.sch with lanes := s.sch.lanes.filter fun x => x != (part, slot) } }
      forEach (s.sch.running.filter fun r => r.part == part && r.slot == slot && !r.paused) s fun s r =>
        match r.eng with
        | .fen m => s.fenDeadline m
        | .seq n => s.noEnd n r
        | .carr _ => s.endCmd { r with atomic := false } .other
        | .dma _ => s)

/-! ## DMA positions (R312) -/

/-- A chain begins on channel k for a slot's position, or is refused and counted. A DMAGO that would start the channel in the same cycle gives
way and sets DBUSY (R312). -/
def State.dmaPos (s : State) (k part slot : Nat) (r : RunCmd) (t : Slot) : State :=
  let late := (s.dmaOf k).go.filter fun g => decide (s.tb.raw.toNat ≤ g.2.2.toNat)
  let s := match late with
    | some (n, _, _) => (s.dmaIdle k).modCore n fun c => { c with xflags := c.xflags ||| fDBUSY }
    | none => s
  if (s.dmaOf k).st ≠ .idle then s.bump (R.DMA_BUSYST (k / 8))
  else (s.dmaStart k (t.entry % 4096) false r.ctx part (some slot)).addCmd r

/-- DMA_INSTANCE_POSITION_START: on each channel the slot stands on. -/
def execDmaInstancePositionStart (part slot pos : Nat) (s : State) : Host.Outcome State Fault Refusal :=
  let t := s.slot part slot
  .next (forEach (s.slotEngines part t) s fun s e =>
    match e with
    | .dma k =>
      if t.kind ≠ 2 || !s.posDue part slot pos t e then s
      else
        match s.atPos part slot t e pos with
        | none => s
        | some (ctx, _) =>
          if !t.batch && s.isTorn ctx then s
          else s.dmaPos k part slot (s.newCmd part slot pos t e (if t.batch then none else some ctx)) t
    | _ => s)

/-! ## Group B (R87, R95 to R98) -/

/-- The group B slots that stand on an engine, in table order. -/
def State.groupBSlots (s : State) (p : Nat) (e : Engine) : List Nat :=
  (List.range (s.nslot p)).filter fun i =>
    (s.slot p i).v && (s.slot p i).group == 3 && (s.slotEngines p (s.slot p i)).contains e

/-- The contexts that a group B slot serves on an engine, by INDEX: active ones, and in FEN and CARR slots those torn down with SAFEACT
(R102). -/
def State.groupBCtxs (s : State) (p : Nat) (t : Slot) (e : Engine) : List Nat :=
  let safe := if t.kind = 1 ∨ t.kind = 3 then s.sch.torn.filter s.safeact else []
  let l := (s.activeCtxs ++ safe).filter fun c =>
    s.ctxPart c == some p && s.onEngine e c && decide (t.first ≤ s.ctxIndex c) && s.modelFits p t.jclass c &&
    (s.jobsOf c).any fun j => s.jobGroup c j == 3 && fld (s.rd (R.SCH_RB c (10 + j))) 23 6 == t.jclass
  l.foldl (fun q c => q.takeWhile (fun x => decide (s.ctxIndex x ≤ s.ctxIndex c)) ++
    c :: q.dropWhile (fun x => decide (s.ctxIndex x ≤ s.ctxIndex c))) []

/-- The key under which the next INDEX of a group B class on an engine is kept. -/
def rrKey (e : Engine) (c : Nat) : Nat := 2 ^ 20 + engKey e * 64 + c

/-- The context whose turn is next in a group B class. -/
def State.groupBNext (s : State) (p : Nat) (t : Slot) (e : Engine) : Option Nat :=
  let l := s.groupBCtxs p t e
  let i := FMap.get 0 s.sch.turns (rrKey e t.jclass)
  match l.find? fun c => decide (i ≤ s.ctxIndex c) with
  | some c => some c
  | none => l.head?

/-- The command of a group B slot to go on with on an engine: its paused one, or a new one. -/
def State.groupBCmd (s : State) (p i : Nat) (t : Slot) (e : Engine) : Option RunCmd :=
  match s.sch.running.find? fun r => r.eng == e && r.part == p && r.slot == i && r.paused with
  | some r => some { r with paused := false, start := s.tb.raw }
  | none => (s.groupBNext p t e).map fun c => s.newCmd p i 0 t e (some c)

/-- Cycles that the next tile, or the next untiled command, of a group B command takes (R96, R97). -/
def State.groupBLen (s : State) (p i : Nat) (t : Slot) (r : RunCmd) : Nat :=
  if t.kind = 0 ∧ !t.atom then (((s.tilesOf p t.jclass).getD r.pos (0, 0)).2) else s.cmdLen p i

/-- The cycles that a slot covers on an engine from now on in its group's current frame, as first cycle from now and length; a frame whose
effective anchor has not come counts from now, the earliest it can come (R80, R96). -/
def State.covers (s : State) (p i : Nat) (t : Slot) (e : Engine) : List (Int × Nat) :=
  let since := fun (g : Nat) => (((s.sinceEff (s.frame p g)).getD 0 : Nat) : Int)
  if t.nest then
    match s.planOf p i e with
    | some q => (q.inWin (s.frame p t.group).wins).map fun x => (((t.start + x.1.off : Nat) : Int) - since (s.baseGroup p), x.2)
    | none => []
  else [(((t.start : Nat) : Int) - since t.group, t.len)]

/-- Cycles from now on that group B may have on an engine: none while a latency-critical slot covers it, else up to the next such slot and the
end of the base frame at its nominal period (R80, R95, R96); of a best-effort partition, without bound. -/
def State.gap (s : State) (p : Nat) (e : Engine) : Option Nat :=
  if !s.isRt p then none
  else
    let b := s.baseGroup p
    let left := s.flen p b - (s.sinceEff (s.frame p b)).getD 0
    let lc := (List.range (s.nslot p)).filter fun i =>
      (s.slot p i).v && (s.slot p i).group != 3 && (s.slotEngines p (s.slot p i)).contains e
    let cov := lc.flatMap fun i => s.covers p i (s.slot p i) e
    some (cov.foldl (fun (m : Nat) (x : Int × Nat) =>
      if x.1 ≤ 0 then (if 0 < x.1 + (x.2 : Int) then 0 else m) else min m x.1.toNat) left)

/-- A group B slot has something that fits the gap on an engine (R96, R97): its class is not held there, and a tile has at most 256 cycles. -/
def State.groupBReady (s : State) (p i : Nat) (e : Engine) : Option RunCmd :=
  let t := s.slot p i
  match s.groupBCmd p i t e with
  | some r =>
    let len := s.groupBLen p i t r
    let fits := match s.gap p e with
      | some g => decide (len ≤ g) && decide (0 < g)
      | none => true
    if !s.classHeld t.jclass e && fits && (t.kind != 0 || t.atom || decide (len ≤ 256)) then some r else none
  | none => none

/-- Group B slots of an engine from the one whose class has its turn. -/
def State.groupBOrder (s : State) (p : Nat) (e : Engine) : List Nat :=
  let l := s.groupBSlots p e
  match FMap.find s.sch.turns (engKey e) with
  | none => l
  | some i => l.filter (i ≤ ·) ++ l.filter (· < i)

/-- A group B command or tile begins on its engine: the first at the slot's ENTRY (R115), a later one at the index that the manifest gives it
(DESIGN CHOICE, log entry 6). -/
def State.groupBBegin (s : State) (p i : Nat) (t : Slot) (r : RunCmd) : State :=
  match r.eng, r.ctx with
  | .seq n, some ctx =>
    let tiles := s.tilesOf p t.jclass
    let at_ := if r.pos = 0 then t.entry else (tiles.getD r.pos (t.entry, 0)).1
    let next := if t.atom then none else (tiles[r.pos + 1]?).map (·.1)
    (s.seqBegin n r t at_ (some (ctx, Config.groupBSub s.free ctx))).modCore n fun c => { c with tileAt := next }
  | .fen m, some _ => s.fenBegin m r t
  | .dma k, _ => s.dmaPos k p i r t
  | .carr _, _ => s.addCmd r
  | _, _ => s

/-- GROUP_B_TILE_START: the engine is free, and this slot is the first in turn with something that fits the gap. The unit finds the gap from its
tables (`State.gap`), and not from the command's operand (DESIGN CHOICE, log entry 51). -/
def execGroupBTileStart (part slot : Nat) (eng : Engine) (_gap : Nat) (s : State) : Host.Outcome State Fault Refusal :=
  let t := s.slot part slot
  let order := s.groupBOrder part eng
  .next (
    if !s.running || !s.partOn part || decide (8 ≤ part) || (s.cmdOn eng).isSome ||
        order.find? (fun i => (s.groupBReady part i eng).isSome) != some slot then s
    else
      match s.groupBReady part slot eng with
      | none => s
      | some r =>
        let next := match r.ctx with
          | some c => s.ctxIndex c + 1
          | none => 0
        let turns := FMap.upd (FMap.upd s.sch.turns (engKey eng) (some (slot + 1))) (rrKey eng t.jclass) (some next)
        ({ s with sch := { s.sch with turns := turns } }).groupBBegin part slot t r)

/-! ## Watchdog, teardown requests, Reedbed writes -/

/-- COMMAND_WATCHDOG_EXPIRY (R427): teardown with cause 0x05, a failure of the class on the engine. -/
def execCommandWatchdogExpiry (eng : Engine) (s : State) : Host.Outcome State Fault Refusal :=
  .next (
    match s.cmdOn eng with
    | none => s
    | some r =>
      if decide (1 < r.kind) || decide (r.held + cyclesBetween r.start s.tb.raw < 2 * s.compiledLen r) then s
      else
        let s := match r.ctx with
          | some c => s.teardown c 5
          | none => s.stopCmd r
        s.escFail 1 r.jclass (engEsc eng) 5)

/-- SCH_TDREQ_WRITE (R101). -/
def execSchTdreqWrite (value : Word) (s : State) : Host.Outcome State Fault Refusal :=
  .next (if s.hostWrites && value.getLsbD 31 then s.teardown (fld value 0 12) 6 else s)

/-- REEDBED_WRITE (R90): a whole word (R15). -/
def execReedbedWrite (ctx word : Nat) (value : Word) (be : BitVec 4) (s : State) : Host.Outcome State Fault Refusal :=
  .next (if s.hostWrites && be == 0xF && decide (ctx < 4096) && decide (word < 16) then (s.rbWrite ctx word value 0xFFFFFFFF).st else s)

end Sys2Proof.Machine
end

