-- ==== Sys2Proof/Machine/Commit.lean ====
section
/-! DEFINITION. The Carr output commit: its template, launch time, payload and frame, the hold area of the divergence policies, and the
part that does not drive (R355, R356, R387, R392, R393). -/

namespace Sys2Proof.Machine

open Sys2Proof

/-- An output template (R355). -/
structure Tmpl where
  v     : Bool
  part  : Nat
  port  : Nat
  queue : Nat
  lmode : Nat
  plen  : Nat
  soff  : Nat
  foff  : Nat
  lph   : Word
  lk    : Nat
  dmac  : BitVec 48
  vid   : Nat
  deriving DecidableEq, Repr

/-- A template out of its words. -/
def Tmpl.ofWords (f : Nat → Word) : Tmpl :=
  { v := (f 0).getLsbD 31, part := fld (f 0) 28 3, port := fld (f 0) 26 2, queue := fld (f 0) 23 3, lmode := fld (f 0) 21 2
    plen := fld (f 0) 0 16, soff := fld (f 1) 16 16, foff := fld (f 1) 0 16, lph := f 2, lk := fld (f 3) 24 8
    dmac := BitVec.ofNat 48 (fld (f 5) 0 16 * 2 ^ 32 + (f 4).toNat), vid := fld (f 5) 16 12 }

/-- The active template t. -/
def State.tmpl (s : State) (t : Nat) : Tmpl := Tmpl.ofWords fun w => s.act (R.CARR_TMPL t w)

/-- The hold word (R392): DIV, AGV, AG, CV and CSTEP. -/
structure Hold where
  div   : Bool
  agv   : Bool
  ag    : Nat
  cv    : Bool
  cstep : Word
  deriving DecidableEq, Repr

/-- The fields of a hold word. -/
def Hold.ofWord (d : Dword) : Hold := ⟨d.getLsbD 63, d.getLsbD 62, b2n (d.getLsbD 61), d.getLsbD 60, lo32 d⟩

/-- The hold word of fields. -/
def Hold.word (h : Hold) : Dword :=
  w64 (b2n h.div * 2 ^ 63 + b2n h.agv * 2 ^ 62 + h.ag * 2 ^ 61 + b2n h.cv * 2 ^ 60 + h.cstep.toNat)

/-- Steps 1 and 2 of R393: the latch, and a candidate whose step agreed promoted. -/
def State.holdStep (s : State) (ctx job pol : Nat) (h : Hold) : Hold :=
  let h := if (s.rd (R.MIR_DIVMAP (ctx / 32))).getLsbD (ctx % 32) then { h with div := true } else h
  let agreed := s.field (R.MIR_VERD ctx job) 0 3 == 1 && s.rd (R.MIR_VERD ctx job + 4) == h.cstep
  if pol = 2 ∧ !h.div ∧ h.cv ∧ agreed then { h with ag := 1 - h.ag, agv := true } else h

/-- What a commit sends and writes (R393): the payload's offset in the context area, its flags, whether it is held or safe, the hold word
to write, and the slot of the candidate. -/
structure Choice where
  off   : Nat
  flags : Nat
  held  : Bool
  hold  : Option Hold
  slot  : Option Nat
  deriving DecidableEq, Repr

/-- Step 3 of R393: the payload of a template under its policy. -/
def chooseHeld (t : Tmpl) (pol hoff src : Nat) (step : Dword) (h : Hold) : Choice :=
  let sz := (t.plen + 127) / 128 * 128
  let slot := fun k => hoff + 128 + k * sz
  if !h.div then
    if pol = 2 then ⟨src, 0, false, some { h with cv := true, cstep := lo32 step }, some (slot (1 - h.ag))⟩
    else ⟨src, 0, false, some h, none⟩
  else if pol = 2 ∧ h.agv then ⟨slot h.ag, flagSTALE, true, some { h with cv := false }, none⟩
  else ⟨t.foff, flagSAFE, true, some (if pol = 2 then { h with cv := false } else h), none⟩

/-- A read of the commit lane that failed (R14, R282): unmapped, or uncorrectable. -/
inductive LaneRead where
  | ok (st : State) (bytes : List Byte)
  | fail (st : State) (cause : Nat)

/-- Bytes read by the commit lane (source 0x4). -/
def State.laneRead (s : State) (a len ctx : Nat) : LaneRead :=
  if !s.backed a len || !s.openRange a len then .fail s 4
  else
    let r := s.readWide a len 4 (some ctx)
    match r.bad with
    | some _ => .fail r.st 3
    | none => .ok r.st (bytesOf r.words a len)

/-- The command has ended on its lane; the next position begins at its own cycle. -/
def State.laneNext (s : State) (r : RunCmd) : State := s.completeCmd r

/-- A commit whose read failed: a teardown in a real-time partition, which kills it; otherwise its frame is not sent. -/
def State.laneFail (s : State) (r : RunCmd) (ctx cause : Nat) : State :=
  if s.isRt r.part then (if cause = 3 then s.teardownUe ctx cause else s.teardown ctx cause) else s.laneNext r

/-- The launch stamp of a commit (R356, R73); `w` is the word at SOFF. -/
def State.launchOf (s : State) (r : RunCmd) (t : Tmpl) (w : Word) : Option Word :=
  let f := s.frame r.part r.group
  match t.lmode with
  | 0 =>
    if r.group = 3 then some (Config.groupBLaunch s.free r.part)
    else if s.hasAnchor (some 1) r.part (some r.group) then some (s.stampOf f.trueRaw + t.lph)
    else some (s.launchStamp (f.phase + t.lph) t.lk)
  | 1 => some w
  | _ => none

/-- The frame of a commit enters its queue, or is discarded by a part that does not drive (R387). -/
def State.commitPoint (s : State) (r : RunCmd) (t : Tmpl) (ctx flags : Nat) (step : Dword) (launch : Option Word) (payload : List Byte) : State :=
  if !s.drives then s.bump R.MIR_SUPPR
  else
    let ver := match s.peerOf t.port t.dmac with
      | some i => (s.peerVer i).getD 3
      | none => 3
    let seq := lo32 (s.groupFc r.part r.group)
    let tci : Option (BitVec 16) := if t.vid = 0 then none else some (BitVec.ofNat 16 t.vid)
    let body := carrBytes ver 0x02 flags seq ctx step (launch.getD 0) payload
    (s.offer t.port t.queue (txFrame (ethBytes t.dmac (s.mac t.port) tci s.etype body) tci.isSome launch)).st

/-- The hold word and the candidate slot written after the commit point (R393). -/
def State.holdWrite (s : State) (area hoff : Nat) (c : Choice) (payload : List Byte) : State :=
  match c.hold with
  | none => s
  | some h =>
    let s := (s.writeBytes (area + hoff) (leBytes 8 h.word.toNat) 0xC none false).st
    match c.slot with
    | some o => (s.writeBytes (area + o) payload 0xC none false).st
    | none => s

/-- The commit with its payload chosen: source rows read, launch time fixed, frame queued, hold area written. -/
def State.commitWith (s : State) (r : RunCmd) (t : Tmpl) (ctx area hoff : Nat) (step : Dword) (c : Choice) : State :=
  match (if t.lmode = 1 then s.laneRead (area + t.soff) 8 ctx else .ok s []) with
  | .fail s cause => s.laneFail r ctx cause
  | .ok s w =>
    match s.laneRead (area + c.off) t.plen ctx with
    | .fail s cause => s.laneFail r ctx cause
    | .ok s payload =>
      let s := s.commitPoint r t ctx c.flags step (s.launchOf r t (w32 (leAt w 0 4))) payload
      let s := if c.held then s.bump R.MIR_HOLDC else s
      (s.holdWrite area hoff c payload).laneNext r

/-- The commit of a command for its context. -/
def State.commit (s : State) (r : RunCmd) (ctx : Nat) : State :=
  let entry := (s.slot r.part r.slot).entry % 64
  let t := s.tmpl entry
  let pol := fld (s.act (R.MIR_POL entry)) 30 2
  let hoff := fld (s.act (R.MIR_POL entry)) 0 16
  let job := s.jobOf ctx r.jclass r.group
  let step := s.jobStep r.part r.group ctx job
  let area := s.ctxArea ctx
  let src := t.soff + if t.lmode = 1 then 8 else 0
  if s.isTorn ctx then s.commitWith r t ctx area hoff step ⟨t.foff, flagSAFE, false, none, none⟩
  else if pol = 1 ∨ pol = 2 then
    match s.laneRead (area + hoff) 8 ctx with
    | .fail s cause => s.laneFail r ctx cause
    | .ok s b =>
      s.commitWith r t ctx area hoff step (chooseHeld t pol hoff src step (s.holdStep ctx job pol (Hold.ofWord (w64 (ofLe b)))))
  else s.commitWith r t ctx area hoff step ⟨src, 0, false, none, none⟩

/-- The first row that a commit reads: the hold word's (R393), or that of its source. -/
def State.commitRow (s : State) (r : RunCmd) (ctx : Nat) : Nat :=
  let entry := (s.slot r.part r.slot).entry % 64
  let t := s.tmpl entry
  let pol := fld (s.act (R.MIR_POL entry)) 30 2
  s.ctxArea ctx + (if s.isTorn ctx then t.foff
    else if pol = 1 ∨ pol = 2 then fld (s.act (R.MIR_POL entry)) 0 16 else t.soff)

/-- The position of a commit has begun. -/
def State.commitDue (s : State) (r : RunCmd) : Bool :=
  let t := s.slot r.part r.slot
  r.group == 3 || t.nest ||
    (match s.sinceEff (s.frame r.part r.group) with
      | some c => decide (t.start + r.pos * t.ilen ≤ c)
      | none => r.atomic)

/-- CARR_OUTPUT_COMMIT: the commit that runs on the partition's lane reaches its commit point, unless its first read is held (R248, R250). -/
def execCarrOutputCommit (part slot pos : Nat) (s : State) : Host.Outcome State Fault Refusal :=
  .next (
    match s.cmdOn (.carr part) with
    | none => s
    | some r =>
      if !s.running || r.slot ≠ slot || r.pos ≠ pos || !s.commitDue r then s
      else
        match r.ctx with
        | some ctx => s.ask ordCommit (s.claimsOf false (s.commitRow r ctx) 1) fun s => s.commit r ctx
        | none => s.laneNext r)

end Sys2Proof.Machine
end

