-- ==== Sys2Proof/Machine/Dma.lean ====
section
/-! DEFINITION. The commands of the DMA channels and of the LPDDR6 controller (R305, R306, R309, R312, R315, R319, R320). -/

namespace Sys2Proof.Machine

open Sys2Proof

/-! ## Host control (R320) -/

/-- A control operation of the host on channel `chan` of a cluster: ignored and counted on the service channel or when the channel's state
does not allow it. -/
def State.chctl (s : State) (cluster chan : Nat) (allowed : List DmaState) (act : State → Nat → State) : State :=
  let k := cluster * 8 + chan
  if !s.hostWrites || !s.hasChan k || decide (8 ≤ chan) then s
  else if chan = 7 ∨ !allowed.contains (s.dmaOf k).st then s.bump (R.DMA_IGN cluster)
  else act s k

/-- GO. -/
def execDmaChctlGo (cluster chan didx : Nat) (s : State) : Host.Outcome State Fault Refusal :=
  .next (s.chctl cluster chan [.idle] fun s k => s.dmaStart k (didx % 4096) true none 0 none)

/-- STOP (R316). -/
def execDmaChctlStop (cluster chan : Nat) (s : State) : Host.Outcome State Fault Refusal :=
  .next (s.chctl cluster chan [.run, .wait] fun s k => s.dmaEnd k)

/-- RESUME: the halted descriptor runs again from its start. -/
def execDmaChctlResume (cluster chan : Nat) (s : State) : Host.Outcome State Fault Refusal :=
  .next (s.chctl cluster chan [.halt] fun s k =>
    (s.modDma k fun c => { c with st := .run, desc := none, issued := false, segs := c.read, ending := false, raw := s.tb.raw }).wr (chReg R.DMA_CHDONE k) 0)

/-- The current descriptor of channel k: as it was read, or, of one whose read halted the channel, as it stands in memory. -/
def State.curDesc (s : State) (k : Nat) : Desc :=
  (s.dmaOf k).desc.getD (Desc.ofBytes (s.peek (s.descAddr (k / 8) (s.dmaOf k).didx) 32))

/-- SKIP: on to NEXT, or idle after LAST, without the descriptor's SIGC. -/
def execDmaChctlSkip (cluster chan : Nat) (s : State) : Host.Outcome State Fault Refusal :=
  .next (s.chctl cluster chan [.halt] fun s k =>
    let d := s.curDesc k
    if d.last then s.dmaIdle k else s.dmaNext k d.next)

/-- CLEAR. -/
def execDmaChctlClear (cluster chan : Nat) (s : State) : Host.Outcome State Fault Refusal :=
  .next (s.chctl cluster chan [.halt] fun s k => s.dmaIdle k)

/-! ## Descriptors (R309, R313, R315) -/

/-- An object that channel k reaches (R31). -/
def State.objOk (s : State) (k obj : Nat) : Bool :=
  let m := obj / 1024
  decide (m < s.nClusters) && (decide (m = k / 8) ||
    match s.partOf (k / 8) with
    | some p => s.hasCluster p m
    | none => false)

/-- An operation on an object posted by channel k; an object it does not reach halts it. -/
def State.dmaPost (s : State) (k obj : Nat) (op : SyncKind) : State :=
  if s.objOk k obj then s.post obj (syncLat (k / 8) obj) op else s.dmaHalt k causeUNMAPPED 0 obj

/-- NOP. -/
def execDmaNop (cluster chan : Nat) (s : State) : Host.Outcome State Fault Refusal :=
  .next (s.dmaAct (cluster * 8 + chan) 0 fun s _ => s.dmaIssued (cluster * 8 + chan))

/-- COPY: its rows are read and written in the cycles that follow. -/
def execDmaCopy (cluster chan : Nat) (s : State) : Host.Outcome State Fault Refusal :=
  .next (s.dmaAct (cluster * 8 + chan) 1 fun s _ => s.dmaIssued (cluster * 8 + chan))

/-- FILL. -/
def execDmaFill (cluster chan : Nat) (s : State) : Host.Outcome State Fault Refusal :=
  .next (s.dmaAct (cluster * 8 + chan) 2 fun s _ => s.dmaIssued (cluster * 8 + chan))

/-- SIGNAL. -/
def execDmaSignal (cluster chan : Nat) (s : State) : Host.Outcome State Fault Refusal :=
  let k := cluster * 8 + chan
  .next (s.dmaAct k 3 fun s d => (s.dmaIssued k).dmaPost k d.obj (.signal d.amount))

/-- RESET. -/
def execDmaReset (cluster chan : Nat) (s : State) : Host.Outcome State Fault Refusal :=
  let k := cluster * 8 + chan
  .next (s.dmaAct k 5 fun s d => (s.dmaIssued k).dmaPost k d.obj .reset)

/-- WAIT: it reaches its object with the latency of R38, and is evaluated there in the order of R39 (R315). -/
def execDmaWait (cluster chan : Nat) (s : State) : Host.Outcome State Fault Refusal :=
  let k := cluster * 8 + chan
  .next (s.dmaAct k 4 fun s d =>
    if !s.objOk k d.obj then s.dmaHalt k causeUNMAPPED 0 d.obj
    else ((s.dmaIssued k).modDma k fun c => { c with waits := some false }).post d.obj (syncLat cluster d.obj) (.waitDma k d.w1))

/-- DMA_WAIT_MET: the object has reached the target. -/
def execDmaWaitMet (cluster chan : Nat) (s : State) : Host.Outcome State Fault Refusal :=
  let k := cluster * 8 + chan
  let d := s.curDesc k
  .next (if s.hasChan k ∧ (s.dmaOf k).st = .wait ∧ ((s.dmaOf k).waits = some true ∨ waitMet (s.count d.obj) d.w1) then
      s.modDma k fun c => { c with st := .run, waits := none, raw := s.tb.raw }
    else s)

/-- DMA_DESCRIPTOR_COMPLETE: the last write has completed: SIGC is posted, and the chain goes to NEXT or ends. -/
def execDmaDescriptorComplete (cluster chan : Nat) (s : State) : Host.Outcome State Fault Refusal :=
  let k := cluster * 8 + chan
  let c := s.dmaOf k
  .next (if !(s.hasChan k && c.st == .run && c.finished && !c.ending) then s
    else
      let d := s.curDesc k
      let s := (s.bump (chReg R.DMA_CHCNT k)).modDma k fun c => { c with raw := s.tb.raw }
      let s := if (d.op = 1 ∨ d.op = 2) ∧ d.sigc then s.dmaPost k d.obj (.signal d.amount) else s
      if (s.dmaOf k).st ≠ .run then s
      else if d.last then s.dmaDone k
      else s.dmaNext k d.next)

/-- DMA_WATCHDOG_EXPIRY (R319). -/
def execDmaWatchdogExpiry (cluster chan : Nat) (s : State) : Host.Outcome State Fault Refusal :=
  let k := cluster * 8 + chan
  let c := s.dmaOf k
  let wdt := max 1 (fld (s.rd (chReg R.DMA_CHCFG k)) 0 16)
  .next (if s.hasChan k ∧ (c.st = .run ∨ c.st = .wait) ∧ wdt * 1024 ≤ cyclesBetween c.raw s.tb.raw then s.dmaHalt k causeWDOG 0 0 else s)

/-! ## The LPDDR6 controller (R305, R306) -/

/-- The memory is trained and in service. -/
def State.memOn (s : State) : Bool := (s.rd R.MEM_STAT).getLsbD 31 && !(s.rd R.MEM_STAT).getLsbD 30

/-- LPDDR6_REQUEST_COMPLETE: a 64-byte request is counted, and its channel has left power-down. -/
def execLpddr6RequestComplete (unit : Nat) (write partialWord : Bool) (s : State) : Host.Outcome State Fault Refusal :=
  .next (if !s.memOn ∨ s.field R.GLB_MEM 0 8 * 2 ^ 24 ≤ unit then s
    else
      let chan := unit / 4 % 4
      let s := { s.clrBits R.MEM_STAT (bitMask (8 + chan)) with memReq := FMap.set 0 s.memReq chan s.tb.raw }
      let s := if write then s.bump R.MEM_WRCNT else s.bump R.MEM_RDCNT
      if write && partialWord then s.bump R.MEM_RMWCNT else s)

/-- LPDDR6_ZQ_LATCH: a background command to the memory, with no effect on the device's state. -/
def execLpddr6ZqLatch (s : State) : Host.Outcome State Fault Refusal := .next s

/-- LPDDR6_OSC_READ: drift beyond one eighth of a unit interval retrains, and is counted. -/
def execLpddr6OscRead (drift : Bool) (s : State) : Host.Outcome State Fault Refusal :=
  .next (if s.memOn && drift then s.bump R.MEM_RETRAIN else s)

/-- LPDDR6_TEMP_READ: the channel's multiplier; a rise above 1 is flagged and logged. -/
def execLpddr6TempRead (chan : Nat) (mult : BitVec 4) (s : State) : Host.Outcome State Fault Refusal :=
  .next (if !s.memOn ∨ 4 ≤ chan then s
    else
      let old := s.field R.MEM_REFM (4 * chan) 4
      let s := s.setField R.MEM_REFM (4 * chan) 4 mult.toNat
      if 1 < mult.toNat then
        let s := s.setBits R.MEM_FLAGS 2
        if old < mult.toNat then s.event 0x0A03 (w32 (chan + mult.toNat * 2 ^ 8)) none else s
      else s)

/-- LPDDR6_POWER_DOWN_ENTRY: a channel without a request for PDIDLE × 100 ns enters power-down; PDIDLE 0 disables it. -/
def execLpddr6PowerDownEntry (chan : Nat) (s : State) : Host.Outcome State Fault Refusal :=
  let idle := s.field R.MEM_PDCFG 0 16
  let quiet := (s.tb.raw - FMap.get 0 s.memReq chan).toNat
  .next (if s.memOn ∧ chan < 4 ∧ idle ≠ 0 ∧ idle * 100 ≤ quiet then s.setBits R.MEM_STAT (bitMask (8 + chan)) else s)

end Sys2Proof.Machine
end

