-- ==== Sys2Proof/Machine/Timebase.lean ====
section
/-! DEFINITION. The commands of the timebase: commits, the event list and its actions, edges and misses of the phase loop, pulses, snapshots and
the end of coasting (R49, R50, R53, R55, R56, R62 to R66, R72 to R75, R357). -/

namespace Sys2Proof.Machine

open Sys2Proof

/-! ## Commits (R50, R74) -/

/-- A timebase commit (R74, R419): ignored while its group is pending; its code stands in TB_CSTAT, and a rejected one is logged. -/
def State.tbCommit (s : State) (pend codeAt group code entry : Nat) : State :=
  if s.tbPending pend then s.bump R.GLB_STGIGN
  else
    let s := s.setField R.TB_CSTAT codeAt 8 code
    if code = 0 then s.setBits R.TB_CSTAT (bitMask pend)
    else s.event 0x0206 (w32 (group + code * 2 ^ 8 + entry * 2 ^ 16)) none

/-- The code of a TIME commit. -/
def State.timeCode (s : State) : Nat :=
  let r := (s.rd64 R.TB_RATE).toNat
  if r < 0x80000000 ∨ 0x180000000 < r then 1 else 0

/-- TB_COMMIT_TIME. -/
def execTbCommitTime (s : State) : Host.Outcome State Fault Refusal :=
  .next (if s.hostWrites then s.tbCommit pendTIME 0 1 s.timeCode 0 else s)

/-- Input k is enabled in the shadow set. -/
def State.pinShadow (s : State) (k : Nat) : Bool := decide (k < 4) && (s.rd (R.TB_PIN_CFG k)).getLsbD 31

/-- The code of a PH commit. -/
def State.phCode (s : State) : Nat :=
  let cfg := s.rd R.TB_PH_CFG
  let src := fld cfg 0 3
  let nom := (s.rd64 R.TB_PH_NOM).toNat % 2 ^ 48
  if (src != 4 && !s.pinShadow src) || (cfg.getLsbD 7 && !s.pinShadow (fld cfg 4 3)) then 2
  else if nom < 1407375 || 1407374883553 < nom || fld cfg 16 4 == 0 then 3
  else if fld cfg 8 8 == 0 then 4
  else 0

/-- TB_COMMIT_PH. -/
def execTbCommitPh (s : State) : Host.Outcome State Fault Refusal :=
  .next (if s.hostWrites then s.tbCommit pendPH 8 2 s.phCode 0 else s)

/-! ## Event entries (R62, R65) -/

/-- An event entry's words. -/
structure Evt where
  w0 : Word
  w1 : Word
  w2 : Word
  w3 : Word
  deriving DecidableEq, Repr

/-- Entry i of the shadow list, and of the active list. -/
def State.evtShadow (s : State) (i : Nat) : Evt := ⟨s.rd (R.TB_EVT i 0), s.rd (R.TB_EVT i 1), s.rd (R.TB_EVT i 2), s.rd (R.TB_EVT i 3)⟩
def State.evt (s : State) (i : Nat) : Evt := ⟨s.act (R.TB_EVT i 0), s.act (R.TB_EVT i 1), s.act (R.TB_EVT i 2), s.act (R.TB_EVT i 3)⟩

def Evt.en (e : Evt) : Bool := e.w0.getLsbD 31
def Evt.kind (e : Evt) : Nat := fld e.w0 29 2
def Evt.action (e : Evt) : Nat := fld e.w0 24 5
def Evt.subdiv (e : Evt) : Nat := fld e.w0 16 8
def Evt.pdiv (e : Evt) : Nat := fld e.w0 0 16
def Evt.interval (e : Evt) : Nat := fld e.w0 0 24 * 10
def Evt.psel (e : Evt) : Nat := fld e.w3 0 16
def Evt.start (e : Evt) : Nat := (join64 e.w2 e.w3).toNat
def Evt.part (e : Evt) : Nat := fld e.w1 8 3
def Evt.group (e : Evt) : Nat := fld e.w1 0 2
def Evt.hp (e : Evt) : Bool := e.w1.getLsbD 5
def Evt.amount (e : Evt) : Nat := fld e.w1 16 8
def Evt.obj (e : Evt) : Nat := fld e.w1 0 14
def Evt.width (e : Evt) : Nat := fld e.w1 0 16

/-- An enabled ANCHOR entry. -/
def Evt.anchor (e : Evt) : Bool := e.en && e.action == 1

/-- The ARG of an entry breaks its action's row (R65). -/
def Evt.badArg (e : Evt) : Bool :=
  let outside := fun (m : Nat) => Nat.land e.w1.toNat (2 ^ 32 - 1 - m) != 0
  match e.action with
  | 0 | 5 => outside 0
  | 1 => outside 0x723 || e.group == 3
  | 2 => outside 0xFF3FFF || e.amount == 0
  | 3 => outside 0xFFFF || e.width == 0
  | 4 => outside 3
  | _ => true

/-- An entry breaks the rules of code 0x05. -/
def Evt.bad (e : Evt) : Bool :=
  decide (1 < e.kind) || e.badArg || (e.kind == 0 && (decide (e.pdiv < e.psel) || fld e.w3 16 16 != 0))

/-- Partition p is enabled in the active set or in its shadow. -/
def State.enabledSomewhere (s : State) (p : Nat) : Bool := s.partOn p || (s.rd (R.SCH_PCFG p)).getLsbD 31

/-- The lowest code of an EVT commit and its lowest entry (R66, R74). -/
def State.evtCode (s : State) : Nat × Nat :=
  let l := (List.range 64).filter fun i => (s.evtShadow i).en
  let e := s.evtShadow
  match l.find? fun i => (e i).bad with
  | some i => (5, i)
  | none =>
    let an := l.filter fun i => (e i).anchor
    match an.find? fun i => an.any fun j => (e i).part == (e j).part && (e i).group == (e j).group && (e i).kind != (e j).kind with
    | some i => (6, i)
    | none =>
      match l.find? fun i => ((e i).anchor && !s.enabledSomewhere (e i).part) ||
          ((e i).action == 2 && decide (s.fuses.clusters ≤ (e i).obj / 1024)) with
      | some i => (7, i)
      | none => (0, 0)

/-- TB_COMMIT_EVT. -/
def execTbCommitEvt (s : State) : Host.Outcome State Fault Refusal :=
  .next (
    if !s.hostWrites then s
    else
      let was := s.tbPending pendEVT
      let c := s.evtCode
      let s := s.tbCommit pendEVT 16 4 c.1 c.2
      if !was && c.1 == 0 then { s with tb := { s.tb with evtNow := true } } else s)

/-- A committed list takes effect in this cycle (R66). -/
def State.evtDue (s : State) : Bool := s.tbPending pendEVT && s.tb.inWrap && !s.tb.evtNow

/-- EVENT_LIST_TAKES_EFFECT: the main W becomes 0. The W of a coasting partition runs on: R63 speaks of W alone, and R71 gives a coast clock
a W of its own (DESIGN CHOICE, log entry 93). -/
def execEventListTakesEffect (s : State) : Host.Outcome State Fault Refusal :=
  .next (
    if s.running && s.evtDue then
      let s := s.apply ((List.range 256).map fun w => R.TB_EVT 0 w)
      let s := s.clrBits R.TB_CSTAT (bitMask pendEVT)
      { s with tb := { s.tb with w := 0, wrapDue := false, wCounted := false, wZero := true, evtNext := [] } }
    else s)

/-! ## Actions (R65, R75, R357) -/

/-- A snapshot of the three clocks. -/
def State.snap (s : State) : State :=
  ((s.wr64 R.TB_SNAP_RAW s.tb.raw).wr64 R.TB_SNAP_TIME s.time).wr R.TB_SNAP_PHASE (phaseOf s.tb.acc)

/-- The PHASE frame of an ANNOUNCE on a port (R357). -/
def State.announce (s : State) (port : Nat) : State :=
  let seq := FMap.get 0 s.net.phaseSeq port + 1
  let dst := mac48 (s.act64 R.CARR_PHDST)
  let ver := match s.peerOf port dst with
    | some i => (s.peerVer i).getD 3
    | none => 3
  let st := match s.tb.state with
    | .free => 0
    | .acquire => 1
    | .locked => 2
    | .holdover => 3
  let body := beBytes 4 s.stamp.toNat ++ beBytes 4 (phaseOf s.tb.acc).toNat ++ (if ver = 2 then [] else beBytes 4 s.tb.w.toNat) ++
    beBytes 8 s.tb.inc.toNat ++ beBytes 1 st ++ beBytes 1 s.tb.src ++ beBytes 2 0
  let s := { s with net := { s.net with phaseSeq := FMap.set 0 s.net.phaseSeq port seq } }
  (s.offer port 7 (txFrame (ethBytes dst (s.mac port) none s.etype (carrBytes ver 0x07 0 seq 0 0 s.stamp body)) false none)).st

/-- An entry fires; an anchor has the trigger phase `phase`. -/
def State.fire (s : State) (e : Evt) (phase : Word) : State :=
  match e.action with
  | 1 => s.trueAnchor e.part e.group e.hp phase
  | 2 => s.post e.obj 2 (.signal e.amount)
  | 3 => { s with tb := { s.tb with pulses := s.tb.pulses ++ [(4, e.width)] } }
  | 4 => s.announce (fld e.w1 0 2)
  | 5 => s.snap
  | _ => s

/-- TB_SNAP_TAKE. -/
def execTbSnapTake (s : State) : Host.Outcome State Fault Refusal := .next (if s.hostWrites then s.snap else s)

/-! ## Triggers (R63, R64, R71) -/

/-- Trigger j of a PHASE entry. -/
def Evt.trigger (e : Evt) (j : Nat) : Word := w32 (e.w2.toNat + j * 2 ^ 32 / (e.subdiv + 1))

/-- The accumulator values of a trigger. -/
def accOf (t : Word) : BitVec 48 := BitVec.ofNat 48 (t.toNat * 2 ^ 16)

/-- The clock that an entry follows: the coast clock of a partition it anchors, or the main clock; its previous value, its value and W. -/
def State.clockOf (s : State) (e : Evt) : BitVec 48 × BitVec 48 × Word :=
  match (if e.action = 1 then FMap.find s.tb.coast e.part else none) with
  | some c => (c.prev, c.acc, c.w)
  | none => (s.tb.prev, s.tb.acc, s.tb.wNow)

/-- PHASE_TRIGGER: the first trigger of the entry that the phase has reached in this cycle and that has not fired. -/
def execPhaseTrigger (entry : Nat) (s : State) : Host.Outcome State Fault Refusal :=
  let e := s.evt entry
  let (prev, acc, w) := s.clockOf e
  .next (
    if !s.running || 64 ≤ entry || s.evtDue || !e.en || e.kind != 0 || w.toNat % (e.pdiv + 1) != e.psel then s
    else
      match (List.range (e.subdiv + 1)).find? fun j =>
          passed prev acc (accOf (e.trigger j)) && !s.tb.fired.contains (entry * 256 + j) with
      | none => s
      | some j => { s with tb := { s.tb with fired := s.tb.fired ++ [entry * 256 + j] } }.fire e (e.trigger j))

/-- TIME_TRIGGER: the latest instant reached fires, those passed over are counted (R64). -/
def execTimeTrigger (entry : Nat) (s : State) : Host.Outcome State Fault Refusal :=
  let e := s.evt entry
  let m := FMap.get 0 s.tb.evtNext entry
  let now := s.time.toNat
  .next (
    if !s.running || 64 ≤ entry || s.evtDue || !e.en || e.kind != 1 || m == 2 ^ 64 || decide (now < e.start + m * e.interval) then s
    else
      let k := if e.interval = 0 then 0 else (now - e.start) / e.interval
      let next := if e.interval = 0 then 2 ^ 64 else k + 1
      let s := { s with tb := { s.tb with evtNext := FMap.set 0 s.tb.evtNext entry next } }
      let s := if m < k then (s.addSat R.TB_EVT_SKIP (k - m)).setBits R.TB_FLAGS 32 else s
      s.fire e (phaseOf s.tb.acc))

/-! ## The phase clock's own events -/

/-- PHASE_WRAP: W counts the wrap of this cycle (R53). -/
def execPhaseWrap (s : State) : Host.Outcome State Fault Refusal :=
  .next (if s.tb.wrapDue then { s with tb := { s.tb with w := s.tb.w + 1, wrapDue := false, wCounted := true } } else s)

/-- PHASE_IN_EDGE: a level on an input's ball (R55). -/
def execPhaseInEdge (pin : Nat) (level : Bool) (s : State) : Host.Outcome State Fault Refusal :=
  .next (if pin < 4 then s.setPin pin { s.pin pin with ball := level } else s)

/-- CANDIDATE_EDGE: the edge recognised in this cycle, if its input is the active source. -/
def execCandidateEdge (pin : Nat) (s : State) : Host.Outcome State Fault Refusal :=
  let p := s.pin pin
  .next (
    if !s.running || 4 ≤ pin || !p.cand then s
    else
      let s := s.setPin pin { p with cand := false }
      if (s.act (R.TB_PIN_CFG pin)).getLsbD 31 && s.tb.src == pin && s.tb.state != .free then s.candidate pin else s)

/-- PHASE_MISS: the miss of this cycle counted. -/
def execPhaseMiss (s : State) : Host.Outcome State Fault Refusal :=
  .next (
    if !s.running || !s.tb.missDue then s
    else
      let k := s.tb.src
      let s := { s with tb := { s.tb with missDue := false } }
      (s.bumpField (R.TB_PIN_CNT k) 0).badEdge)

/-- PULSE_END: a pulse has lasted its width; the output falls when no other pulse holds it. -/
def execPulseEnd (s : State) : Host.Outcome State Fault Refusal :=
  .next (
    let spent := s.tb.pulses.any fun p => p.1 == 0 && p.2 == 0
    if !spent then s
    else
      let ps := s.tb.pulses.filter fun p => !(p.1 == 0 && p.2 == 0)
      let high := ps.any fun p => p.1 == 0
      let s1 := { s with tb := { s.tb with pulses := ps, pps := high && s.tb.pps } }
      if s.tb.pps && !high then s1.emit (.pps false) else s1)

/-! ## The end of coasting (R72) -/

/-- TB_COAST_END: a request stands for the partitions that coast. -/
def execTbCoastEnd (parts : BitVec 8) (s : State) : Host.Outcome State Fault Refusal :=
  .next (
    if s.hostWrites then
      { s with tb := { s.tb with coastEnd := Nat.lor s.tb.coastEnd (Nat.land parts.toNat (s.rd R.TB_COAST).toNat) } }
    else s)

/-- No trigger of an anchor entry of partition p lies between two accumulators, going from the one behind to the one ahead. -/
def State.clearBetween (s : State) (p : Nat) (a b : BitVec 48) : Bool :=
  let fwd := decide (0 ≤ (b - a).toInt)
  let lo := if fwd then a else b
  let hi := if fwd then b else a
  (List.range 64).all fun i =>
    let e := s.evt i
    !(e.anchor && e.kind == 0 && e.part == p) ||
      (List.range (e.subdiv + 1)).all fun j => !passed lo hi (accOf (e.trigger j))

/-- PHASE_COAST_END: the condition is met in this cycle. The partition's entries follow the coast clock to the end of it, so that no trigger fires
twice, and the main clock from the next (DEDUCED, log entry 39). -/
def execPhaseCoastEnd (part : Nat) (s : State) : Host.Outcome State Fault Refusal :=
  .next (match FMap.find s.tb.coast part with
    | none => s
    | some c =>
      let win := fld (s.act R.TB_PH_WIN) 0 16 * 2 ^ 16
      let dInc := ((s.tb.inc.toNat : Int) - c.inc.toNat).natAbs
      let dPh := (phaseOf s.tb.acc - phaseOf c.acc).toInt.natAbs
      let auto := (s.act R.TB_COAST_CFG).getLsbD part && decide (dInc ≤ c.inc.toNat / 2 ^ 8) && decide (dPh ≤ win)
      if s.running && !c.ending && (auto || s.tb.coastEnd.testBit part) && s.clearBetween part c.acc s.tb.acc then
        let left := if s.tb.coastEnd.testBit part then s.tb.coastEnd - 2 ^ part else s.tb.coastEnd
        let s := { s with tb := { s.tb with coast := FMap.upd s.tb.coast part (some { c with ending := true }), coastEnd := left } }
        (s.clrBits R.TB_COAST (bitMask part)).event 0x0205 (w32 (part * 2 ^ 8)) none
      else s)

end Sys2Proof.Machine
end

