-- ==== Sys2Proof/Machine/Admit.lean ====
section
/-! DEFINITION. The admission checks of a load (R5, R13, R28, R30, R77, R78, R88, R104 to R106, R217, R254 to R258, R307 to R311, R355):
each reads the pending set and says what it refuses. -/

namespace Sys2Proof.Machine

open Sys2Proof

/-! ## The pending set of a partition -/

/-- A load under check: its partition, its manifest, and the pending table. -/
structure Load where
  p     : Nat
  man   : Manifest
  cfg   : Word
  slots : List Slot
  deriving DecidableEq, Repr

/-- The pending set of partition p. -/
def State.loadOf (s : State) (p : Nat) (man : Manifest) : Load :=
  let cfg := s.rd (R.SCH_PCFG p)
  ⟨p, man, cfg, (List.range (min 1024 (fld cfg 16 11))).map fun i => slotWords (fun w => s.rd (R.SCH_PIMG p w)) i⟩

def Load.rt (l : Load) : Bool := l.cfg.getLsbD 30
def Load.base (l : Load) : Nat := fld l.cfg 28 2
def Load.clusters (l : Load) : List Nat := bitsOf 16 (fld l.cfg 0 16)
def Load.holds (l : Load) (m : Nat) : Bool := l.clusters.contains m

/-- The engines of a slot of the pending table. -/
def Load.engines (l : Load) (t : Slot) : List Engine := enginesOf l.slots l.clusters l.p t

/-- The slots with their numbers that a test refuses: the first of them. -/
def Load.badSlot (l : Load) (test : Slot → Bool) : Option Nat := (l.slots.zipIdx.find? fun x => test x.1).map (·.2)

/-- A pending group period. -/
def State.pflen (s : State) (l : Load) (g : Nat) : Nat := fld (s.rd (flenReg l.p g)) 0 21

/-- The event list that will be in force: the pending one if there is one (R66, R105). -/
def State.evtList (s : State) : List Evt := (List.range 64).map fun i => if s.tbPending pendEVT then s.evtShadow i else s.evt i

/-- The partition's anchors in the event list that will be in force. -/
def State.anchorsOf (s : State) (l : Load) : List Evt := s.evtList.filter fun e => e.anchor && e.part == l.p

/-- The enabled jobs of the artifact's contexts, by their words. -/
def State.jobWords (s : State) (l : Load) : List Word :=
  l.man.contexts.flatMap fun c => ((List.range 4).map fun j => s.rd (R.SCH_RB c (10 + j))).filter fun w => w.getLsbD 31

/-- Groups F, M and S that the artifact uses, fastest first: those of its slots and of its enabled jobs. -/
def State.usedGroups (s : State) (l : Load) : List Nat :=
  (List.range 3).filter fun g => (l.slots.any fun t => t.group == g) || (s.jobWords l).any fun w => fld w 29 2 == g

/-- The anchored groups, fastest first: those that are used, and those with an anchor in the event list. -/
def State.groupsOf (s : State) (l : Load) : List Nat :=
  (List.range 3).filter fun g => (s.usedGroups l).contains g || (s.anchorsOf l).any fun e => e.group == g

/-- The pending class descriptor of class c. -/
def State.pclass (s : State) (l : Load) (c : Nat) : Word := s.rd (R.SCH_PIMG l.p (4096 + 2 * c))

/-- The first fault among details. -/
def firstOf {α : Type} (l : List α) (f : α → Option Nat) : Option Nat := l.findSome? f

/-- A detail when a condition holds. -/
def when (b : Bool) (d : Nat) : Option Nat := if b then some d else none

/-! ## Handles (R254 to R258) -/

/-- A handle entry. -/
structure Handle where
  num   : Nat
  w0    : Word
  w1    : Word
  len   : Nat
  spill : Nat
  deriving DecidableEq, Repr

def Handle.valid (h : Handle) : Bool := h.w0.getLsbD 31
def Handle.place (h : Handle) : Nat := fld h.w0 26 2
def Handle.groupB (h : Handle) : Bool := h.w0.getLsbD 25
def Handle.ret (h : Handle) : Bool := h.w0.getLsbD 24
def Handle.unit (h : Handle) : Nat := fld h.w0 16 7
def Handle.off (h : Handle) : Nat := handleOff h.w0 h.w1

/-- The valid entries of a handle table, read through its window. -/
def State.handles (s : State) (win : Nat → Nat) : List Handle :=
  (List.range 256).filterMap fun n =>
    let h : Handle := ⟨n, s.rd (win (4 * n)), s.rd (win (4 * n + 1)), (s.rd (win (4 * n + 2))).toNat, (s.rd (win (4 * n + 3))).toNat⟩
    if h.valid then some h else none

/-- The pending and the active entries of partition p. -/
def State.pendHandles (s : State) (p : Nat) : List Handle := s.handles (R.SPD_PHND p)
/-- The entries of the active handle table of partition p, which is valid only after an accepted load (R268). -/
def State.actHandles (s : State) (p : Nat) : List Handle := if s.sch.tabled.contains p then s.handles (R.SPD_AHND p) else []

/-- The memories that an entry names, before R257: cores and cluster memories by memory number (R297). -/
def Handle.units (h : Handle) (clusters : List Nat) : List Nat :=
  match h.place with
  | 0 => [h.unit]
  | 1 => [128 + h.unit]
  | 2 => clusters.flatMap fun m => (List.range 8).map (8 * m + ·)
  | _ => clusters.map (128 + ·)

/-- Bytes that two ranges share. -/
def shared (a la b lb : Nat) : Nat := min (a + la) (b + lb) - max a b

/-- An entry is absent from a memory: replicated, group B and not retained, and a per-unit entry of the table covers a byte of it (R257). -/
def Handle.absent (h : Handle) (table : List Handle) (n : Nat) : Bool :=
  decide (2 ≤ h.place) && h.groupB && !h.ret &&
    table.any fun o => decide (o.place < 2) && o.units [] == [n] && decide (0 < shared h.off h.len o.off o.len)

/-- The memories in which an entry is present. -/
def Handle.present (h : Handle) (table : List Handle) (clusters : List Nat) : List Nat :=
  (h.units clusters).filter fun n => !h.absent table n

/-- Bytes of an entry in bank b of memory n. -/
def Handle.inBank (h : Handle) (n b : Nat) : Nat := shared h.off h.len (b * bankSize n) (bankSize n)

/-- An entry breaks its layout (R258). -/
def Handle.bad (h : Handle) (p : Nat) : Bool :=
  let bank := if fld h.w0 26 1 = 0 then 0x10000 else 0x80000
  h.w0.getLsbD 23 || fld h.w0 0 12 != 0 || fld h.w0 28 3 != p || h.w1.toNat % 128 != 0 || h.len % 128 != 0 || h.len == 0 ||
    decide (bank ≤ h.w1.toNat) || (!h.groupB && h.spill != 0)

/-- Bytes of memory n that GLB_SIZES reports. -/
def sizeOf (n : Nat) : Nat := if n < 128 then 0x100000 else 0x800000

/-! ## Codes 0x01 to 0x05 -/

/-- CORE_COUNT (R5). -/
def State.chkCores (s : State) (l : Load) : Option Nat :=
  when (!l.man.portable && l.man.cores != 8 * s.fuses.clusters) (l.man.cores % 256)

/-- GRADE_SIZE (R13, R258): a handle past its memory, a spill area or a model image past LPDDR6. -/
def State.chkSize (s : State) (l : Load) : Option Nat :=
  let hs := s.pendHandles l.p
  let lp := s.memSize 144
  match firstOf hs fun h =>
      let copies := if h.place < 2 then 1 else (h.units l.clusters).length
      when (decide (sizeOf (if fld h.w0 26 1 = 0 then 0 else 128) < h.off + h.len) ||
        (h.groupB && decide (lp < h.spill * 4096 + copies * h.len))) h.num with
  | some d => some d
  | none => when (l.man.images.any fun i => decide (lp < i.1 + i.2)) l.man.weightHandle

/-- Clusters that another partition holds, active or accepted. -/
def State.heldElsewhere (s : State) (p : Nat) : List Nat :=
  (List.range 8).flatMap fun q =>
    if q = p then [] else
    s.clustersOf q ++ (if s.field R.SCH_LSTAT q 1 = 1 then bitsOf 16 (s.field (R.SCH_PCFG q) 0 16) else [])

/-- PARTITION (R30, R76, R258). -/
def State.chkPart (s : State) (l : Load) : Option Nat :=
  let badc := l.clusters.filter fun m => decide (s.nClusters ≤ m) || (s.heldElsewhere l.p).contains m
  if l.clusters.isEmpty then some 0
  else if !badc.isEmpty then some ((badc.map (2 ^ ·)).sum)
  else if !l.rt && l.slots.any (fun t => t.v && t.group != 3) then some 0
  else firstOf (s.pendHandles l.p) fun h =>
    if h.place < 2 then
      let m := if h.place = 0 then h.unit / 8 else h.unit
      when (!l.holds m) (if m < 16 then 2 ^ m else 0)
    else none

/-- TABLE_SIZE. -/
def Load.chkTable (l : Load) : Option Nat :=
  if 1024 < fld l.cfg 16 11 then some 0 else l.badSlot fun t => !t.v

/-- A class has a usable code handle on core n for an instruction index (R88). -/
def State.codeFits (s : State) (l : Load) (hs : List Handle) (t : Slot) (n : Nat) : Bool :=
  let c := fld (s.pclass l t.jclass) 0 8
  match hs.find? fun h => h.num == c with
  | some h => c != 255 && (h.present hs l.clusters).contains n && decide (4 * t.entry + 4 ≤ h.len)
  | none => false

/-- A class's code holds a DMAGO on channel 7 (R148, R307). -/
def State.codeNames7 (s : State) (l : Load) (hs : List Handle) (t : Slot) (n : Nat) : Bool :=
  match hs.find? fun h => h.num == fld (s.pclass l t.jclass) 0 8 with
  | some h => (List.range (h.len / 4)).any fun i =>
      let w := w32 (s.peekLe (memBase n + h.off + 4 * i) 4)
      Isa.op w == 0x58 && Isa.ch w == 7
  | none => false

/-- The pending template t, and its layout (R355). -/
def State.ptmpl (s : State) (t : Nat) : Tmpl := Tmpl.ofWords fun w => s.rd (R.CARR_TMPL t w)
def State.tmplBad (s : State) (t : Nat) : Bool :=
  let w := fun i => s.rd (R.CARR_TMPL t i)
  let x := s.ptmpl t
  x.lmode == 3 || fld (w 0) 16 5 != 0 || decide (1472 < x.plen) || fld (w 3) 0 24 != 0 || fld (w 5) 28 4 != 0 || w 6 != 0 || w 7 != 0

/-- A slot's fields are out of order (R81, R82, R87, R88, R211, R307, R355). Code that names channel 7 is refused with its slot. -/
def State.slotBad (s : State) (l : Load) (hs : List Handle) (i : Nat) (t : Slot) : Bool :=
  (s.rd (R.SCH_PIMG l.p (4 * i + 3))).getLsbD 0 || decide (6 ≤ t.kind) ||
    (t.group != 3 && decide (256 < t.first + t.count)) ||
    (t.group == 3 && (t.start != 0 || t.len != 0 || t.ilen != 0 || t.wlen != 0 || t.nest)) ||
    (match t.kind with
      | 0 => !((l.engines t).all fun e =>
          match e with
          | .seq n => s.codeFits l hs t n && !s.codeNames7 l hs t n
          | _ => true)
      | 1 => decide (255 < t.entry)
      | 2 => t.unit % 8 == 7
      | 3 =>
        let x := s.ptmpl (t.entry % 64)
        decide (63 < t.entry) || !x.v || x.part != l.p || (x.lmode == 0 && x.lk != 0 && s.hasAnchor (some 1) l.p (some t.group))
      | _ => false)

/-- A named descriptor, as cluster × 4,096 + index, and the one after it (R308 to R311). -/
def State.pdesc (s : State) (m i : Nat) : Desc :=
  Desc.ofBytes (s.peek (memBase (128 + m) + (s.rd (R.DMA_DBASE m)).toNat + 32 * i) 32)
def State.descRefused (s : State) (l : Load) (k : Nat) : Bool :=
  let m := k / 4096
  let d := s.pdesc m (k % 4096)
  let inside := fun a => s.backed a d.len && (match s.place a with
    | some q => decide (q.mem < 144) && l.holds (memCluster q.mem)
    | none => false)
  let runs := (List.range (d.rpt + 1)).map fun j => (d.src.toNat + j * d.sstr, d.dst.toNat + j * d.dstr)
  let moves := d.op == 1 || d.op == 2
  d.reserved ||
    (moves && !d.var && (!d.compiledOk || runs.any fun r => !inside r.2 || (d.op == 1 && !inside r.1))) ||
    (moves && runs.any fun r => !s.ownAddr m r.2 && !(d.op == 1 && s.ownAddr m r.1)) ||
    (d.var && !d.last && !(s.pdesc m d.next).var)

/-- The reserved bits of a staged word hold a bit. -/
def State.resBits (s : State) (off : Nat) : Bool :=
  match RegMap.word off with
  | some w => s.rd off &&& ~~~ (w32 w.mask) != 0
  | none => false

/-- Reserved bits of the partition's staged registers and of a class descriptor (R88, R105, R114). -/
def State.reservedSet (s : State) (l : Load) : Bool :=
  ([R.SCH_PCFG l.p, R.SCH_FLEN_F l.p, R.SCH_FLEN_M l.p, R.SCH_FLEN_S l.p, R.SCH_MODE l.p].any s.resBits) ||
  (List.range 64).any fun c => decide (2 ^ 9 ≤ (s.pclass l c).toNat) || s.rd (R.SCH_PIMG l.p (4097 + 2 * c)) != 0

/-- ENTRY_FIELD: slots, then contexts, then what has no place in the detail: the mode, handles, templates, descriptors. -/
def State.chkFields (s : State) (l : Load) : Option Nat :=
  let hs := s.pendHandles l.p
  let tmpls := (List.range 64).filter fun t => (s.ptmpl t).v && (s.ptmpl t).part == l.p
  match (l.slots.zipIdx.find? fun x => s.slotBad l hs x.2 x.1).map (·.2) with
  | some d => some d
  | none =>
    match firstOf l.man.contexts fun c => when ((List.range 4).any fun j =>
        let w := s.rd (R.SCH_RB c (10 + j))
        w.getLsbD 31 && decide (fld w 15 8 < fld w 7 8)) (2 ^ 31 + c * 2 ^ 16) with
    | some d => some d
    | none => when (s.reservedSet l || fld (s.rd (R.SCH_MODE l.p)) 1 1 == 1 || hs.any (fun h => h.bad l.p) || tmpls.any s.tmplBad ||
        (l.clusters.any fun m => (s.rd (R.DMA_DBASE m)).toNat % 32 != 0 || decide (0x800000 < (s.rd (R.DMA_DBASE m)).toNat + 0x20000)) ||
        l.man.descriptors.any (s.descRefused l)) 0

/-! ## Fennel programs (R208, R211 to R217) -/

/-- The 16 words of a program's descriptor through the pending FEN_PTAB, taken as a device address; the addresses of the streams are offsets in
the cluster memory. The spec calls each an address in cluster memory (DESIGN CHOICE, log entry 97). -/
def State.progWord (s : State) (m prog w : Nat) : Word :=
  w32 (s.peekLe ((s.rd (R.FEN_PTAB m)).toNat / 64 * 64 + 64 * prog + 4 * w) 4)

/-- Rows that a row reference reaches, under any area and buffer (R208). -/
def rowOk (foff moff n : Nat) (w : Word) : Bool :=
  let r := fld w 0 17
  let tops := [0] ++ (if w.getLsbD 18 then [moff] else []) ++ (if w.getLsbD 17 then [foff] else []) ++
    (if w.getLsbD 18 && w.getLsbD 17 then [moff + foff] else [])
  tops.all fun t => decide (r + t + n ≤ 8192) || (decide (65536 ≤ r) && decide (r + t + n ≤ 131072))

/-- The bits that an op's row of R213 names in word 0 below the opcode, and in words 1 to 3. -/
def opFields (opc : Nat) : Nat × Nat × Nat × Nat :=
  match opc with
  | 1 => (0x3D0F, 0x7FFFF, 0x7FFFF, 0xC007FFFF)
  | 2 => (0x3FFF, 0x7FFFF, 0x1F, 0)
  | 3 => (0x3F1F, 0x7FFF, 0xFFFFFFFF, 0)
  | 4 => (0x0FFF, 0x7FFFF, 0, 0)
  | 5 => (0x3F, 0x7FFFF, 0, 0)
  | 6 | 7 => (1, 0x7FFFF, 0, 0)
  | 8 => (0x1F, 0, 0, 0)
  | 9 => (0xF, 0, 0, 0)
  | 10 => (0x3FF, 0, 0, 0)
  | 11 => (0x1F, 0, 0, 0)
  | 12 => (0x41F, 0, 0, 0)
  | _ => (0, 0, 0, 0)

/-- An op holds a reserved value, a row outside R208, or an array outside the grant. -/
def opBad (foff moff amask : Nat) (o : FenOp) : Bool :=
  let opc := fenOpc o
  let m := opFields opc
  let beyond := fun (w : Word) (k : Nat) => w &&& ~~~ (w32 k) != 0
  let arr := !amask.testBit (fld o.w0 11 3)
  opc == 0 || decide (15 < opc) || beyond (w32 (fld o.w0 0 14)) m.1 || beyond o.w1 m.2.1 || beyond o.w2 m.2.2.1 || beyond o.w3 m.2.2.2 ||
  (match opc with
    | 1 => arr || fld o.w3 30 2 == 3 || !rowOk foff moff 8 o.w1 || !rowOk foff moff 8 o.w2 || (fld o.w3 30 2 != 0 && !rowOk foff moff 8 o.w3)
    | 2 => arr || !rowOk foff moff 8 o.w1
    | 3 => decide (11 < fld o.w0 8 6)
    | 4 | 5 => !rowOk foff moff 1 o.w1
    | 6 | 7 => !rowOk foff moff 8 o.w1
    | _ => false)

/-- `len` bytes from a device address lie in what the engine of cluster m reaches with granted core g: that core's scratchpad or its own
cluster memory, and are backed (R208). -/
def State.fenReach (s : State) (m g a len : Nat) : Bool :=
  s.backed a len && (match s.place a with
    | some q => q.mem == 8 * m + g || q.mem == 128 + m
    | none => false)

/-- The data block of a program (R212): at its address, or in the context areas of the slot's instances. -/
def State.dataBad (s : State) (l : Load) (m : Nat) (t : Slot) (w0 w1 : Word) : Bool :=
  let len := 0x180 + 4 * ((fld w0 16 8 + 1) / 2 * 128)
  if w0.getLsbD 25 then
    l.man.contexts.any fun c => decide (s.home c / 8 = m) && decide (s.ctxSize c < w1.toNat + len) &&
      (List.range 4).any fun j =>
        let w := s.rd (R.SCH_RB c (10 + j))
        w.getLsbD 31 && fld w 23 6 == t.jclass && fld w 29 2 == t.group
  else !s.fenReach m (t.unit % 8) w1.toNat len

/-- The program that a FEN slot names on cluster m: its descriptor and both streams are in order, and what they name is backed (R208, R217). -/
def State.progBad (s : State) (l : Load) (m : Nat) (t : Slot) : Bool :=
  let w := s.progWord m t.entry
  let w0 := w 0
  let ops := fun a => s.opsOf m a 4096 0
  let foff := fld (w 14) 16 16
  let moff := fld (w 14) 0 16
  let bad := opBad foff moff t.amask
  let ip := fld w0 30 2 == 1
  let past := fun (a : Word) => decide (0x800000 < a.toNat + 16 * (ops a.toNat).length)
  decide (1 < fld w0 30 2) || fld w0 28 2 == 0 || fld w0 26 2 == 0 || w0.getLsbD 24 || fld w0 16 8 == 0 || decide (32 < fld w0 16 8) ||
    (t.group == 3 && fld w0 0 16 == 0) || (w 1).toNat % 128 != 0 || (w 2).toNat % 16 != 0 || (w 3).toNat % 16 != 0 ||
    (ip && w 3 != 0) || fld (w 13) 0 16 != 0 || w 15 != 0 || s.dataBad l m t w0 (w 1) || past (w 2) || (w 3 != 0 && past (w 3)) ||
    !s.fenReach m (t.unit % 8) ((s.rd (R.FEN_PTAB m)).toNat / 64 * 64 + 64 * t.entry) 64 ||
    (ops (w 2).toNat).any bad || (w 3 != 0 && (ops (w 3).toNat).any bad)

/-- The issue cycles of ops, counted from the stream's start (R213). -/
def opTimes (ops : List FenOp) : List (FenOp × Nat) :=
  (ops.foldl (fun (r : List (FenOp × Nat) × Nat) o =>
    let t := r.2 + fld o.w0 20 12
    (r.1 ++ [(o, t)], t)) ([], 0)).1

/-- The lengths of a program are out of order (R217): the prologue, the body, and the position; `len` is the compiled length of a group B
command. -/
def State.progLen (s : State) (len m : Nat) (t : Slot) : Bool :=
  let w := s.progWord m t.entry
  let pro := fld (w 13) 16 16
  let cyc := fld (w 4) 0 16
  let tail := (fld (w 0) 16 8 + 1) / 2 + 1
  let times := opTimes (s.opsOf m (w 2).toNat 4096 0)
  let at_ := fun c => (times.find? fun x => fenOpc x.1 == c).map (·.2)
  let pos := if t.batch then t.len else t.ilen
  (match at_ 13, at_ 14 with
    | some b, some n => b != pro || n - b != cyc - 1
    | _, _ => true) ||
    (if t.group = 3 then decide (len < pro + fld (w 0) 0 16 * cyc + tail) else decide (pos < pro + cyc + tail))

/-- What an op holds: arrays 0 to 7, 8 lane unit, 9 reduction unit, 10 pivot unit, 11 compare unit, 12 the row write, each with its first and
last cycle from the op's issue (R209, R213, R214). -/
def opUses (fpass spass nvr : Nat) (o : FenOp) : List (Nat × Nat × Nat) :=
  let cyc := fun (pf : Bool) => let p := if pf then fpass else spass
    if p = 1 then 1 else if p = 2 then 3 else 6
  match fenOpc o with
  | 1 =>
    let n := (fld o.w0 0 4 + 1) * cyc (o.w0.getLsbD 8)
    (fld o.w0 11 3, 1, n) :: (if fld o.w3 30 2 = 0 then [] else [(12, n + 6, n + 13)])
  | 2 => [(fld o.w0 11 3, 1, (fld o.w2 0 4 + 1) * cyc (o.w2.getLsbD 4))]
  | 3 => [(if fld o.w0 8 6 = 8 then 9 else 8, 0, 0)]
  | 5 => [(12, 1, 1)]
  | 6 => [(10, 0, 7)]
  | 7 => [(10, 0, 7), (12, 0, 7)]
  | 8 => [(10, 0, 11)]
  | 9 => [(10, 0, 7)]
  | 10 | 11 => [(11, 0, 0)]
  | 12 => [(12, 0, (nvr + 1) / 2 - 1)]
  | _ => []

/-- The bodies of a stream with issue cycles from each body's start: split after each NEXT. -/
def bodies : List (FenOp × Nat) → Nat → List (FenOp × Nat) → List (List (FenOp × Nat))
  | [], _, cur => if cur.isEmpty then [] else [cur]
  | (o, t) :: r, base, cur =>
    let cur := cur ++ [(o, t - base)]
    if fenOpc o = 14 then cur :: bodies r (t + 1) [] else bodies r base cur

/-- Two uses are of one unit in one cycle. -/
def usesMeet (a b : Nat × Nat × Nat) : Bool := a.1 == b.1 && decide (a.2.1 ≤ b.2.2) && decide (b.2.1 ≤ a.2.2)

/-- Two ops of a program hold one unit in the same cycle (R217): two of one stream, or one of a body of the I-stream and one of an F-body. -/
def State.progClash (s : State) (m : Nat) (t : Slot) : Bool :=
  let w := s.progWord m t.entry
  let of := fun (x : FenOp × Nat) => (opUses (fld (w 0) 28 2) (fld (w 0) 26 2) (fld (w 0) 16 8) x.1).map fun u => (u.1, x.2 + u.2.1, x.2 + u.2.2)
  let self := fun (b : List (FenOp × Nat)) => b.zipIdx.any fun x =>
    (of x.1).any fun a => (b.drop (x.2 + 1)).any fun y => (of y).any fun c => usesMeet a c
  let it := opTimes (s.opsOf m (w 2).toNat 4096 0)
  if self it then true
  else if w 3 = 0 then false
  else
    let start := ((it.find? fun x => fenOpc x.1 == 13).map (·.2)).getD 0
    let ib := ((it.filter fun x => decide (start ≤ x.2)).map fun x => (x.1, x.2 - start)).flatMap of
    (bodies (opTimes (s.opsOf m (w 3).toNat 65536 0)) 0 []).any fun fb =>
      self fb || (fb.flatMap of).any fun a => ib.any fun b => usesMeet a b

/-- A DMA slot whose chain writes a byte of the result row or the state row of a FEN slot's instance (R217): a chain's writes are in its
descriptors. -/
def State.rowWriter (s : State) (l : Load) (m : Nat) (t : Slot) : Bool :=
  let w0 := s.progWord m t.entry 0
  let w1 := (s.progWord m t.entry 1).toNat
  !w0.getLsbD 25 && l.man.descriptors.any fun k =>
    let d := s.pdesc (k / 4096) (k % 4096)
    (d.op == 1 || d.op == 2) && (List.range (d.rpt + 1)).any fun j =>
      let a := d.dst.toNat + j * d.dstr
      decide (a < w1 + 0x100) && decide (w1 < a + d.len)

/-- A FEN slot that fails a test on one of its engines. -/
def Load.fenSlot (l : Load) (test : Nat → Slot → Bool) : Option Nat :=
  l.badSlot fun t => t.kind == 1 && (l.engines t).any fun e =>
    match e with
    | .fen m => test m t
    | _ => false

/-! ## Codes 0x06 to 0x0A -/

/-- Least and greatest frame period of a group in cycles, and greatest step period (R77). -/
def periods (g : Nat) : Nat × Nat × Nat :=
  match g with
  | 0 => (200, 2000, 2000)
  | 1 => (2000, 200000, 200000)
  | _ => (200000, 1048576, 20000000)

/-- The instants of an anchor entry fall on those of `fs` (R78): of a PHASE entry each trigger in each of its periods, of a TIME entry each of its
instants, up to the common multiple of the periods. -/
def Evt.fallsOn (e : Evt) (fs : List Evt) : Bool :=
  if e.kind = 0 then
    let n := fs.foldl (fun m f => Nat.lcm m (f.pdiv + 1)) (e.pdiv + 1) / (e.pdiv + 1)
    (List.range n).all fun k => (List.range (e.subdiv + 1)).all fun j =>
      fs.any fun f => decide ((e.psel + k * (e.pdiv + 1)) % (f.pdiv + 1) = f.psel) &&
        (List.range (f.subdiv + 1)).any fun i => f.trigger i == e.trigger j
  else
    let n := if e.interval = 0 then 1 else fs.foldl (fun m f => Nat.lcm m (max 1 f.interval)) e.interval / e.interval
    (List.range n).all fun k =>
      let a := e.start + k * e.interval
      fs.any fun f => if f.interval = 0 then decide (e.interval = 0 ∧ a = f.start)
        else decide (f.start ≤ a) && decide ((a - f.start) % f.interval = 0)

/-- A slower group whose anchors do not each fall on an anchor of every faster group, by the event list (R78). -/
def State.anchorsApart (s : State) (l : Load) (gs : List Nat) : Option Nat :=
  let an := s.anchorsOf l
  gs.find? fun g => (an.filter fun e => e.group == g).any fun e =>
    gs.any fun f => decide (f < g) && (an.any fun x => x.group == f && x.kind == e.kind) &&
      !e.fallsOn (an.filter fun x => x.group == f && x.kind == e.kind)

/-- HYPERPERIOD (R77, R78). -/
def State.chkHyper (s : State) (l : Load) : Option Nat :=
  if !l.rt then none
  else
    let gs := s.groupsOf l
    let per := s.pflen l
    match gs.find? fun g => decide (per g < (periods g).1) || decide ((periods g).2.1 < per g) with
    | some g => some g
    | none =>
      match firstOf (s.jobWords l) fun w =>
          let g := fld w 29 2
          let step := per g * (fld w 15 8 + 1)
          when (decide (g < 3) && (decide (step < (periods g).1) || decide ((periods g).2.2 < step))) g with
      | some g => some g
      | none =>
        match (gs.zip (gs.drop 1)).find? fun x => per x.2 % per x.1 != 0 with
        | some x => some x.2
        | none =>
          if gs.head?.getD l.base ≠ l.base then some l.base
          else
            match s.anchorsApart l gs with
            | some g => some g
            | none => (gs.getLast?).bind fun g => when (decide (2 ^ 20 < per g)) g

/-- ANCHOR_PLAN: the list in force is the pending one if there is one. -/
def State.chkAnchors (s : State) (l : Load) : Option Nat :=
  let an := s.anchorsOf l
  match (s.usedGroups l).find? fun g => !(an.any fun e => e.group == g) with
  | some g => some g
  | none =>
    match an.find? fun e => an.any fun o => o.kind != e.kind with
    | some e => some e.group
    | none => (an.find? fun e => e.hp && some e.group != (s.groupsOf l).getLast?).map Evt.group

/-- Manifests of other partitions' artifacts, loaded or accepted. -/
def State.otherMans (s : State) (p : Nat) : List Manifest :=
  ((s.sch.actMan ++ s.sch.pendMan).filter fun (c : Nat × Manifest) => c.1 != p).map (·.2)

/-- CONTEXTS. -/
def State.chkCtxs (s : State) (l : Load) : Option Nat :=
  firstOf l.man.contexts fun c =>
    when (decide (4096 ≤ c) || (s.otherMans l.p).any (fun m => m.contexts.contains c) || !l.holds (s.home c / 8)) (c % 4096)

/-- HANDLES: handle numbers are those of the table's 256 entries, each used once. -/
def Load.chkHandles (l : Load) : Option Nat :=
  let hs := l.man.handles
  when (decide (256 < hs.length) || hs.any (fun h => decide (256 ≤ h)) || hs.eraseDups.length != hs.length) (hs.length % 65536)

/-- SYNC_OBJECTS. -/
def State.chkObjs (s : State) (l : Load) : Option Nat :=
  firstOf l.man.objects fun o =>
    when (!l.holds (o / 1024) || (s.otherMans l.p).any fun m => m.objects.contains o) (o % 16384)

/-! ## BANK_SPACE (R106, R258) -/

/-- Retained entries of partitions without a table that lie in memory n (R260). -/
def State.keptElsewhere (s : State) (p n : Nat) : List Handle :=
  (List.range 8).flatMap fun q =>
    if q = p ∨ s.partOn q then [] else
    (s.actHandles q).filter fun h => h.ret && (h.units (bitsOf 16 (s.field (R.twin (R.SCH_PCFG q)) 0 16))).contains n

/-- KiB of a number of bytes, rounded up. -/
def kib (n : Nat) : Nat := (n + 1023) / 1024

/-- Bytes by which bank b of memory n is over: the space check, then bytes shared, then bytes in a bank that is off, closing or waking. -/
def State.bankOver (s : State) (l : Load) (hs kept : List Handle) (n b : Nat) : Option Nat :=
  let here := hs.filter fun h => (h.present hs l.clusters).contains n && decide (0 < h.inBank n b)
  let sum := fun (q : List Handle) => (q.map fun h => h.inBank n b).sum
  let lc := sum (here.filter fun h => !h.groupB || h.ret) + sum kept
  let bb := sum (here.filter fun h => h.groupB && !h.ret)
  let size := bankSize n
  let lap := (here.zipIdx.flatMap fun x => ((here ++ kept).drop (x.2 + 1)).map fun o =>
    let a := max x.1.off o.off
    shared a (shared x.1.off x.1.len o.off o.len) (b * size) size).sum
  if size < lc + bb then some (kib (lc + bb - size))
  else if 0 < lap then some (kib lap)
  else if 0 < lc + bb ∧ (s.bankGated n b || (s.rd (R.SPD_PGSTAT n)).getLsbD b) then some (kib (lc + bb))
  else none

/-- BANK_SPACE: memories ascending, then banks. -/
def State.chkBanks (s : State) (l : Load) : Option Nat :=
  let hs := s.pendHandles l.p
  let mems := (l.clusters.flatMap fun m => (List.range 8).map (8 * m + ·)) ++ l.clusters.map (128 + ·)
  firstOf mems fun n =>
    let kept := s.keptElsewhere l.p n
    firstOf (List.range 16) fun b => (s.bankOver l hs kept n b).map fun k => n * 2 ^ 16 + b * 2 ^ 8 + k % 256

/-! ## Lengths and conflicts (R28, R70, R83, R86) -/

/-- The manifest's entry for slot i. -/
def Load.manSlot (l : Load) (i : Nat) : ManifestSlot := l.man.slots.getD i ⟨0, 0⟩

/-- SLOT_LENGTH of one slot. -/
def State.slotLenBad (s : State) (l : Load) (i : Nat) (t : Slot) : Bool :=
  let len := (l.manSlot i).len
  t.group != 3 &&
    (decide (t.len < len) || decide (t.start < 16) || (!t.batch && decide (t.ilen < len)) ||
      (!t.nest && decide (s.pflen l t.group < t.start + t.len)) || (t.nest && decide (t.wlen < len)))

/-- The chain of group g on an engine in the pending table (R86). -/
def State.pchain (s : State) (l : Load) (e : Engine) (g : Nat) : List SlotPlan :=
  let on := l.slots.zipIdx.filterMap fun x =>
    if x.1.nest && x.1.group != 3 && (l.engines x.1).contains e then some (x.2, x.1, (l.manSlot x.2).len) else none
  chainOf on l.base (s.pflen l) g

/-- A nested slot runs past the windows that its group's frame offers, the group M chain before the group S chain, none of its instances across
a window's end. -/
def State.chainBad (s : State) (l : Load) (i : Nat) (t : Slot) : Bool :=
  let num := if s.pflen l l.base = 0 then 0 else s.pflen l t.group / s.pflen l l.base
  t.nest && t.group != 3 && (l.engines t).any fun e =>
    match (s.pchain l e t.group).find? fun q => q.slot == i with
    | some q => (q.units ++ q.rest).any fun x => decide (num ≤ x.1.win)
    | none => false

/-- SLOT_LENGTH. -/
def State.chkLengths (s : State) (l : Load) : Option Nat :=
  match (l.slots.zipIdx.find? fun x => s.slotLenBad l x.2 x.1 || s.chainBad l x.2 x.1).map (·.2) with
  | some d => some d
  | none =>
    (l.slots.zipIdx.find? fun x => x.1.kind == 1 && (l.engines x.1).any fun e =>
      match e with
      | .fen m => s.progLen (l.manSlot x.2).len m x.1
      | _ => false).map (·.2)

/-- A span of cycles in each frame of a group: first cycle, length, and the frame's period. -/
abbrev Span := Nat × Nat × Nat

/-- The cycles that a latency-critical slot covers on an engine in its group's frame (R83, R86). -/
def State.spans (s : State) (l : Load) (e : Engine) (i : Nat) (t : Slot) : List Span :=
  let per := s.pflen l t.group
  if t.nest then
    match (s.pchain l e t.group).find? fun q => q.slot == i with
    | some q => (q.units ++ q.rest).map fun x => (x.1.win * s.pflen l l.base + t.start + x.1.off, x.2, per)
    | none => []
  else [(t.start, t.len, per)]

/-- Two spans meet, anchored together, the slower period a multiple of the faster. -/
def spansMeet (a b : Span) : Bool :=
  let p := min a.2.2 b.2.2
  if p = 0 then false
  else
    decide (((a.1 : Int) - b.1) % (p : Int) < b.2.1) || decide (((b.1 : Int) - a.1) % (p : Int) < a.2.1)

/-- A span lengthened by a slip. -/
def Span.slip (x : Span) (n : Nat) : Span := (x.1, x.2.1 + n, x.2.2)

/-- Two latency-critical slots overlap on one engine at nominal anchors; nested slots of one engine share one window (R86). -/
def State.slotsMeet (s : State) (l : Load) (i j : Nat) (t u : Slot) : Bool :=
  t.group != 3 && u.group != 3 && (l.engines t).any fun e => (l.engines u).contains e &&
    (if t.nest && u.nest then t.start != u.start || t.wlen != u.wlen
     else (s.spans l e i t).any fun a => (s.spans l e j u).any fun b => spansMeet a b)

/-- The group whose effective anchor a slot is counted from: of a nested one the base group (R86). -/
def Load.counts (l : Load) (t : Slot) : Nat := if t.nest then l.base else t.group

/-- Two slots overlap on one engine once each is shifted by up to the slip limit of the group it is counted from (R70); two counted from one
effective anchor shift together. -/
def State.slipsMeet (s : State) (l : Load) (i j : Nat) (t u : Slot) : Bool :=
  let lim := fun g => fld (s.act (R.TB_SLIP_LIM l.p)) (10 * g) 10
  t.group != 3 && u.group != 3 && l.counts t != l.counts u && (l.engines t).any fun e => (l.engines u).contains e &&
    ((s.spans l e i t).any fun a => (s.spans l e j u).any fun b =>
      spansMeet (Span.slip a (lim (l.counts t))) (Span.slip b (lim (l.counts u))))

/-- The arrays that a slot holds on its engines: (engine, core, mask) of a grant, or of a sequencer's commands. -/
def Load.arrays (l : Load) (i : Nat) (t : Slot) : List (Engine × Nat × Nat) :=
  (l.engines t).filterMap fun e =>
    match e with
    | .fen m => some (e, 8 * m + t.unit % 8, t.amask)
    | .seq n => if t.kind = 0 then some (e, n, (l.manSlot i).arrays.toNat) else none
    | _ => none

/-- Two slots, one of them a grant, name one array in one cycle (R28); a standing grant holds its arrays throughout, and group B work may run in
any cycle that the other engine's slots leave. -/
def State.arraysMeet (s : State) (l : Load) (i j : Nat) (t u : Slot) : Bool :=
  let always := fun (x : Slot) => x.group == 3 || (x.kind == 1 && x.gstand)
  (t.kind == 1 || u.kind == 1) && (l.arrays i t).any fun a => (l.arrays j u).any fun b =>
    a.2.1 == b.2.1 && Nat.land a.2.2 b.2.2 != 0 && (t.group != 3 || u.group != 3 || a.1 != b.1) &&
      (always t || always u || (s.spans l a.1 i t).any fun x => (s.spans l b.1 j u).any fun y => spansMeet x y)

/-! ## The row path (R313) -/

/-- The row-path cycles of a compiled chain that starts in cycle 0 at descriptor i of cluster m: one for each row read across clusters. -/
def State.pathCycles (s : State) (m : Nat) : Nat → Nat → Nat → List Nat
  | 0, _, _ => []
  | fuel + 1, i, t =>
    let d := s.pdesc m i
    let rows := (List.range (d.rpt + 1)).flatMap fun j => rowsOf (d.src.toNat + j * d.sstr) d.len
    let cross := d.op == 1 && !(s.ownAddr m d.src.toNat && s.ownAddr m d.dst.toNat)
    let here := if cross then (List.range rows.length).map fun r => t + 3 + 2 * r else []
    let fills := (List.range (d.rpt + 1)).flatMap fun j => rowsOf (d.dst.toNat + j * d.dstr) d.len
    let n := if d.op = 1 then rows.length else if d.op = 2 then fills.length else 0
    let last := if n = 0 then t + 3 else t + 3 + (if cross then 2 * (n - 1) else n - 1)
    if d.var then [] else here ++ (if d.last then [] else State.pathCycles s m fuel d.next (last + 1))

/-- The spans in which a DMA slot's chains hold the row path of cluster m, and their channels. -/
def State.pathSpans (s : State) (l : Load) (i m : Nat) (t : Slot) : List (Nat × Span) :=
  (l.engines t).flatMap fun e =>
    match e with
    | .dma k =>
      if k / 8 ≠ m ∨ t.group = 3 then []
      else
        let starts := if t.batch then (s.spans l e i t).take 1 else if t.nest then (s.spans l e i t).take t.count
          else (List.range t.count).map fun q => (t.start + q * t.ilen, t.ilen, s.pflen l t.group)
        starts.flatMap fun x => (s.pathCycles m 4096 (t.entry % 4096) 0).map fun c => (k, (x.1 + c, 1, x.2.2))
    | _ => []

/-- Two channels of one cluster would share a row-path cycle. -/
def State.pathsMeet (s : State) (l : Load) (i j : Nat) (t u : Slot) : Bool :=
  t.kind == 2 && u.kind == 2 && l.clusters.any fun m =>
    (s.pathSpans l i m t).any fun a => (s.pathSpans l j m u).any fun b => a.1 != b.1 && spansMeet a.2 b.2

/-- The first pair of slots that a test finds, as the detail gives it. -/
def Load.pair (l : Load) (test : Nat → Nat → Slot → Slot → Bool) : Option Nat :=
  l.slots.zipIdx.findSome? fun x =>
    ((l.slots.zipIdx.drop (x.2 + 1)).find? fun y => test x.2 y.2 x.1 y.1).map fun y => x.2 + y.2 * 2 ^ 16

/-- SCHEDULE_CONFLICT. -/
def State.chkConflict (s : State) (l : Load) : Option Nat :=
  match l.pair fun i j t u => s.slotsMeet l i j t u || s.arraysMeet l i j t u || s.pathsMeet l i j t u with
  | some d => some d
  | none => (l.fenSlot fun m t => s.progClash m t || s.rowWriter l m t).map fun i => i + i * 2 ^ 16

/-- SLIP_OVERLAP. -/
def State.chkSlip (s : State) (l : Load) : Option Nat := l.pair fun i j t u => s.slipsMeet l i j t u

/-! ## POLL and HOTSET -/

/-- POLL slots of partition q's active table. -/
def State.pollSlots (s : State) (q : Nat) : Nat :=
  if s.partOn q then ((List.range (s.nslot q)).filter fun i => (s.slot q i).kind == 4).length else 0

/-- POLL: the lowest-numbered real-time partition holds the one POLL slot. -/
def State.chkPoll (s : State) (l : Load) : Option Nat :=
  let mine := l.slots.filter fun t => t.kind == 4
  let others := (List.range 8).filter fun q => q != l.p && s.partOn q
  let low := (others.filter s.isRt).all fun q => decide (l.p < q)
  match others.find? fun q => s.pollSlots q != 0 && l.rt && low with
  | some q => some q
  | none =>
    if l.rt && low then
      when (!(mine.length == 1 && mine.all fun t => !t.nest && t.group == 2 && t.subfAny)) l.p
    else when (!mine.isEmpty) l.p

/-- HOTSET. -/
def State.chkHot (s : State) (l : Load) : Option Nat :=
  let mode := fld (s.rd (R.SCH_MODE l.p)) 0 2
  firstOf l.man.contexts fun c =>
    let m := s.field (R.SCH_RB c 6) 28 2
    when (if mode = 0 then m != 0 else decide (l.man.images.length ≤ m)) c

/-! ## All checks in order (R105) -/

/-- The first check that fails, with its code and detail; 0 when none does. -/
def State.checkLoad (s : State) (l : Load) : Nat × Nat :=
  let fields := (s.chkFields l).orElse fun _ => l.fenSlot (s.progBad l)
  match [(1, s.chkCores l), (2, s.chkSize l), (3, s.chkPart l), (4, l.chkTable), (5, fields), (6, s.chkHyper l), (7, s.chkAnchors l),
      (8, s.chkCtxs l), (9, l.chkHandles), (10, s.chkObjs l), (11, s.chkBanks l), (12, s.chkLengths l), (13, s.chkConflict l),
      (14, s.chkSlip l), (15, s.chkPoll l), (16, s.chkHot l)].findSome? fun (x : Nat × Option Nat) => x.2.map fun d => (x.1, d) with
  | some r => r
  | none => (0, 0)

end Sys2Proof.Machine
end

