-- ==== Sys2Proof/Machine/Admission.lean ====
section
/-! DEFINITION. Loading and removing tables: the commit, the end of the checks, displaced spills, the table's taking effect, the removal of a
partition, and the hot set (R79, R101 to R111, R260, R261, R321, R394). -/

namespace Sys2Proof.Machine

open Sys2Proof

/-! ## Commits (R104, R105, R419) -/

/-- The lowest partition named. -/
def lowestPart (parts : BitVec 8) : Option Nat := (List.range 8).find? fun p => parts.getLsbD p

/-- A load of partition p is accepted and waits (SCH_LSTAT.PENDING). -/
def State.loadPending (s : State) (p : Nat) : Bool := (s.rd R.SCH_LSTAT).getLsbD p

/-- SCH_COMMIT_LOAD: the checks begin for the lowest partition named; ignored while they run, without a verified artifact while ARTSIG is
blown (R447), and, counted, while that load is pending. -/
def execSchCommitLoad (parts : BitVec 8) (man : Manifest) (s : State) : Host.Outcome State Fault Refusal :=
  .next (
    match lowestPart parts with
    | none => s
    | some p =>
      if !s.hostWrites || s.sch.checking.isSome || (s.fuses.artsig && (FMap.find s.boot.locks p).isNone) then s
      else if s.loadPending p then s.bump R.GLB_STGIGN
      else ({ s with sch := { s.sch with checking := some ⟨p, man⟩ } }).setBits R.SCH_LSTAT (bitMask 31))

/-- The group B handles that a pending table displaces: (partition, handle, unit, KiB) (R106, R108). -/
def State.displaced (s : State) (l : Load) : List (Nat × Nat × Nat × Nat) :=
  let old := s.actHandles l.p
  let new := s.pendHandles l.p
  (old.filter fun h => h.groupB && !h.ret).flatMap fun h =>
    ((h.present old (s.clustersOf l.p)).filter fun n =>
      new.any fun o => (!o.groupB || o.ret) && (o.present new l.clusters).contains n && decide (0 < shared h.off h.len o.off o.len)).map
        fun n => (l.p, h.num, n, kib h.len)

/-- KiB still to spill. -/
def spillLeft (l : List (Nat × Nat × Nat × Nat)) : Nat := (l.map fun x => x.2.2.2).sum

/-- SCH_SPILL shows the spills under way. -/
def State.spillShow (s : State) : State :=
  let n := spillLeft s.sch.spills
  s.wr R.SCH_SPILL (w32 ((if s.sch.spills.isEmpty then 0 else 2 ^ 31) + n % 2 ^ 24))

/-- The cluster of a memory is the cluster of an engine. -/
def engineIn (m : Nat) : Engine → Bool
  | .seq n => n / 8 == m
  | .fen k => k == m
  | .dma k => k / 8 == m
  | .carr _ => false

/-- An accepted load waits for its anchor; what it displaces is paused and spilled (R108). -/
def State.accept_ (s : State) (l : Load) : State :=
  let out := s.displaced l
  let firstRaw := s.sch.firstRaw.isNone
  let s := { s with
    sch := { s.sch with
      pendMan := FMap.upd s.sch.pendMan l.p (some l.man), spills := s.sch.spills ++ out
      firstRaw := some (s.sch.firstRaw.getD s.tb.raw) }
    host := { s.host with pollRaw := if firstRaw then s.tb.raw else s.host.pollRaw } }
  let s := (s.setBits R.SCH_LSTAT (bitMask l.p)).spillShow
  forEach (s.sch.running.filter fun r => r.part == l.p && r.group == 3 && !r.paused &&
    out.any fun x => engineIn (memCluster x.2.2.1) r.eng) s fun s r => s.endCmd r .other

/-- ADMISSION_DONE: the first check that fails refuses the load and changes nothing else. -/
def execAdmissionDone (s : State) : Host.Outcome State Fault Refusal :=
  .next (
    match s.sch.checking with
    | none => s
    | some c =>
      let l := s.loadOf c.part c.man
      let r := s.checkLoad l
      let s := { s with sch := { s.sch with checking := none } }
      let s := (s.wr R.SCH_LSTAT (w32 (c.part * 2 ^ 24 + r.1 * 2 ^ 16 + s.field R.SCH_LSTAT 0 8))).wr R.SCH_LDETAIL (w32 r.2)
      if r.1 = 0 then { s with boot := { s.boot with loaded := Nat.lor s.boot.loaded (2 ^ c.part) } }.accept_ l
      else ((s.unlock c.part).setBits R.SCH_FLAGS 1).event 0x0301 (w32 (c.part * 2 ^ 24 + r.1 * 2 ^ 16)) none)

/-! ## Spills (R108, R256, R321) -/

/-- Where a unit's copy of a handle begins in LPDDR6 (R256). -/
def Handle.spillAddr (h : Handle) (clusters : List Nat) (n : Nat) : Nat :=
  memBase 144 + h.spill * 4096 + ((h.units clusters).findIdx fun x => x == n) * h.len

/-- The first move of a cluster's service channel: its spills in the order of their handles and units (R321). -/
def State.spillNext (s : State) (m : Nat) : Option (Nat × Nat × Nat × Nat) := s.sch.spills.find? fun x => memCluster x.2.2.1 == m

/-- KiB that will not be spilled (R108). -/
def State.spillLost (s : State) (p n : Nat) : State :=
  if n = 0 then s else (s.setBits R.SCH_FLAGS 16).event 0x0307 (w32 (p * 2 ^ 24 + n % 2 ^ 24)) none

/-- What a run of a service channel gives: the state, and the bytes in place when it halted. -/
structure Served where
  st   : State
  fail : Option Nat

/-- A run of the service channel of cluster m: rows in turn; a halt is logged and cleared at once. -/
def State.serviceMove (s : State) (m src dst len : Nat) : Served :=
  let k := 8 * m + 7
  (rowParts src dst len).foldl (fun (w : Served) p =>
    match w.fail with
    | some _ => w
    | none =>
      let x := w.st.dmaRow k p.1 p.2.1 p.2.2
      match x.fail with
      | none => ⟨x.st, none⟩
      | some (cause, c, a) => ⟨(x.st.dmaHalt k cause c a).dmaIdle k, some (p.1 - src)⟩) ⟨s, none⟩

/-- SPILL_MOVE_DONE: the service channel has moved one unit of a displaced handle; a halt drops what is left of the handle (R321). -/
def execSpillMoveDone (part handle unit : Nat) (s : State) : Host.Outcome State Fault Refusal :=
  .next (
    match s.spillNext (memCluster unit) with
    | none => s
    | some x =>
      if x.1 ≠ part || x.2.1 ≠ handle || x.2.2.1 ≠ unit then s
      else
        match (s.actHandles part).find? fun h => h.num == handle with
        | none => s
        | some h =>
          let r := s.serviceMove (memCluster unit) (memBase unit + h.off) (h.spillAddr (s.clustersOf part) unit) h.len
          let rest := if r.fail.isNone then [x] else r.st.sch.spills.filter fun y => y.1 == part && y.2.1 == handle
          let s := ({ r.st with sch := { r.st.sch with spills := r.st.sch.spills.filter fun y => !rest.contains y } }).spillShow
          if r.fail.isNone then s else s.spillLost part (spillLeft rest))

/-! ## Tables taking effect (R79, R107) -/

/-- An HP anchor of partition p falls in this cycle; a best-effort partition has no anchors, and any cycle serves. -/
def State.hpNow (s : State) (p : Nat) (rt : Bool) : Bool :=
  !rt || (List.range 3).any fun g =>
    match FMap.find s.sch.frames (4 * p + g) with
    | some f => f.hp && f.trueRaw == s.tb.raw
    | none => false

/-- `n` words of the register window at `src` copied to the window at `dst`; both read 0 where nothing is listed. -/
def State.copyWindow (s : State) (src dst n : Nat) : State :=
  let moved := s.regs.filter fun (c : Nat × Word) => decide (src ≤ c.1) && decide (c.1 < src + 4 * n)
  let kept := s.regs.filter fun (c : Nat × Word) => decide (c.1 < dst) || decide (dst + 4 * n ≤ c.1)
  { s with regs := moved.foldl (fun (m : FMap Word) c => FMap.upd m (c.1 - src + dst) (some c.2)) kept }

/-- Bytes of memory that hold undefined values from now on (R261). -/
def State.forget (s : State) (a len : Nat) : State :=
  { s with
    mem := s.mem.filter fun c => decide (c.1 < a) || decide (a + len ≤ c.1)
    syn := s.syn.filter fun (c : Nat × Byte) => decide (c.1 < a) || decide (a + len ≤ c.1)
    free := s.free + 1 }

/-- A pending entry is kept (R260). -/
def Handle.keeps (h o : Handle) : Bool :=
  h.num == o.num && h.place == o.place && h.unit == o.unit && h.off == o.off && h.len == o.len && h.ret && o.ret

/-- The bytes of new entries that are not kept are undefined (R261). -/
def State.forgetOld (s : State) (p : Nat) (new : List Nat) : State :=
  let old := s.actHandles p
  let hs := s.pendHandles p
  forEach (hs.filter fun h => !(old.any fun o => h.keeps o)) s fun s h =>
    forEach (h.present hs new) s fun s n => s.forget (memBase n + h.off) h.len

/-- Scrubbing is off in every bank that an entry which is not kept covers (R291). -/
def State.scrubStop (s : State) (p : Nat) (new : List Nat) : State :=
  let old := s.actHandles p
  let hs := s.pendHandles p
  forEach (hs.filter fun h => !(old.any fun o => h.keeps o)) s fun s h =>
    forEach (h.present hs new) s fun s n =>
      forEach ((List.range 16).filter fun b => decide (0 < h.inBank n b)) s fun s b => s.clrBits (R.ECC_SCRUB_EN n) (bitMask b)

/-- Every command of a partition ends when it is removed, atomic or not (DEDUCED, log entry 53); paused ones are forgotten (R98, R108). -/
def State.endPart (s : State) (p : Nat) : State :=
  let s := forEach (s.sch.running.filter fun r => r.part == p && !r.paused) s fun s r => s.endCmd { r with atomic := false } .table
  { s with sch := { s.sch with running := s.sch.running.filter fun r => r.part != p } }

/-- The commands of group B, and the chains, whose slot entry differs in the table to come end with the old one (R98, R316). -/
def State.endChanged (s : State) (p : Nat) : State :=
  let gone := fun i => slotWords (fun w => s.rd (R.SCH_PIMG p w)) i != s.slot p i || decide (fld (s.rd (R.SCH_PCFG p)) 16 11 ≤ i)
  let s := forEach s.dma s fun s (x : Nat × DmaChan) => if x.2.part == p && x.2.go.any fun y => gone y.2.1 then s.dmaEnd x.1 else s
  let changed := fun (r : RunCmd) => r.part == p && (r.group == 3 || r.kind == 2) && gone r.slot
  let s := forEach (s.sch.running.filter fun r => changed r && !r.paused) s fun s r => s.endCmd r .table
  { s with sch := { s.sch with running := s.sch.running.filter fun r => !(changed r && (r.group == 3 || !r.atomic)) } }

/-- The classes that the new table makes latency-critical read 1.0 in SCH_SLOW again (R112). -/
def State.slowReset (s : State) (p : Nat) : State :=
  forEach (List.range 64) s fun s c =>
    if (List.range (s.nslot p)).any fun i => (s.slot p i).v && (s.slot p i).group != 3 && (s.slot p i).jclass == c then
      { (s.setField (R.SCH_SLOW p c) 0 16 0x0100) with sch := { s.sch with slow := FMap.upd s.sch.slow (p * 64 + c) none } }
    else s

/-- The staged registers of partition p (R114). -/
def schGroup (p : Nat) : List Nat :=
  [R.SCH_PCFG p, R.SCH_FLEN_F p, R.SCH_FLEN_M p, R.SCH_FLEN_S p, R.SCH_MODE p, R.SCH_MAN p, R.SCH_MAN p + 4]

/-- The templates that a load of partition p applies: those it names, and its own that are withdrawn (R355). -/
def State.tmplsOf (s : State) (p : Nat) : List Nat :=
  (List.range 64).filter fun t => (s.ptmpl t).part == p && (s.ptmpl t).v || ((s.tmpl t).v && (s.tmpl t).part == p && !(s.ptmpl t).v)

/-- The pending set of partition p becomes active (R107, R394). -/
def State.applyTable (s : State) (p : Nat) : State :=
  let fresh := !s.partOn p
  let clusters := bitsOf 16 (s.field (R.SCH_PCFG p) 0 16)
  let left := s.sch.spills.filter fun x => x.1 == p
  let s := s.spillLost p (spillLeft left)
  let s := ({ s with sch := { s.sch with spills := s.sch.spills.filter fun x => x.1 != p } }).spillShow
  let s := ((s.endChanged p).forgetOld p clusters).scrubStop p clusters
  let tmpls := s.tmplsOf p
  let s := s.apply (schGroup p ++ clusters.flatMap (fun m => [R.FEN_PTAB m, R.DMA_DBASE m]) ++
    tmpls.flatMap fun t => (List.range 8).map (R.CARR_TMPL t))
  let s := (s.copyWindow (R.SCH_PIMG p 0) (R.SCH_AIMG p 0) 8192).copyWindow (R.SPD_PHND p 0) (R.SPD_AHND p 0) 1024
  let man := FMap.find s.sch.pendMan p
  let s := { s with sch := { s.sch with
    pendMan := FMap.upd s.sch.pendMan p none, actMan := FMap.upd s.sch.actMan p man
    tabled := if s.sch.tabled.contains p then s.sch.tabled else s.sch.tabled ++ [p]
    work := s.sch.work.filter fun (c : Nat × List (Nat × Nat)) => c.1 / 1024 != p
    lanes := s.sch.lanes.filter fun x => x.1 != p } }
  let s := s.wr64 (R.MIR_BHASH p) ((man.map Manifest.bhash).getD 0)
  let s := (s.clrBits R.SCH_LSTAT (bitMask p)).slowReset p
  let s := if !fresh then s else
    let s := forEach (List.range 3) s fun s g =>
      let f := s.frame p g
      let s := s.wr64 (R.SCH_FC p g) 0
      if (FMap.find s.sch.frames (4 * p + g)).isSome then s.setFrame p g { f with counted := f.trueRaw == s.tb.raw } else s
    s.wr64 (R.SCH_HPCNT p) 0
  s.event 0x0302 (w32 (p * 2 ^ 24)) none

/-- TABLE_APPLIED: at the first HP anchor after the checks. -/
def execTableApplied (part : Nat) (s : State) : Host.Outcome State Fault Refusal :=
  .next (if decide (part < 8) && s.loadPending part && (s.rd (R.SCH_PCFG part)).getLsbD 30 && s.hpNow part true then s.applyTable part else s)

/-- An atomic or privileged command of partition p runs. -/
def State.holdsTable (s : State) (p : Nat) : Bool :=
  s.sch.running.any fun r => r.part == p && !r.paused && (r.atomic || r.kind == 1 || r.kind == 3)

/-- BEST_EFFORT_TABLE_APPLY: in the first cycle in which no atomic or privileged command of the partition runs. -/
def execBestEffortTableApply (part : Nat) (s : State) : Host.Outcome State Fault Refusal :=
  .next (if decide (part < 8) && s.loadPending part && !(s.rd (R.SCH_PCFG part)).getLsbD 30 && !s.holdsTable part then s.applyTable part else s)

/-! ## Removal (R108, R260) -/

/-- SCH_COMMIT_UNLOAD: each named partition that has a table is to be removed. -/
def execSchCommitUnload (parts : BitVec 8) (s : State) : Host.Outcome State Fault Refusal :=
  .next (
    if !s.hostWrites then s
    else
      let ps := (List.range 8).filter fun p => parts.getLsbD p && s.partOn p && !s.sch.unload.contains p
      { s with sch := { s.sch with unload := s.sch.unload ++ ps } })

/-- The active handle table keeps its retained entries and loses all others. -/
def State.freeHandles (s : State) (p : Nat) : State :=
  forEach (List.range 256) s fun s h =>
    let w := s.rd (R.SPD_AHND p (4 * h))
    if w.getLsbD 31 && w.getLsbD 24 then s
    else forEach (List.range 4) s fun s i => s.wr (R.SPD_AHND p (4 * h + i)) 0

/-- The partition removed: its commands and chains end, its contexts become inactive, its handles are freed. -/
def State.removePart (s : State) (p : Nat) : State :=
  let s := (s.unlock p).endPart p
  let s := forEach ((s.clustersOf p).flatMap fun m => (List.range 8).map (8 * m + ·)) s fun s k =>
    if (s.dmaOf k).host then s else s.dmaEnd k
  let s := forEach (s.activeCtxs.filter fun c => s.ctxPart c == some p) s fun s c => s.clrBits (R.SCH_RB c 6) (bitMask 31)
  let s := s.freeHandles p
  let s := s.wr64 (R.MIR_BHASH p) 0
  let s := { s with sch := { s.sch with
    unload := s.sch.unload.filter fun q => q != p, actMan := FMap.upd s.sch.actMan p none
    running := s.sch.running.filter fun r => r.part != p
    work := s.sch.work.filter fun (c : Nat × List (Nat × Nat)) => c.1 / 1024 != p
    walks := s.sch.walks.filter fun w => w.part != p
    lanes := s.sch.lanes.filter fun x => x.1 != p
    frames := s.sch.frames.filter fun (c : Nat × Frame) => c.1 / 4 != p } }
  s.clrBits (R.twin (R.SCH_PCFG p)) (bitMask 31)

/-- PARTITION_UNLOAD: at the partition's next HP anchor. -/
def execPartitionUnload (part : Nat) (s : State) : Host.Outcome State Fault Refusal :=
  .next (if s.sch.unload.contains part && s.hpNow part (s.isRt part) && (s.isRt part || !s.holdsTable part) then s.removePart part else s)

/-! ## The hot set (R109 to R111, R321) -/

/-- The result of a swap request. -/
def State.hotCode (s : State) (p model : Nat) : Nat :=
  if !s.partOn p then 1
  else if fld (s.act (R.SCH_MODE p)) 0 2 = 0 then 2
  else if (match FMap.find s.sch.actMan p with
    | some m => m.images.length
    | none => 0) ≤ model then 3
  else if s.sch.hot.isSome ∨ s.loadPending p then 4
  else 0

/-- SCH_HOTREQ_GO. -/
def execSchHotreqGo (part model : Nat) (s : State) : Host.Outcome State Fault Refusal :=
  let p := part % 8
  let m := model % 4
  let code := s.hotCode p m
  .next (
    if !s.hostWrites then s
    else
      let s := s.setField R.SCH_HOTSTAT 16 8 code
      if code ≠ 0 then s
      else
        (({ s with sch := { s.sch with hot := some { part := p, model := m, begun := false, left := [], tries := [], moved := [] } } }).setField
          R.SCH_HOTSTAT 8 3 p).setBits R.SCH_HOTSTAT (bitMask 31))

/-- HOTSET_RESIDENT_NONE: no model is resident, and every cluster's reload starts. -/
def execHotsetResidentNone (part : Nat) (s : State) : Host.Outcome State Fault Refusal :=
  .next (
    match s.sch.hot with
    | none => s
    | some h =>
      if h.part ≠ part || h.begun || !s.hpNow part (s.isRt part) then s
      else
        let left := s.clustersOf part
        ({ s with sch := { s.sch with hot := some { h with begun := true, left := left } } }).setBits R.SCH_HOTSTAT (bitMask 30))

/-- The model image and the weight handle of a swap: source address, bytes, and place in a cluster memory. -/
def State.hotMove (s : State) (h : HotSwap) : Option (Nat × Nat × Nat) :=
  match FMap.find s.sch.actMan h.part with
  | none => none
  | some m =>
    match m.images[h.model]?, (s.actHandles h.part).find? fun x => x.num == m.weightHandle with
    | some (a, len), some x => some (memBase 144 + a, min len x.len, x.off)
    | _, _ => none

/-- HOTSET_RELOAD_DONE: the cluster's weights are in place, or the reload halted: it goes on from the failing row from the next HP anchor on, three
times, after which the swap is abandoned (R321). -/
def execHotsetReloadDone (cluster : Nat) (s : State) : Host.Outcome State Fault Refusal :=
  .next (
    match s.sch.hot with
    | none => s
    | some h =>
      let n := FMap.get 0 h.tries cluster
      if !h.begun || !h.left.contains cluster || (decide (0 < n) && !s.hpNow h.part (s.isRt h.part)) then s
      else
        match s.hotMove h with
        | none => s
        | some (src, len, off) =>
          let done := FMap.get 0 h.moved cluster
          let r := s.serviceMove cluster (src + done) (memBase (128 + cluster) + off + done) (len - done)
          let left := h.left.filter fun m => m != cluster
          let s := r.st
          match r.fail with
          | none => { s with sch := { s.sch with hot := some { h with left := left } } }
          | some m =>
            if n < 3 then { s with sch := { s.sch with hot := some { h with
              tries := FMap.set 0 h.tries cluster (n + 1), moved := FMap.set 0 h.moved cluster (done + m) } } }
            else ({ s with sch := { s.sch with hot := none } }).clrBits R.SCH_HOTSTAT (bitMask 31))

/-- HOTSET_SWAPPED: at the first HP anchor after the last cluster. -/
def execHotsetSwapped (part : Nat) (s : State) : Host.Outcome State Fault Refusal :=
  .next (
    match s.sch.hot with
    | none => s
    | some h =>
      if h.part ≠ part || !h.begun || !h.left.isEmpty || !s.hpNow part (s.isRt part) then s
      else
        let s := { s with sch := { s.sch with hot := none } }
        let s := (s.clrBits R.SCH_HOTSTAT 0xC0000003).setField R.SCH_HOTSTAT 0 2 h.model
        s.event 0x0309 (w32 (part * 2 ^ 24 + h.model)) none)

end Sys2Proof.Machine
end

