-- ==== Sys2Proof/Machine/Ethernet.lean ====
section
/-! DEFINITION. The commands of the Ethernet ports: links, the port group, frames for the host, launch queues, and the host transmit ring
(R325 to R335, R360). -/

namespace Sys2Proof.Machine

open Sys2Proof

/-! ## Links and the port group (R327) -/

/-- Every frame of a port's queues is dropped and counted (R327, R332). -/
def State.flushPort (s : State) (k : Nat) : State :=
  let p := s.port k
  let n := (p.queues.map fun (c : Nat × List TxFrame) => c.2.length).sum + p.answers.length
  (s.setPort k Port.reset).addSat (R.ETH_TXDROP k) n

/-- ETH_LINK logged. -/
def State.logLink (s : State) (k : Nat) (up : Bool) : State :=
  (s.setBits (R.ETH_FLAGS k) 1).event 0x0B01 (w32 (k + b2n up * 2 ^ 8)) none

/-- The valid peers of port k. -/
def State.peersOn (s : State) (k : Nat) : List Nat :=
  (List.range 32).filter fun i => (s.peer i).getLsbD 63 && (s.peer i).toNat / 2 ^ 48 % 4 == k

/-- Peers forgotten as greeted. -/
def State.ungreet (s : State) (ps : List Nat) : State :=
  { s with net := { s.net with greeted := ps.foldl (fun g i => if g.testBit i then g - 2 ^ i else g) s.net.greeted } }

/-- The link of an enabled port goes up, and a HELLO is sent to each of its peers; or it goes down, and its queues are flushed. -/
def execEthLink (port : Nat) (up : Bool) (s : State) : Host.Outcome State Fault Refusal :=
  .next (if 4 ≤ port ∨ s.linkUp port = up ∨ (up ∧ !((s.act (R.ETH_CFG port)).getLsbD 31 && s.running && s.netOn port)) then s
    else if up then
      let s := (s.setBits (R.ETH_STATUS port) (bitMask 30)).logLink port true
      forEach (s.peersOn port) (s.ungreet (s.peersOn port)) fun s i => s.sendHello i
    else ((s.clrBits (R.ETH_STATUS port) (bitMask 30)).flushPort port).logLink port false)

/-- The staged words of a port (R327). -/
def ethGroup (k : Nat) : List Nat :=
  [R.ETH_CFG k, R.ETH_MAC k, R.ETH_MAC k + 4] ++ (List.range 16).flatMap (fun i => [R.ETH_MC k i, R.ETH_MC k i + 4]) ++
    (List.range 16).map (R.ETH_VID k) ++ (List.range 8).map (R.ETH_QCFG k) ++ [R.ETH_TSC k]

/-- The code of a port group's commit (R362). -/
def State.ethCode (s : State) (k : Nat) : Nat :=
  let c := s.rd (R.ETH_CFG k)
  let badVid := fun (v : Nat) => v == 0 || v == 4095
  if c.getLsbD 30 && c.getLsbD 29 then 1
  else if (s.rd64 (R.ETH_MAC k)).getLsbD 40 then 2
  else if (List.range 16).any (fun i => (s.rd (R.ETH_VID k i)).getLsbD 31 && badVid (fld (s.rd (R.ETH_VID k i)) 0 12)) ||
      (c.getLsbD 27 && badVid (fld c 0 12)) then 3
  else if (List.range 16).any (fun i => (s.rd64 (R.ETH_MC k i)).getLsbD 63 && !(s.rd64 (R.ETH_MC k i)).getLsbD 40) then 4
  else 0

/-- A commit of a staged group (R418, R419): ignored and counted while pending; else its code is written, and an accepted one is
pending. -/
def State.commitGroup (s : State) (status code : Nat) : State :=
  if (s.rd status).getLsbD 31 then s.bump R.GLB_STGIGN
  else if code = 0 then (s.setField status 0 8 0).setBits status (bitMask 31)
  else s.setField status 0 8 code

/-- ETH_COMMIT. -/
def execEthCommit (port : Nat) (s : State) : Host.Outcome State Fault Refusal :=
  .next (if 4 ≤ port ∨ !s.hostWrites then s else s.commitGroup (R.ETH_STATUS port) (s.ethCode port))

/-- ETH_GROUP_APPLY: with no frame in progress the group applies; a change of EN, MODE or FEC restarts the link. -/
def execEthGroupApply (port : Nat) (s : State) : Host.Outcome State Fault Refusal :=
  .next (if 4 ≤ port ∨ !(s.rd (R.ETH_STATUS port)).getLsbD 31 ∨ (s.port port).sending.isSome then s
    else
      let old := fld (s.act (R.ETH_CFG port)) 29 3
      let s := (s.apply (ethGroup port)).clrBits (R.ETH_STATUS port) (bitMask 31)
      if fld (s.act (R.ETH_CFG port)) 29 3 = old then s
      else
        let up := s.linkUp port
        let s := (s.clrBits (R.ETH_STATUS port) (bitMask 30)).flushPort port
        if up then s.logLink port false else s)

/-! ## Frames for the host (R326, R360) -/

/-- ETH_FRAME: a frame that is neither Carr nor MAC Control, filtered and passed to the host receive ring. -/
def execEthFrame (rx : RxFrame) (s : State) : Host.Outcome State Fault Refusal :=
  .next (if 4 ≤ rx.port ∨ rx.frame.etype.toNat = s.etype ∨ rx.frame.etype = 0x8808 then s
    else
      let a := s.accept rx
      if a.ok then a.st.hostRx rx 0x1FF else a.st)

/-- PAUSE_FRAME: a MAC Control frame is counted and discarded. -/
def execPauseFrame (rx : RxFrame) (s : State) : Host.Outcome State Fault Refusal :=
  .next (if 4 ≤ rx.port ∨ rx.frame.etype ≠ 0x8808 then s else (s.accept rx).st)

/-! ## Launch (R331 to R335) -/

/-- Time on the wire of `n` bytes, in units of 0.01 ns (R334). -/
def State.wire (s : State) (k n : Nat) : Nat := n * if (s.act (R.ETH_CFG k)).getLsbD 30 then 80 else 32

/-- The raw stamp an SFD would carry if its frame started in this cycle: 7 byte times and TXLAT later (R328, R333). -/
def State.sfdRaw (s : State) (k : Nat) : Dword :=
  s.tb.raw + w64 (s.wire k 7 / 100) + BitVec.ofInt 64 (signed 16 (fld (s.act (R.ETH_TSC k)) 0 16))

/-- Lateness of a head (R333); ASAP has none. -/
def lateness (now : Word) (f : TxFrame) : Int :=
  match f.launch with
  | some l => (now - l).toInt
  | none => 0

/-- Queue q of port k is guarded. -/
def State.guarded (s : State) (k q : Nat) : Bool := (s.act (R.ETH_QCFG k q)).getLsbD 31

/-- The head of a queue. -/
def Port.head (p : Port) (q : Nat) : Option TxFrame := (p.queue q).head?

/-- A frame of queue q would still be on the wire when a guarded head of another queue is due (R334). -/
def State.blocked (s : State) (k q : Nat) (now : Word) (f : TxFrame) : Bool :=
  (List.range 8).any fun g =>
    g != q && s.guarded k g &&
      match (s.port k).head g with
      | some h =>
        match h.launch with
        | some l =>
          let ahead := (l - now).toInt
          decide (0 < ahead) && decide (ahead * 100 < (s.wire k (f.bytes.length + 24) : Nat))
        | none => false
      | none => false

/-- The queues whose heads are due and not blocked, highest first; guarded heads whose launch time falls in this cycle come before the others
(R333, R334). -/
def State.candidates (s : State) (k : Nat) (now : Word) : List Nat :=
  let ok := (List.range 8).reverse.filter fun q =>
    match (s.port k).head q with
    | some f => decide (0 ≤ lateness now f) && !s.blocked k q now f
    | none => false
  let before := s.stampOf (s.sfdRaw k - 5)
  let g := ok.filter fun q => s.guarded k q && (match (s.port k).head q with
    | some f => f.launch.isSome && decide (lateness before f < 0)
    | none => false)
  g ++ ok.filter fun q => !g.contains q

/-- A host entry written back: OWN cleared, DONE and its status, its stamps (R360). -/
def State.txBack (s : State) (e : Nat × Word) (status : Nat) (stamp : Word) (raw : Dword) : State :=
  let s := s.ringWrite (e.1 + 16) (leBytes 4 (2 ^ 31 + status) ++ leBytes 4 stamp.toNat ++ leBytes 8 raw.toNat)
  s.ringWrite e.1 (leBytes 4 (e.2 &&& ~~~ bitMask 31).toNat)

/-- A frame as it leaves: its tag takes the queue's PCP (R332). -/
def setPcp (bytes : List Byte) (pcp : Nat) : List Byte :=
  bytes.zipIdx.map fun x => if x.2 = 14 then BitVec.ofNat 8 (x.1.toNat % 32 + pcp * 32) else x.1

/-- Offset of the EtherType of a frame. -/
def TxFrame.typeOff (f : TxFrame) : Nat := if f.tagged then 16 else 12

/-- A PTP Sync message (R331). -/
def TxFrame.isSync (f : TxFrame) : Bool :=
  beAt f.bytes f.typeOff 2 == 0x88F7 && beAt f.bytes (f.typeOff + 2) 1 % 16 == 0

/-- The originTimestamp written with disciplined time t (R331). -/
def stampSync (bytes : List Byte) (off : Nat) (t : Nat) : List Byte :=
  let o := off + 2 + 34
  bytes.take o ++ beBytes 6 (t / 10 ^ 9) ++ beBytes 4 (t % 10 ^ 9) ++ bytes.drop (o + 10)

/-- A host frame with ONESTEP. -/
def TxFrame.onestep (f : TxFrame) : Bool :=
  match f.entry with
  | some e => e.2.getLsbD 28
  | none => false

/-- LAUNCH_SELECT: an idle port sends the selected head, or drops it when it is too late. A one-step Sync has left the device when its transmit
stamp, which it carries, is known (R331). -/
def execLaunchSelect (port : Nat) (s : State) : Host.Outcome State Fault Refusal :=
  .next (if 4 ≤ port ∨ !s.linkUp port ∨ (s.port port).sending.isSome then s
    else
      let raw := s.sfdRaw port
      let now := s.stampOf raw
      match s.candidates port now with
      | [] => s
      | q :: _ =>
        match (s.port port).queue q with
        | [] => s
        | f :: rest =>
          let s := (s.setPort port ((s.port port).setQueue q rest)).feedAnswers port
          if lateness now f > (fld (s.act (R.ETH_QCFG port q)) 0 16 * 10 : Nat) then
            let s := s.bump (R.ETH_TXLATE port)
            let s := if (s.rd (R.ETH_FLAGS port)).getLsbD 1 then s
              else (s.setBits (R.ETH_FLAGS port) 2).event 0x0B02 (w32 (port + q * 2 ^ 4)) none
            match f.entry with
            | some e => s.txBack e 1 0 0
            | none => s
          else
            let f := { f with bytes := if f.tagged then setPcp f.bytes (fld (s.act (R.ETH_QCFG port q)) 28 3) else f.bytes }
            let s := s.setPort port { s.port port with sending := some (f, q) }
            if f.onestep && f.isSync then s else s.emit (.frame port f.bytes))

/-- FRAME_TRANSMITTED: the port is idle, and a host entry is written back with its stamps (R328, R360). -/
def execFrameTransmitted (port : Nat) (rawRef : Dword) (s : State) : Host.Outcome State Fault Refusal :=
  .next (match (s.port port).sending with
    | none => s
    | some (f, _) =>
      let s := (s.setPort port { s.port port with sending := none }).bump (R.ETH_TXFRM port)
      let raw := rawRef + BitVec.ofInt 64 (signed 16 (fld (s.act (R.ETH_TSC port)) 0 16))
      let s := if f.onestep && f.isSync then
          s.emit (.frame port (stampSync f.bytes f.typeOff (timeAt (s.act64 R.TB_RATE) (s.act64 R.TB_OFFSET) raw).toNat))
        else s
      match f.entry with
      | some e =>
        let status := if f.onestep && !f.isSync then 6 else 0
        s.txBack e status (if e.2.getLsbD 30 then s.stampOf raw else 0) raw
      | none => s)

/-! ## The host transmit ring (R360, R405) -/

/-- Address of the next transmit entry. -/
def State.txEntryAddr (s : State) : Nat :=
  (s.act64 R.CARR_HTXBASE).toNat + 32 * (s.net.txHead % 2 ^ fld (s.act R.CARR_HRCFG) 24 4)

/-- The next entry is taken. -/
def State.txTaken (s : State) : State := { s with net := { s.net with txHead := (s.net.txHead + 1) % 4096 } }

/-- A host frame's bytes are at hand: it enters its queue, or its entry is written back with a status (R360). -/
def State.txQueue (s : State) (entry data : List Byte) : State :=
  let w0 := w32 (leAt entry 0 4)
  let a := s.txEntryAddr
  let tagged := beAt data 12 2 == 0x8100
  let f : TxFrame := { bytes := data, tagged := tagged, launch := if w0.getLsbD 29 then some (w32 (leAt entry 4 4)) else none
                       entry := some (a, w0) }
  let o := s.txTaken.offer (fld w0 19 2) (fld w0 21 3) f
  if o.code = 0 then o.st else o.st.txBack (a, w0) o.code 0 0

/-- A length without FCS that R325 allows. -/
def txLenOk (data : List Byte) : Bool :=
  decide (60 ≤ data.length) && decide (data.length ≤ if beAt data 12 2 == 0x8100 then 1518 else 1514)

/-- A transmit entry has been read: its buffer is read, on the device at once and in host memory by a request (R360). -/
def State.txEntry (s : State) (entry : List Byte) : State :=
  let w0 := w32 (leAt entry 0 4)
  let len := fld w0 0 16
  let buf := leAt entry 8 8
  let a := s.txEntryAddr
  if !w0.getLsbD 31 then s
  else if len < 60 ∨ 1518 < len then s.txTaken.txBack (a, w0) 3 0 0
  else
    match hostAddr buf with
    | some h => s.txAsk entry [] h len
    | none =>
      if !s.openRange buf len then s.txTaken.txBack (a, w0) 5 0 0
      else
        let r := s.readAny buf len 9 none
        if r.bad.isSome then r.st.txTaken.txBack (a, w0) 5 0 0
        else
          let data := bytesOf r.words buf len
          if txLenOk data then r.st.txQueue entry data else r.st.txTaken.txBack (a, w0) 3 0 0

/-- A read for the transmit ring is outstanding. -/
def State.txBusy (s : State) : Bool :=
  s.host.outbound.any fun o =>
    match o.who with
    | .txEntry | .txBuffer _ _ => true
    | _ => false

/-- HOST_TX_RING_POLL: the next transmit entry is read, and its frame taken when the device owns it. -/
def execHostTxRingPoll (s : State) : Host.Outcome State Fault Refusal :=
  .next (if !s.running || s.txBusy then s
    else
      match hostAddr s.txEntryAddr with
      | some h => s.carrAsk .txEntry h 32
      | none =>
        if !s.openRange s.txEntryAddr 32 then s
        else
          let r := s.readAny s.txEntryAddr 32 9 none
          if r.bad.isSome then r.st else r.st.txEntry (bytesOf r.words s.txEntryAddr 32))

end Sys2Proof.Machine
end

