-- ==== Sys2Proof/Machine/RegView.lean ====
section
/-! DEFINITION. What a register reads as (R3, R12, R15, R17 to R19): the stored word, or the value of the machine that it shows. -/

namespace Sys2Proof.Machine

/-- A memory's instance is populated (R3). -/
def State.hasMem (s : State) (n : Nat) : Bool :=
  if n < 128 then decide (n < s.nCores) else if n < 144 then decide (n - 128 < s.nClusters) else n == 144

/-- The instance whose register lies at `off` is populated (R3). -/
def State.present (s : State) (off : Nat) : Bool :=
  let o := off % 0x100000
  match off / 0x100000 with
  | 3 | 5 | 8 => decide (o / 0x10000 < s.nClusters)
  | 4 => decide (o / 0x2000 < s.nCores)
  | 6 => o ≥ 0xA0000 || s.hasMem (o / 0x1000)
  | 7 => o < 0x10000 || s.hasMem ((o - 0x10000) / 0x1000)
  | _ => true

/-- GLB_ID and GLB_CORES out of the fuses (R12). -/
def State.idWord (s : State) : Word :=
  w32 (0x0128 * 2 ^ 16 + s.fuses.grade * 2 ^ 12 + s.fuses.stepMaj * 2 ^ 8 + s.fuses.stepMin * 2 ^ 4)
def State.coresWord (s : State) : Word := w32 (s.fuses.clusters * 2 ^ 8 + 8 * s.fuses.clusters)

/-- A context shown with a VALID bit. -/
def ctxWord (c : Option Nat) : Word :=
  match c with
  | some x => w32 (2 ^ 31 + x)
  | none => 0

/-- COR_STAT, COR_CTX, COR_TRAP and COR_TRAPVAL of core n (R152, R484). -/
def State.corView (s : State) (n r : Nat) : Option Word :=
  let c := s.core n
  match r with
  | 0x1000 =>
    let rt := match s.partOf (n / 8) with
      | some p => s.isRt p
      | none => false
    some (w32 (b2n c.run * 2 ^ 31 + b2n rt * 2 ^ 30 + (if c.run then c.jclass else 0) * 2 ^ 24 + c.last))
  | 0x1004 => some (if c.run then ctxWord c.ctx else 0)
  | 0x1008 => some (match c.halted with
      | h :: _ => w32 (2 ^ 31 + h.jclass * 2 ^ 24 + h.cause * 2 ^ 16 + h.epc)
      | [] => 0)
  | 0x100C => some (match c.halted with
      | h :: _ => h.etval
      | [] => 0)
  | _ => none

/-- The number of a channel's state (R323). -/
def DmaState.code : DmaState → Nat
  | .idle => 0
  | .run => 1
  | .wait => 2
  | .halt => 3

/-- DMA_CHSTAT and DMA_CHCTX of a channel (R323). -/
def State.dmaView (s : State) (k r : Nat) : Option Word :=
  let c := s.dmaOf k
  match r with
  | 0 => some (w32 (c.st.code * 2 ^ 30 + (s.escOf (escKey 3 k 0)).run * 2 ^ 24 + c.cause * 2 ^ 16 + b2n c.var * 2 ^ 15 +
      b2n c.host * 2 ^ 14 + c.didx))
  | 0x20 => some (ctxWord c.ctx)
  | _ => none

/-- The grant that engine m holds while no command runs on it (R27): that of a slot under way, else a standing one; of several the first in the
order of partitions and slots (DESIGN CHOICE, log entry 104). -/
def State.grantOf (s : State) (m : Nat) : Option Slot :=
  let slots := (List.range 8).flatMap fun p => if s.partOn p then
    ((List.range (s.nslot p)).map fun i => (p, i, s.slot p i)).filter fun x =>
      x.2.2.v && x.2.2.kind == 1 && (s.slotEngines p x.2.2).contains (.fen m) else []
  let now := slots.find? fun x => s.slotBegun x.1 x.2.1 && !(s.frame x.1 x.2.2.group).ended.contains x.2.1
  (now.or (slots.find? fun x => x.2.2.gstand)).map fun x => x.2.2

/-- FEN_STAT of engine m (R237): its command, and the grant it holds, with or without one. -/
def State.fenStat (s : State) (m : Nat) : Word :=
  let w := s.rd (R.FEN_STAT m)
  if w.getLsbD 31 then w
  else match s.grantOf m with
    | some t => w32 (t.unit % 8 * 2 ^ 24 + t.amask * 2 ^ 16)
    | none => w

/-- DMA writes in flight for bank b of memory n: destination rows whose source read is issued and that are not yet written (R264). -/
def State.inFlight (s : State) (n b : Nat) : Nat :=
  (s.dma.map fun (c : Nat × DmaChan) => ((c.2.segs.flatMap fun g => rowsOf g.dst g.len).filter fun row =>
    match s.place row with
    | some p => p.mem == n && bankOf n p.off == b
    | none => false).length).sum

/-- SPD_PODSTAT and SPD_INFLIGHT of memory n. -/
def State.spdView (s : State) (n r : Nat) : Option Word :=
  if r = 0x0C then
    some (if n < 128 then w32 ((s.core n).pod.foldl (fun m e => Nat.lor m (2 ^ e.slot)) 0) else 0)
  else if 0x100 ≤ r ∧ r < 0x140 ∧ r % 4 = 0 then some (w32 (min 63 (s.inFlight n ((r - 0x100) / 4))))
  else none

/-- The timebase registers that show running values (R75). -/
def State.tbView (s : State) (off : Nat) : Option Word :=
  let ph := phaseOf s.tb.acc
  let st := match s.tb.state with
    | .free => 0
    | .acquire => 1
    | .locked => 2
    | .holdover => 3
  if off = R.TB_RAW then some (lo32 s.tb.raw)
  else if off = R.TB_RAW + 4 then some (hi32 s.tb.raw)
  else if off = R.TB_TIME then some (lo32 s.time)
  else if off = R.TB_TIME + 4 then some (hi32 s.time)
  else if off = R.TB_PHASE then some ph
  else if off = R.TB_PH_STAT then some (w32 (s.tb.src * 2 ^ 8 + st))
  else if off = R.TB_PH_INC then some (lo32 (w64 s.tb.inc.toNat))
  else if off = R.TB_PH_INC + 4 then some (hi32 (w64 s.tb.inc.toNat))
  else none

/-- SEC_SERIAL, SEC_LIFE and the key-slot hashes, out of the fuses (R443 to R445, R451). -/
def State.secView (s : State) (off : Nat) : Option Word :=
  let f := s.fuses
  let part := fun (v : Nat) (w : Nat) => w32 (v / 2 ^ (32 * w))
  if off = R.SEC_LIFE then
    some (w32 (b2n f.debugClose * 2 ^ 31 + b2n f.artsig * 2 ^ 30 + f.revoked * 2 ^ 26 + s.boot.svn))
  else if R.SEC_SERIAL 0 ≤ off ∧ off < R.SEC_SERIAL 4 then some (part f.serial.toNat ((off - R.SEC_SERIAL 0) / 4))
  else if R.SEC_SLOT 0 0 ≤ off ∧ off < R.SEC_SLOT 4 0 then
    let k := (off - R.SEC_SLOT 0 0) / 0x60
    let w := (off - R.SEC_SLOT k 0) / 4
    some (if w < 12 then part (f.edHash.getD k 0).toNat w else part (f.mlHash.getD k 0).toNat (w - 12))
  else none

/-- The words that are not stored: what they show. -/
def State.shown (s : State) (off : Nat) : Option Word :=
  let o := off % 0x100000
  match off / 0x100000 with
  | 0 => if off = R.GLB_ID then some s.idWord else if off = R.GLB_CORES then some s.coresWord else none
  | 2 => s.tbView off
  | 4 => s.corView (o / 0x2000) (o % 0x2000)
  | 5 => if o % 0x10000 = 0x1000 then some (s.fenStat (o / 0x10000)) else none
  | 6 => if o < 0x90000 then s.spdView (o / 0x1000) (o % 0x1000) else none
  | 7 => if 0x10000 ≤ o ∧ o % 0x1000 = 0x38 then some (w32 (s.integOf ((o - 0x10000) / 0x1000)).wbq.length) else none
  | 8 =>
    if 0x1000 ≤ o % 0x10000 ∧ o % 0x10000 < 0x1200 then
      s.dmaView (8 * (o / 0x10000) + (o % 0x10000 - 0x1000) / 0x40) (o % 0x40)
    else none
  | 10 =>
    if o % 0x10000 ≥ 0x1040 ∧ o % 0x10000 < 0x1060 ∧ o < 0x40000 then
      some (w32 ((s.port (o / 0x10000)).queue ((o % 0x10000 - 0x1040) / 4)).length)
    else none
  | 14 => s.secView off
  | 15 =>
    if off = R.TST_PHYSMAP then some (lo32 s.fuses.physmap)
    else if off = R.TST_PHYSMAP + 4 then some (hi32 s.fuses.physmap)
    else if off = R.TST_FUSEOFF then some (w32 s.fuses.fuseOff.toNat)
    else none
  | _ => none

/-- The host reaches the register at `off`: in RUN all, before it the identification registers, the SEC_ block and TST_PHYSMAP (R437); none while
a reset holds the device. -/
def State.hostReach (s : State) (off : Nat) : Bool :=
  s.boot.held.isEmpty && (s.running || off / 0x100000 == 14 ||
    [R.GLB_ID, R.GLB_CORES, R.GLB_SIZES, R.GLB_MEM, R.TST_PHYSMAP, R.TST_PHYSMAP + 4].contains off)

/-- A word of the ECC_ pages that does not exist there: remap registers other than ECC_RMSTAT in page 144, ECC_MSCRUB in every
other page (R300). -/
def eccHole (off : Nat) : Bool :=
  let n := (off - 0x710000) / 0x1000
  let o := off % 0x1000 % 0x800
  decide (0x710000 ≤ off) && decide (off < 0x800000) && (if n = 144 then decide (0x40 ≤ o) && o != 0x48 else o == 8)

/-- The bits of a word of a record in a register window that are not reserved: slot entries and class descriptors (R81, R88), handle entries
(R255), event entries by their KIND (R62), parse entries by their ACT (R339), and output templates (R355). -/
def State.recordBits (s : State) (off : Nat) : Word :=
  let full : Word := 0xFFFFFFFF
  if 0x140000 ≤ off ∧ off < 0x1C0000 then
    let w := off % 0x8000 / 4
    if w < 4096 then (if w % 4 = 3 then 0xFFFFFFFE else full)
    else if 4224 ≤ w then full
    else if w % 2 = 0 then 0x1FF else 0
  else if 0x6A0000 ≤ off ∧ off < 0x6C0000 then (if off / 4 % 4 = 0 then 0xFF7FF000 else full)
  else if 0x200400 ≤ off ∧ off < 0x201000 ∧ 0x400 ≤ off % 0x800 then
    (if off / 4 % 4 = 3 ∧ fld (s.rd (off - 12)) 29 2 = 0 then 0xFFFF else full)
  else if 0xB10000 ≤ off ∧ off < 0xB12000 then
    match off / 4 % 8 with
    | 0 => 0xFFFF0FFF
    | 1 => 0x0FFFCFFF
    | 3 => 0x8000FFFF
    | 6 => if fld (s.rd (off - 24)) 24 3 = 2 then 0xC00FFFFF else full
    | 7 => 0
    | _ => full
  else if 0xB20000 ≤ off ∧ off < 0xB21000 then
    match off / 4 % 8 with
    | 0 => 0xFFE0FFFF
    | 3 => 0xFF000000
    | 5 => 0x0FFFFFFF
    | 6 | 7 => 0
    | _ => full
  else full

/-- The word a read of offset `off` finds, with no effect of the read: 0 where no register lies or is reached, where the instance is
unpopulated, in a write-only register and in reserved bits (R3, R17, R18, R437). -/
def State.readReg (s : State) (off : Nat) : Word :=
  match RegMap.word off with
  | none => 0
  | some w =>
    if !s.present off || !s.hostReach off || eccHole off || w.acc == .wo then 0
    else
      match s.shown off with
      | some v => v
      | none => s.rd off &&& w32 w.mask &&& s.recordBits off

end Sys2Proof.Machine
end

