-- ==== Sys2Proof/Machine/Host.lean ====
section
/-! DEFINITION. The host interface: register reads and writes, the BAR2 window, outbound completions, the PCIe function, the event log's writer,
escalation clears and host liveness (R15 to R20, R400 to R408, R418 to R430, R434, R437, R457). -/

namespace Sys2Proof.Machine

open Sys2Proof

/-- The BARs decode: no reset holds the device, and the function is not in D3hot (R401). -/
def State.hostOn (s : State) : Bool := s.boot.held.isEmpty && !s.host.d3hot

/-! ## Register reads (R15 to R18) -/

/-- What a register holds after a read clears it: 0, and for GLB_TMAX the least reading (R482). -/
def rcCleared (off : Nat) : Word := if off = R.GLB_TMAX then 0x8000 else 0

/-- What an access of a register gives: the state, and the word read. -/
structure RegGot where
  st   : State
  word : Word

/-- An RC read of the word that reads `v`: it is cleared, or, when counted in this cycle, reads as before it and keeps what was counted (R20). -/
def State.rcRead (s : State) (off : Nat) (v : Word) : RegGot :=
  match FMap.find s.cyc.incs off with
  | some (was, n) => ⟨s.wr off n, was⟩
  | none => ⟨s.wr off (rcCleared off), v⟩

/-- A read of the word at `off`: the low word of a 64-bit register loads its latch, the high word empties it, an RC word is cleared. -/
def State.regRead (s : State) (off : Nat) : RegGot :=
  let v := s.readReg off
  match RegMap.word off with
  | none => ⟨s, 0⟩
  | some w =>
    if w.wide && w.idx == 0 then ⟨{ s with latch := FMap.upd s.latch off (some (s.readReg (off + 4))) }, v⟩
    else if w.wide then
      match FMap.find s.latch (off - 4) with
      | some h => ⟨{ s with latch := FMap.upd s.latch (off - 4) none }, h⟩
      | none => ⟨s, v⟩
    else if w.acc = .rc ∧ s.present off then s.rcRead off v
    else ⟨s, v⟩

/-- A host read of the word at `off`: one that the host does not reach reads zero (R437). -/
def State.hostRead (s : State) (off : Nat) : State :=
  if !s.hostOn then s
  else if !s.hostReach off then s.emit (.readWord off 0)
  else
    let r := s.regRead off
    r.st.emit (.readWord off r.word)

/-- REG64_LOW_READ. -/
def execReg64LowRead (off : Nat) (s : State) : Host.Outcome State Fault Refusal := .next (s.hostRead off)

/-- REG64_HIGH_READ. -/
def execReg64HighRead (off : Nat) (s : State) : Host.Outcome State Fault Refusal := .next (s.hostRead off)

/-- RC_REGISTER_READ. -/
def execRcRegisterRead (off : Nat) (s : State) : Host.Outcome State Fault Refusal := .next (s.hostRead off)

/-! ## Register writes (R15, R17 to R19, R419) -/

/-- A pending load holds cluster m. -/
def State.clusterPending (s : State) (m : Nat) : Bool :=
  (List.range 8).any fun p => s.loadPending p && (s.rd (R.SCH_PCFG p)).getLsbD m

/-- The staged group of the register or window word at `off` is committed and not yet applied (R421). -/
def State.groupPending (s : State) (off : Nat) : Bool :=
  let o := off % 0x100000
  let stat := fun (r : Nat) => (s.rd r).getLsbD 31
  match off / 0x100000 with
  | 0 => stat R.GLB_STATUS
  | 1 => s.loadPending (if o < 0x40000 then o / 0x40 else (o - 0x40000) / 0x8000)
  | 2 => s.tbPending (if 0x400 ≤ o then pendEVT else if o < 0x18 then pendTIME else pendPH)
  | 3 => stat (R.CLU_CALSTAT (o / 0x10000))
  | 5 | 8 => s.clusterPending (o / 0x10000)
  | 6 => s.loadPending ((o - 0xA0000) / 0x1000)
  | 7 => stat (R.ECC_RMSTAT ((o - 0x10000) / 0x1000))
  | 10 => stat (R.ETH_STATUS (o / 0x10000))
  | 11 => decide (0x20000 ≤ o) && (List.range 8).any fun p => s.loadPending p && (s.tmplsOf p).contains ((o - 0x20000) / 0x20)
  | 12 => stat R.MIR_STATUS
  | _ => false

/-- A generator or checker of lane l may be enabled: its port, or the mirror link, is off (R457). -/
def State.laneFree (s : State) (l : Nat) : Bool := !(s.act (if l < 4 then R.ETH_CFG l else R.MIR_CFG)).getLsbD 31

/-- The pending bits of vectors that are no longer masked go out as messages (R408). -/
def State.flushVecs (s : State) : State :=
  forEach (List.range 64) s fun s v =>
    if (s.rd (R.PCI_PBA (v / 32))).getLsbD (v % 32) && !(s.rd (R.PCI_MSIX v 3)).getLsbD 0 && s.canMsix then
      (s.clrBits (R.PCI_PBA (v / 32)) (bitMask (v % 32))).emit (.msix v)
    else s

/-- A write of the RW word at `off`. -/
def State.rwWrite (s : State) (off : Nat) (v : Word) : State :=
  let o := off % 0x100000
  match off / 0x100000 with
  | 1 =>
    if 0xC0000 ≤ o then (s.rbWrite ((o - 0xC0000) / 64) (o / 4 % 16) v 0xFFFFFFFF).st
    else if s.groupPending off then s.bump R.GLB_STGIGN else s.wr off v
  | 6 => if s.groupPending off then s.bump R.GLB_STGIGN else s.wr off v
  | 7 => s.wr off (if off = R.ECC_SCRUB_EN 144 then v &&& 1 else v)
  | 9 => if off = R.MEM_INIT then s else s.wr off v
  | 13 => if 0x10000 ≤ o then (s.wr off v).flushVecs else s.wr off v
  | 15 =>
    let l := (o - 0x100) / 0x20
    if 0x100 ≤ o ∧ o < 0x1C0 ∧ o % 0x20 < 8 then
      if v.getLsbD 31 && !s.laneFree l then s
      else if o % 0x20 = 4 then (s.wr off v).clrBits (R.TST_LSTAT l) (bitMask 31)
      else s.wr off v
    else s.wr off v
  | _ => s.wr off v

/-- A host write to the WO word at `off` that names no operation of DMA_CHCTL, or any of the service channel's, is ignored and counted (R320); the
operations themselves are commands of their own. -/
def State.woWrite (s : State) (off : Nat) (v : Word) : State :=
  let m := off / 0x10000 % 16
  let c := (off % 0x10000 - 0x1004) / 0x40
  if off / 0x100000 = 8 ∧ c < 8 ∧ off = R.DMA_CHCTL m c ∧ (c = 7 ∨ fld v 28 4 = 0 ∨ 5 < fld v 28 4) then s.bump (R.DMA_IGN m) else s

/-- A write of the whole word at `off`, by access code (R18); a staged register keeps the value as written (R418), and ignores a write while its
group is pending (R419). -/
def State.regWrite (s : State) (off : Nat) (value : Word) : State :=
  if !s.present off ∨ eccHole off then s
  else
    match RegMap.word off with
    | none => s
    | some w =>
      match w.acc with
      | .ro | .rc => s
      | .wo => s.woWrite off value
      | .w1c => if off = R.MIR_DIVCLR then (if value.getLsbD 0 then s.clrBits R.MIR_DIVINFO (bitMask 31) else s) else s.hostClr off value
      | .stg =>
        if s.groupPending off then s.bump R.GLB_STGIGN
        else if s.fuses.artsig && (List.range 8).any fun p => off == R.SCH_MAN p || off == R.SCH_MAN p + 4 then s
        else s.wr off value
      | .rw => s.rwWrite off (value &&& w32 w.mask)

/-- A host write of the word at `off` with byte enables: whole words only (R15), of registers that the host reaches (R437). -/
def State.hostWrite (s : State) (off : Nat) (value : Word) (be : BitVec 4) : State :=
  if be ≠ 0xF ∨ !s.hostOn ∨ !s.hostReach off then s else s.regWrite off value

/-! ## Register space as Carr transactions reach it (R9, R349) -/

/-- Bytes of register space read, each word they touch once (R15); beyond the first 16 MiB zero (R9). -/
def State.regBytes (s : State) (a len : Nat) : State × List Byte :=
  let first := (a - 0x70000000) / 4
  let r := (List.range ((a % 4 + len + 3) / 4)).foldl (fun (r : State × List Byte) i =>
    let off := 4 * (first + i)
    if off < 2 ^ 24 then let g := r.1.regRead off; (g.st, r.2 ++ leBytes 4 g.word.toNat) else (r.1, r.2 ++ leBytes 4 0)) (s, [])
  (r.1, (r.2.drop (a % 4)).take len)

/-- Bytes written to register space: words that are written whole (R15), in the first 16 MiB (R9). -/
def State.regStore (s : State) (a : Nat) (bs : List Byte) : State :=
  let first := (a - 0x70000000 + 3) / 4
  let skip := 4 * first - (a - 0x70000000)
  forEach (List.range ((bs.length - skip) / 4)) s fun s i =>
    if 4 * (first + i) < 2 ^ 24 then s.regWrite (4 * (first + i)) (w32 (leAt bs (skip + 4 * i) 4)) else s

/-- REGISTER_WRITE. -/
def execRegisterWrite (off : Nat) (value : Word) (be : BitVec 4) (s : State) : Host.Outcome State Fault Refusal :=
  .next (s.hostWrite off value be)

/-! ## BAR2 (R402 to R404, R437, R448) -/

/-- The device address of a BAR2 offset (R402); before RUN only the first 4 MiB of cluster memory 0 are mapped (R437). -/
def State.bar2Addr (s : State) (off : Nat) : Option Nat :=
  if !s.running then if 0x08000000 ≤ off ∧ off < 0x08400000 then some (memBase 128 + (off - 0x08000000)) else none
  else if off < 0x08000000 then some (memBase (off / 0x100000) + off % 0x100000)
  else if off < 0x10000000 then some (memBase (128 + (off - 0x08000000) / 0x800000) + off % 0x800000)
  else if off < 2 ^ s.field R.PCI_STAT 0 8 then some (memBase 144 + (s.rd64 R.PCI_MWBASE).toNat + (off - 0x10000000))
  else none

/-- The device address of a BAR2 request of `len` bytes, when every byte of it is mapped and its banks perform accesses (R14, R265). -/
def State.bar2Range (s : State) (off len : Nat) : Option Nat :=
  match s.bar2Addr off, s.bar2Addr (off + (len - 1)) with
  | some a, some b => if b = a + (len - 1) ∧ s.openRange a len then some a else none
  | _, _ => none

/-- A BAR2 request ended for want of a bank grant (R404). -/
def State.starve (s : State) (isRead : Bool) : State :=
  let s := if isRead then s.emit (.completion none false) else s
  let first := decide (s.rd R.PCI_STARVE = 0)
  let s := s.bump R.PCI_STARVE
  if first then s.event 0x0504 (w32 (b2n isRead)) none else s

/-- The memories' clocks are stopped (R479). -/
def State.quiet (s : State) : Bool := s.boot.power == Power.quiesce

/-- BAR2_READ: a request whose first row is held waits (R404); unmapped, it completes with Completer Abort; an uncorrectable word sets EP, with the stored data (R282, source 0x8). -/
def execBar2Read (off len : Nat) (s : State) : Host.Outcome State Fault Refusal :=
  .next (
    if !s.hostOn then s
    else
      match s.bar2Range off len with
      | none => s.emit (.completion none false)
      | some a =>
        if s.quiet then s.starve true
        else
          s.ask ordHost (s.claimsOf false a 1) fun s =>
            let r := s.readAny a len 8 none
            r.st.emit (.completion (some (bytesOf r.words a len)) r.bad.isSome))

/-- The enabled bytes of a write from `a`, row by row, as source 0xC; a row whose read-modify-write read is uncorrectable ends it (R281). -/
def State.windowWrite (s : State) (a : Nat) (data : List (Option Byte)) (poison : Bool) : State :=
  ((rowsOf a data.length).foldl (fun (w : Wrote) row =>
    match w.bad with
    | some _ => w
    | none =>
      let lo := if row < a then a else row
      let hi := if row + 128 < a + data.length then row + 128 else a + data.length
      w.st.writeMasked lo ((data.drop (lo - a)).take (hi - lo)) 0xC none poison) ⟨s, none⟩).st

/-- The partition that locks an enabled byte of a write from `a` (R448). -/
def State.lockOf (s : State) (a : Nat) (data : List (Option Byte)) : Option Nat :=
  data.zipIdx.findSome? fun x => if x.1.isSome then s.lockedBy (a + x.2) 1 else none

/-- A poisoned inbound write is counted when it ends (R403). -/
def State.epCount (s : State) (ep : Bool) : State := if ep then s.bump R.PCI_EPRX else s

/-- BAR2_WRITE: unmapped or locked, it is discarded and reported; with EP it is written poisoned (R403). -/
def execBar2Write (off : Nat) (data : List (Option Byte)) (ep : Bool) (s : State) : Host.Outcome State Fault Refusal :=
  .next (
    if !s.hostOn then s
    else
      match s.bar2Range off data.length with
      | none => (s.epCount ep).emit .aerAbort
      | some a =>
        match s.lockOf a data with
        | some p => ((s.epCount ep).lockWrite p 0).emit .aerAbort
        | none =>
          if s.quiet then (s.epCount ep).starve false
          else s.ask ordHost (s.claimsOf true a 1) fun s => (s.epCount ep).windowWrite a data ep)

/-- INBOUND_WAIT_EXPIRY: a request has waited IWAIT µs for its grant. -/
def execInboundWaitExpiry (isRead : Bool) (s : State) : Host.Outcome State Fault Refusal :=
  .next (if s.hostWrites then s.starve isRead else s)

/-! ## Outbound requests (R360, R405, R406, R426) -/

/-- What a failed read does to its requester (R406): a channel halts; a transmit entry stays untaken; a frame without its receive entry is
dropped. -/
def State.outLost (s : State) (o : Outbound) : State :=
  match o.who with
  | .dma k => s.dmaLost k o.tag
  | .rxEntry =>
    if s.net.rxWait.isEmpty then s
    else (({ s with net := { s.net with rxWait := s.net.rxWait.drop 1 } }).bump R.CARR_HRXDROP).rxAsk
  | _ => s

/-- What the data of a read do (R309, R360). -/
def State.outData (s : State) (o : Outbound) (data : List Byte) : State :=
  match o.who with
  | .dma k => s.dmaData k o.tag data
  | .txEntry => s.txEntry data
  | .txBuffer entry got =>
    let data := got ++ data
    let len := fld (w32 (leAt entry 0 4)) 0 16
    if data.length < len then s.txAsk entry data (o.addr - got.length) len
    else if txLenOk data then s.txQueue entry data
    else s.txTaken.txBack (s.txEntryAddr, w32 (leAt entry 0 4)) 3 0 0
  | .rxEntry =>
    match s.net.rxWait with
    | [] => s
    | x :: rest => (({ s with net := { s.net with rxWait := rest } }).rxFill x data).rxAsk

/-- An outstanding read ends. -/
def State.outEnd (s : State) (tag : Nat) (f : State → Outbound → State) : State :=
  match s.host.outbound.find? fun o => o.tag == tag with
  | none => s
  | some o => (f { s with host := { s.host with outbound := s.host.outbound.filter fun x => x.tag != tag } } o).rxAsk

/-- A read fails with a kind of PCIE_FAIL, counted in register `cnt`. -/
def State.outFail (s : State) (o : Outbound) (kind cnt : Nat) : State := ((s.bump cnt).pcieFail o.who.num kind).outLost o

/-- OUTBOUND_COMPLETION. -/
def execOutboundCompletion (tag : Nat) (status : CplStatus) (data : List Byte) (s : State) : Host.Outcome State Fault Refusal :=
  .next (s.outEnd tag fun s o =>
    match status with
    | .success => ((s.escOk 5 0 0).wr R.PCI_RUN 0).outData o (padTo o.len (data.take o.len))
    | .unsupported | .abort => s.outFail o 2 R.PCI_ERRCNT
    | .poisoned => s.outFail o 3 R.PCI_ERRCNT)

/-- The least time, in ns, of a Completion Timeout Value. -/
def ctoNs (v : Nat) : Nat :=
  match v with
  | 1 => 50000
  | 2 => 1000000
  | 5 => 16000000
  | 6 => 65000000
  | 9 => 260000000
  | 10 => 1000000000
  | _ => 10000000

/-- OUTBOUND_COMPLETION_TIMEOUT. -/
def execOutboundCompletionTimeout (tag : Nat) (s : State) : Host.Outcome State Fault Refusal :=
  .next (
    match s.host.outbound.find? fun o => o.tag == tag with
    | none => s
    | some o => if (s.tb.raw - o.raw).toNat < ctoNs s.host.cto then s else s.outEnd tag fun s o => s.outFail o 1 R.PCI_CTOCNT)

/-! ## The PCIe function (R401, R407, R434, R437, R458) -/

/-- The link is up. -/
def State.pcieUp (s : State) : Bool := (s.rd R.PCI_STAT).getLsbD 31

/-- The function's reset (R407): configuration, BAR2 and the MSI-X table at their defaults, PCI_MWBASE 0, outstanding reads failed, uncounted. -/
def State.fnReset (s : State) : State :=
  let h := s.host
  let s := { s with host := { h with busMaster := false, d3hot := false, cto := 0, mrrs := 2, compliance := false, outbound := [] } }
  let s := ({ s with net := { s.net with rxWait := [] } }).addSat R.CARR_HRXDROP s.net.rxWait.length
  let s := (s.setField R.PCI_STAT 0 8 28).wr64 R.PCI_MWBASE 0
  let s := forEach (List.range 64) s fun s v =>
    (((s.wr (R.PCI_MSIX v 0) 0).wr (R.PCI_MSIX v 1) 0).wr (R.PCI_MSIX v 2) 0).wr (R.PCI_MSIX v 3) 1
  let s := (s.wr (R.PCI_PBA 0) 0).wr (R.PCI_PBA 1) 0
  forEach h.outbound s fun s o => (s.event 0x0502 (w32 (o.who.num * 2 ^ 16 + 4 * 2 ^ 8)) none).outLost o

/-- A reset of the function counted and logged: 1 for an FLR, 0 for a hot reset or a link down (R431). -/
def State.fnResetLog (s : State) (flr : Nat) : State := ((s.bump R.PCI_FLRCNT).event 0x0503 (w32 flr) none).fnReset

/-- PCIE_FLR: it also ends the escalation of scope 5 (R426). -/
def execPcieFlr (s : State) : Host.Outcome State Fault Refusal :=
  .next (if s.boot.held.isEmpty && s.pcieUp then ((s.fnResetLog 1).escClear 5 0 0).wr R.PCI_RUN 0 else s)

/-- PCIE_HOT_RESET. -/
def execPcieHotReset (s : State) : Host.Outcome State Fault Refusal :=
  .next (if s.boot.held.isEmpty && s.pcieUp then s.fnResetLog 0 else s)

/-- The link goes down: logged, and the function reset. -/
def State.pcieDown (s : State) : State :=
  if s.pcieUp then ((s.setField R.PCI_STAT 24 8 0).event 0x0501 0 none).fnResetLog 0 else s

/-- PCIE_LINK: the link comes up at a speed and width of R400, unless PERST_N holds it in Detect; or it goes down. -/
def execPcieLink (up : Bool) (speed width : Nat) (s : State) : Host.Outcome State Fault Refusal :=
  .next (
    if !up then s.pcieDown
    else if s.pcieUp || s.host.perst || !s.boot.held.isEmpty || decide (speed < 1) || decide (5 < speed) || !([1, 2, 4] : List Nat).contains width then s
    else
      (s.setField R.PCI_STAT 24 8 (2 ^ 7 + speed * 2 ^ 4 + width)).event 0x0501 (w32 (2 ^ 8 + speed * 2 ^ 4 + width)) none)

/-- PERST_N: low, it holds the link in Detect; its rise resets the function, logged in RUN (R434). -/
def execPerstN (level : Bool) (s : State) : Host.Outcome State Fault Refusal :=
  .next (
    if !level then { s with host := { s.host with perst := true } }.pcieDown
    else if !s.host.perst then s
    else
      let s := { s with host := { s.host with perst := false } }
      if s.running then s.fnResetLog 0 else s.fnReset)

/-- PCIE_CONFIG_REQUEST: answered from 20 ms after reset release (R437). -/
def execPcieConfigRequest (req : CfgReq) (s : State) : Host.Outcome State Fault Refusal :=
  .next (
    if !s.pcieUp || !s.boot.held.isEmpty || decide (s.tb.raw.toNat < 20000000) then s
    else
      match req with
      | .resizeBar2 n => if 28 ≤ n ∧ n ≤ 36 then s.setField R.PCI_STAT 0 8 n else s
      | .busMaster on => { s with host := { s.host with busMaster := on } }.flushVecs
      | .completionTimeout v => { s with host := { s.host with cto := v.toNat } }
      | .maxReadRequest c => if c.toNat ≤ 5 then { s with host := { s.host with mrrs := c.toNat } } else s
      | .dState d => { s with host := { s.host with d3hot := d } }.flushVecs
      | .compliance on => { s with host := { s.host with compliance := on } }
      | .read => s)

/-! ## The event log's writer (R423 to R425) -/

/-- Records written to the ring and not yet consumed. -/
def State.logUnread (s : State) : Nat := (s.rd R.GLB_LOGWR - s.rd R.GLB_LOGRD).toNat

/-- LOG_RECORD_WRITE: the oldest queued record goes to the ring while it has room. -/
def execLogRecordWrite (s : State) : Host.Outcome State Fault Refusal :=
  .next (
    let cfg := s.act R.GLB_LOGCFG
    match s.log.queue with
    | [] => s
    | r :: rest =>
      if !s.running || !cfg.getLsbD 31 || s.field R.GLB_MEM 0 8 == 0 || decide (4096 ≤ s.logUnread) then s
      else
        let wr := s.rd R.GLB_LOGWR
        let a := memBase 144 + (s.act64 R.GLB_LOGBASE).toNat / 2 ^ 17 * 2 ^ 17 % 2 ^ 36 + 32 * (wr.toNat % 4096)
        let s := (s.writeBytes a (r.words.flatMap fun w => leBytes 4 w.toNat) 0xC none false).st
        let l := s.log
        let s := { s with log := { l with queue := rest, unsig := l.unsig ++ [(wr, s.tb.raw)] } }
        let s := s.wr R.GLB_LOGWR (wr + 1)
        let s := if r.urgent then s.raiseVec (fld cfg 6 6) else s
        if s.logUnread = max 1 (fld cfg 19 12) then
          { s with log := { s.log with unsig := [] } }.raiseVec (fld cfg 0 6)
        else s)

/-- LOG_COALESCE_EXPIRY: COAL × 10 µs after the oldest unread record that is not yet signalled. -/
def execLogCoalesceExpiry (s : State) : Host.Outcome State Fault Refusal :=
  .next (
    let cfg := s.act R.GLB_LOGCFG
    let coal := fld cfg 12 7
    let wait := s.log.unsig.filter fun (x : Word × Dword) => decide ((x.1 - s.rd R.GLB_LOGRD).toNat < s.logUnread)
    match wait with
    | [] => s
    | x :: _ =>
      if coal = 0 ∨ (s.tb.raw - x.2).toNat < coal * 10000 then s
      else { s with log := { s.log with unsig := [] } }.raiseVec (fld cfg 0 6))

/-- The code of a log-group commit (R425). -/
def State.logCode (s : State) : Nat :=
  let base := s.rd64 R.GLB_LOGBASE
  let en := (s.rd R.GLB_LOGCFG).getLsbD 31
  if en && s.field R.GLB_MEM 0 8 == 0 then 1
  else if en && decide (s.memSize 144 < base.toNat / 2 ^ 17 % 2 ^ 19 * 2 ^ 17 + 0x20000) then 2
  else if base.toNat / 2 ^ 36 ≠ 0 ∨ base.toNat % 2 ^ 17 ≠ 0 then 3
  else 0

/-- GLB_COMMIT_LOG. -/
def execGlbCommitLog (s : State) : Host.Outcome State Fault Refusal :=
  .next (if s.hostWrites then s.commitGroup R.GLB_STATUS s.logCode else s)

/-- LOG_GROUP_APPLY: GLB_LOGWR and GLB_LOGRD return to 0 when EN or the base changes. -/
def execLogGroupApply (s : State) : Host.Outcome State Fault Refusal :=
  .next (
    if !(s.rd R.GLB_STATUS).getLsbD 31 then s
    else
      let old := (s.act64 R.GLB_LOGBASE, (s.act R.GLB_LOGCFG).getLsbD 31)
      let s := (s.apply [R.GLB_LOGBASE, R.GLB_LOGBASE + 4, R.GLB_LOGCFG]).clrBits R.GLB_STATUS (bitMask 31)
      if (s.act64 R.GLB_LOGBASE, (s.act R.GLB_LOGCFG).getLsbD 31) = old then s
      else { (s.wr R.GLB_LOGWR 0).wr R.GLB_LOGRD 0 with log := { s.log with unsig := [] } })

/-! ## Escalation clears and liveness (R426, R430) -/

/-- GLB_ESCCLR: the escalation of one unit ends and its run returns to 0; ENGINE counts for scope 1 alone. -/
def execGlbEscclr (value : Word) (s : State) : Host.Outcome State Fault Refusal :=
  .next (
    if !s.hostWrites then s
    else
      let scope := fld value 28 4
      let s := s.escClear scope (fld value 16 12) (if scope = 1 then fld value 0 8 else 0)
      if scope = 5 then s.wr R.PCI_RUN (w32 (min 3 (s.escOf (escKey 5 0 0)).run)) else s)

/-- GLB_HOSTHB. -/
def execGlbHosthb (s : State) : Host.Outcome State Fault Refusal :=
  .next (if s.hostWrites then { s with host := { s.host with hbRaw := s.tb.raw, silent := false } } else s)

/-- HOST_SILENT: LIMIT ms without a write of GLB_HOSTHB, logged once. -/
def execHostSilent (s : State) : Host.Outcome State Fault Refusal :=
  .next (
    let lim := s.field R.GLB_HOSTCFG 0 16
    if !s.running || lim == 0 || s.host.silent || decide ((s.tb.raw - s.host.hbRaw).toNat < lim * 1000000) then s
    else { s with host := { s.host with silent := true } }.event 0x0102 (w32 lim) none)

end Sys2Proof.Machine
end

