-- ==== Sys2Proof/Machine/Integ.lean ====
section
/-! DEFINITION. Idle-cycle work of the memories and bank power: pod drains, correction write-backs, the scrubbers, remap entries, error
injection, and power gating (R245, R263 to R266, R276 to R278, R288 to R296). -/

namespace Sys2Proof.Machine

open Sys2Proof

/-! ## Handles that cover a memory (R263, R288) -/

/-- Entries that protect bytes of memory n: of every active table, retained ones of an unloaded partition among them, and of a pending table
that is accepted. -/
def State.guards (s : State) (n : Nat) : List Handle :=
  (List.range 8).flatMap fun q =>
    let at_ := fun (hs : List Handle) (cfg : Word) => hs.filter fun h => (h.present hs (bitsOf 16 (fld cfg 0 16))).contains n
    at_ (s.actHandles q) (s.act (R.SCH_PCFG q)) ++ (if s.loadPending q then at_ (s.pendHandles q) (s.rd (R.SCH_PCFG q)) else [])

/-- Some entry covers a byte of a range of memory n. -/
def covered (hs : List Handle) (off len : Nat) : Bool := hs.any fun h => decide (0 < shared h.off h.len off len)

/-- Bank b of memory n is off, closing or waking. -/
def State.bankBusy (s : State) (n b : Nat) : Bool := s.bankOff n b || (FMap.find s.banks (bankKey n b)).isSome

/-- A memory with banks, and one of its banks. -/
def State.hasBank (s : State) (n b : Nat) : Bool := decide (n < 144) && s.hasMem n && decide (b < 16)

/-- The offset of row r of bank b of memory n. -/
def rowOff (n b r : Nat) : Nat := b * bankSize n + 128 * r

/-! ## Pod drains and write-backs (R245, R276, R278) -/

/-- POD_NORMAL_DRAIN: the oldest entry whose sub-bank write is free, and which receives no word in this cycle, drains into its row and is freed;
older ones that another request holds are counted. -/
def execPodNormalDrain (core : Nat) (s : State) : Host.Outcome State Fault Refusal :=
  let now := s.coreNow core
  let asks := (s.core core).pod.filter fun e => (s.core core).podAt != (now, e.row)
  let held := fun (e : PodEntry) => s.heldOf ordPod (s.claimAt true e.row)
  let late := (asks.takeWhile fun e => !(held e).isEmpty).flatMap held
  .next (
    match asks.find? fun e => (held e).isEmpty with
    | none => s.softHolds late
    | some e =>
      (((s.softHolds late).grantBus ordPod (s.claimAt true e.row)).drainEntry core e false).modCore core fun c =>
        { c with pod := c.pod.filter fun x => x.slot != e.slot })

/-- A word of a bank or spare written by the memory's own logic with a syndrome: 0, or that of a poisoned copy. -/
def State.putFixed (s : State) (n wa : Nat) (d : Dword) (syn : Byte) : State :=
  let (s, d, x) := s.inject ⟨n, wa - memBase n⟩ d syn
  (s.putBank wa d x).cancelWb n wa

/-- A remap copy waits for bank b of memory n (R276). -/
def State.remapFor (s : State) (n b : Nat) : Bool :=
  match (s.integOf n).remap with
  | some a => a / 2 ^ 16 == b
  | none => false

/-- The oldest queued correction of a bank that may be written back: none that is read in this cycle (R277). -/
def State.wbFor (s : State) (mem bank : Nat) : Option WbEntry :=
  (s.integOf mem).wbq.find? fun e => e.bank == bank && decide (e.raw.toNat < s.tb.raw.toNat)

/-- CORRECTION_WRITE_BACK: the bank's oldest queued correction, in an idle cycle with no remap copy to make. -/
def execCorrectionWriteBack (mem bank : Nat) (s : State) : Host.Outcome State Fault Refusal :=
  .next (
    if !s.hasBank mem bank || s.bankGated mem bank || s.remapFor mem bank then s
    else
      match s.wbFor mem bank with
      | none => s
      | some e => s.idleWork mem bank fun s => s.putFixed mem e.addr e.data 0)

/-! ## The scrubbers (R288 to R290, R292) -/

/-- The first row at or after the pointer that bank b's scrubber visits. -/
def State.scrubRow (s : State) (n b : Nat) : Option Nat :=
  if !(s.rd (R.ECC_SCRUB_EN n)).getLsbD b || s.bankBusy n b then none
  else
    let hs := s.guards n
    (List.range (bankRows n)).find? fun r => decide (FMap.get 0 (s.integOf n).ptr b ≤ r) && covered hs (rowOff n b r) 128

/-- A lap of a memory with banks has rows left to visit. -/
def State.lapRows (s : State) (n : Nat) : Bool := (List.range 16).any fun b => (s.scrubRow n b).isSome

/-- The row pointer of bank b moved. -/
def Integrity.setPtr (i : Integrity) (b r : Nat) : Integrity := { i with ptr := FMap.set 0 i.ptr b r }

/-- The lap's length is past its limit: logged once (R290). -/
def State.scrubSlow (s : State) (n len : Nat) : State :=
  let i := s.integOf n
  if i.slow || decide (len ≤ (s.rd (R.ECC_SCRUB_LIM n)).toNat) then s
  else
    (((s.setInteg n { i with slow := true }).setBits (R.ECC_MFLAGS n) 8).setBits R.ECC_FLAGS 16).event 0x0904 (w32 n) none

/-- The lap of a memory has ended: its length kept, its pointers back at row 0; the next lap begins in the following cycle. -/
def State.lapEnd (s : State) (n len : Nat) : State :=
  let s := s.wr (R.ECC_LAP_LAST n) (w32 (min len (2 ^ 32 - 1)))
  let s := if (s.rd (R.ECC_LAP_MAX n)).toNat < len then s.wr (R.ECC_LAP_MAX n) (w32 (min len (2 ^ 32 - 1))) else s
  let s := s.bump (R.ECC_LAPS n)
  let s := s.setInteg n { s.integOf n with ptr := [], done := [], lapRaw := 0, slow := false }
  if n = 144 || s.lapRows n then
    s.setInteg n { s.integOf n with lapRaw := s.tb.raw + 5 }
  else s

/-- The lap of memory n in this cycle, its last one included: past its limit, or over when no bank has a row left (R290). -/
def State.lapCheck (s : State) (n : Nat) : State :=
  let len := cyclesBetween (s.integOf n).lapRaw s.tb.raw + 1
  let s := s.scrubSlow n len
  if s.lapRows n then s else s.lapEnd n len

/-- Bank b's pointer goes on from row r. -/
def State.scrubOn (s : State) (n b r : Nat) : State := (s.setInteg n ((s.integOf n).setPtr b (r + 1))).lapCheck n

/-- The laps at the end of a cycle (R290): one begins where a bank has a row to visit, and ends where none has one left, its banks disabled or
turned off. -/
def State.tickLaps (s : State) : State :=
  forEach ((List.range 144).filter fun n => s.rd (R.ECC_SCRUB_EN n) != 0 || (s.integOf n).lapRaw != 0) s fun s n =>
    let i := s.integOf n
    if i.lapRaw = 0 then (if s.lapRows n then s.setInteg n { i with lapRaw := s.tb.raw } else s)
    else if s.tb.raw.toNat < i.lapRaw.toNat then s
    else s.lapCheck n

/-- Corrected bank words of a row, by device address. -/
def State.rowFixes (s : State) (n off : Nat) : List (Nat × Dword) :=
  (rowWords (memBase n + off)).filterMap fun wa =>
    let w := s.stored ⟨n, wa - memBase n⟩ wa
    match eccDecode w.syn with
    | .ceData i => if w.spare then none else some (wa, eccDeliver (.ceData i) w.data)
    | .ceCheck => if w.spare then none else some (wa, w.data)
    | _ => none

/-- SCRUB_READ: the row at the pointer is read and decoded; corrected words wait for the scrub write. -/
def execScrubRead (mem bank : Nat) (s : State) : Host.Outcome State Fault Refusal :=
  .next (
    let i := s.integOf mem
    if !s.hasBank mem bank || s.remapFor mem bank || (s.wbFor mem bank).isSome || (FMap.find i.scrubbed bank).isSome then s
    else
      match s.scrubRow mem bank with
      | none => s
      | some r => s.idleWork mem bank fun s =>
        let s := if i.lapRaw = 0 then s.setInteg mem { i with lapRaw := s.tb.raw } else s
        let off := rowOff mem bank r
        let fix := s.rowFixes mem off
        let s := (s.readWords (rowWords (memBase mem + off)) (fun _ => false) 0xA none).st
        if fix.isEmpty then s.scrubOn mem bank r
        else
          let i := s.integOf mem
          s.setInteg mem ({ i with scrubbed := FMap.upd i.scrubbed bank (some fix) }.setPtr bank r))

/-- SCRUB_WRITE: the corrected words that nothing has written since are written. -/
def execScrubWrite (mem bank : Nat) (s : State) : Host.Outcome State Fault Refusal :=
  .next (
    let i := s.integOf mem
    if !s.hasBank mem bank || s.bankBusy mem bank || s.remapFor mem bank || (s.wbFor mem bank).isSome then s
    else
      match FMap.find i.scrubbed bank with
      | none => s
      | some fix => s.idleWork mem bank fun s =>
        let s := forEach fix s fun s x => s.putFixed mem x.1 x.2 0
        let i := s.integOf mem
        (s.setInteg mem { i with scrubbed := FMap.upd i.scrubbed bank none }).scrubOn mem bank (FMap.get 0 i.ptr bank))

/-- Raw time of LPDDR6's last scrub read, kept beside its unit pointer (key 0). -/
def lpScrubKey : Nat := 1

/-- LPDDR6_SCRUB_READ: one 64-byte unit, corrected and rewritten; laps count in ms. -/
def execLpddr6ScrubRead (s : State) : Host.Outcome State Fault Refusal :=
  .next (
    let i := s.integOf 144
    let ivl := max 1 (s.field (R.ECC_MSCRUB 144) 0 16)
    let last := w64 (FMap.get 0 i.ptr lpScrubKey)
    let size := s.memSize 144
    if !s.memOn || !(s.rd (R.ECC_SCRUB_EN 144)).getLsbD 0 || size == 0 || decide ((s.tb.raw - last).toNat < ivl * 100) then s
    else
      let u := FMap.get 0 i.ptr 0
      let wa := memBase 144 + 64 * u
      let was := (List.range 8).map fun k => wa + 8 * k
      let s := if i.lapRaw = 0 then s.setInteg 144 { i with lapRaw := s.tb.raw } else s
      let fix := was.filterMap fun a =>
        let w := s.stored ⟨144, a - memBase 144⟩ a
        match eccDecode w.syn with
        | .ceData k => some (a, eccDeliver (.ceData k) w.data)
        | .ceCheck => some (a, w.data)
        | _ => none
      let s := (s.readWords was (fun _ => false) 0xA none).st
      let s := forEach fix s fun s x => s.putFixed 144 x.1 x.2 0
      let len := ((s.tb.raw - (s.integOf 144).lapRaw).toNat) / 1000000
      let s := s.scrubSlow 144 len
      let s := if 64 * (u + 1) < size then s.setInteg 144 ((s.integOf 144).setPtr 0 (u + 1)) else s.lapEnd 144 len
      s.setInteg 144 ((s.integOf 144).setPtr lpScrubKey s.tb.raw.toNat))

/-! ## Remap entries and injection (R294 to R296) -/

/-- The lowest free remap entry of a memory. -/
def State.rmFree (s : State) (n : Nat) : Option Nat := (List.range 8).find? fun i => !(s.rd (R.ECC_RM n i)).getLsbD 31

/-- The code of a remap commit. -/
def State.rmCode (s : State) (n : Nat) : Nat :=
  let a := s.field (R.ECC_RMADD n) 0 20
  if n = 144 then 2
  else if (s.rmFree n).isNone then 1
  else if bankRows n ≤ a / 16 % 4096 then 2
  else if (List.range 8).any fun i => (s.rd (R.ECC_RM n i)).getLsbD 31 && s.field (R.ECC_RM n i) 0 20 == a then 3
  else if s.bankBusy n (a / 2 ^ 16) then 4
  else 0

/-- ECC_RMCOMMIT. -/
def execEccRmcommit (mem : Nat) (s : State) : Host.Outcome State Fault Refusal :=
  .next (
    if !s.hostWrites || !s.hasMem mem then s
    else
      let st := R.ECC_RMSTAT mem
      let was := (s.rd st).getLsbD 31
      let s := s.commitGroup st (s.rmCode mem)
      if !was && (s.rd st).getLsbD 31 then s.setInteg mem { s.integOf mem with remap := some (s.field (R.ECC_RMADD mem) 0 20) } else s)

/-- REMAP_ADDED: the word is copied to the lowest free entry's spare, corrected, or as it stands and poisoned (source 0xB). -/
def execRemapAdded (mem : Nat) (s : State) : Host.Outcome State Fault Refusal :=
  .next (
    match (s.integOf mem).remap, s.rmFree mem with
    | some a, some i =>
      let off := rowOff mem (a / 2 ^ 16) (a / 16 % 4096) + 8 * (a % 16)
      let wa := memBase mem + off
      if s.bankGated mem (a / 2 ^ 16) then s
      else s.idleWork mem (a / 2 ^ 16) fun s =>
        let w := s.stored ⟨mem, off⟩ wa
        let r := s.readWord ⟨mem, off⟩ wa 0xB none
        let s := if r.bad then r.st.putFixed mem wa w.data 0xFF else r.st.putFixed mem wa r.data 0
        let s := s.setInteg mem { s.integOf mem with remap := none }
        let s := (s.cancelWb mem wa).wr (R.ECC_RM mem i) (w32 (2 ^ 31 + a))
        let s := (s.apply [R.ECC_RMADD mem]).clrBits (R.ECC_RMSTAT mem) (bitMask 31)
        let s := if r.bad then s.setBits (R.ECC_MFLAGS mem) 16 else s
        s.event 0x0905 (w32 (mem + i * 2 ^ 8 + b2n r.bad * 2 ^ 11)) none
    | _, _ => s)

/-- ECC_INJECT_ARM: the next write of the chosen word is corrupted. -/
def execEccInjectArm (mem : BitVec 8) (s : State) : Host.Outcome State Fault Refusal :=
  .next (if s.hostWrites then s.wr R.ECC_INJCTL (w32 (2 ^ 31 + mem.toNat)) else s)

/-! ## Bank power (R263 to R266) -/

/-- SPD_PGCODE of a request: its code and the lowest bank that caused it. -/
def State.pgResult (s : State) (n code b : Nat) : State := s.wr (R.SPD_PGCODE n) (w32 (b * 2 ^ 8 + code))

/-- A bank's transition begins or ends: SPD_PGSTAT.TRANS and the record of it. -/
def State.setBusy (s : State) (n b : Nat) (k : Option BankBusy) : State :=
  ({ s with banks := FMap.upd s.banks (bankKey n b) k }).setField (R.SPD_PGSTAT n) b 1 (if k.isSome then 1 else 0)

/-- The first of some banks that a condition refuses. -/
def firstBank (banks : BitVec 16) (f : Nat → Bool) : Option Nat := (bitsOf 16 banks.toNat).find? f

/-- SPD_PGCTL_POWER_DOWN: the named banks that are on start closing. -/
def execSpdPgctlPowerDown (mem : Nat) (banks : BitVec 16) (s : State) : Host.Outcome State Fault Refusal :=
  .next (
    if !s.hostWrites || decide (144 ≤ mem) then s
    else
      let hs := s.guards mem
      match firstBank banks fun b => covered hs (b * bankSize mem) (bankSize mem) with
      | some b => s.pgResult mem 1 b
      | none =>
        if !s.hasMem mem then (firstBank banks fun _ => true).elim (s.pgResult mem 0 0) fun b => s.pgResult mem 2 b
        else
          match firstBank banks fun b => (FMap.find s.banks (bankKey mem b)).isSome with
          | some b => s.pgResult mem 3 b
          | none =>
            let s := s.pgResult mem 0 0
            forEach ((bitsOf 16 banks.toNat).filter fun b => !s.bankOff mem b) s fun s b => s.setBusy mem b (some ⟨true, s.tb.raw, false⟩))

/-- SPD_PGCTL_POWER_UP: the named banks that are off start waking. -/
def execSpdPgctlPowerUp (mem : Nat) (banks : BitVec 16) (s : State) : Host.Outcome State Fault Refusal :=
  .next (
    if !s.hostWrites || decide (144 ≤ mem) then s
    else if !s.hasMem mem then (firstBank banks fun _ => true).elim (s.pgResult mem 0 0) fun b => s.pgResult mem 2 b
    else
      match firstBank banks fun b => (FMap.find s.banks (bankKey mem b)).isSome with
      | some b => s.pgResult mem 3 b
      | none =>
        let s := s.pgResult mem 0 0
        forEach ((bitsOf 16 banks.toNat).filter fun b => s.bankOff mem b) s fun s b =>
          (s.setField (R.SPD_PGSTAT mem) (16 + b) 1 0).setBusy mem b (some ⟨false, s.tb.raw, false⟩))

/-- A pod entry holds a row of the bank. -/
def State.podIn (s : State) (n b : Nat) : Bool := decide (n < 128) && (s.core n).pod.any fun e => bankOf n (e.row - memBase n) == b

/-- The test of a bank: no DMA write is in flight for it, no pod entry holds one of its rows, and no request to it was held (R264). -/
def State.bankFree (s : State) (n b : Nat) : Bool := s.inFlight n b == 0 && !s.podIn n b && !s.cyc.heldWas.contains (n, b)

/-- The test at the start of a cycle, in the 4,096 after a power-down is accepted (R264). -/
def State.tickBanks (s : State) : State :=
  { s with banks := s.banks.map fun x =>
      let t := cyclesBetween x.2.raw s.tb.raw
      (x.1, { x.2 with passed := x.2.passed ||
        (x.2.closing && t != 0 && decide (t ≤ 4096) && s.bankFree (x.1 / 16) (x.1 % 16)) }) }

/-- BANK_OFF: a closing bank that a test finds free turns off; its queued corrections are discarded. -/
def execBankOff (mem bank : Nat) (s : State) : Host.Outcome State Fault Refusal :=
  .next (
    match FMap.find s.banks (bankKey mem bank) with
    | none => s
    | some k =>
      let t := cyclesBetween k.raw s.tb.raw
      if !k.closing || !s.hasBank mem bank || t == 0 || !(k.passed || (decide (t ≤ 4096) && s.bankFree mem bank)) then s
      else
        let i := s.integOf mem
        let s := s.setInteg mem { i with
          wbq := i.wbq.filter fun e => e.bank != bank
          scrubbed := FMap.upd i.scrubbed bank none }
        (s.setBusy mem bank none).setField (R.SPD_PGSTAT mem) (16 + bank) 1 1)

/-- BANK_PD_ABORT: a bank that no test in 4,096 cycles has found free stays on. -/
def execBankPdAbort (mem bank : Nat) (s : State) : Host.Outcome State Fault Refusal :=
  .next (
    match FMap.find s.banks (bankKey mem bank) with
    | none => s
    | some k =>
      if !k.closing || k.passed || !s.hasBank mem bank || decide (cyclesBetween k.raw s.tb.raw ≤ 4096) then s
      else
        ((s.setBusy mem bank none).setBits (R.SPD_FLAGS mem) 2).event 0x0802
          (w32 (mem * 2 ^ 16 + bank * 2 ^ 8 + min 63 (s.inFlight mem bank))) none)

/-- BANK_WAKE_DONE: after 64 cycles the bank is on, its contents undefined. -/
def execBankWakeDone (mem bank : Nat) (s : State) : Host.Outcome State Fault Refusal :=
  .next (
    match FMap.find s.banks (bankKey mem bank) with
    | none => s
    | some k =>
      if k.closing || !s.hasBank mem bank || decide (cyclesBetween k.raw s.tb.raw < 64) then s
      else (s.setBusy mem bank none).forget (memBase mem + bank * bankSize mem) (bankSize mem))

end Sys2Proof.Machine
end

