-- ==== Sys2Proof/Machine/Boot.lean ====
section
/-! DEFINITION. Reset and boot: reset sources and release, temperature, the test access port, the boot states, firmware images, the
configuration list and LPDDR6 training (R304, R434 to R446, R449, R452, R461, R462, R473, R475 to R478). -/

namespace Sys2Proof.Machine

open Sys2Proof

/-! ## Reset (R434, R435, R476) -/

/-- Windows that a reset does not clear: GLB_LOGLAST, the images, the Reedbed and the handle tables. -/
def keptOff (off : Nat) : Bool :=
  (decide (0x2000 ≤ off) && decide (off < 0x2800)) || (decide (0x140000 ≤ off) && decide (off < 0x200000)) ||
    (decide (0x6A0000 ≤ off) && decide (off < 0x6C0000))

/-- Device address of a remap entry's word in memory n. -/
def rmWord (n a : Nat) : Nat := memBase n + rowOff n (a / 2 ^ 16) (a / 16 % 4096) + 8 * (a % 16)

/-- Words that a run-time remap entry moved to a spare: after a reset they lie in the bank again, undefined (R294). -/
def State.lostSpares (s : State) : List Nat :=
  (List.range 144).flatMap fun n => (List.range 8).filterMap fun i =>
    let r := s.rd (R.ECC_RM n i)
    if r.getLsbD 31 && !r.getLsbD 30 then some (rmWord n (fld r 0 20)) else none

/-- Every register and unit at its reset value; memories, fuses, the windows of `keptOff` and the levels at the balls stay. -/
def State.clear (s : State) (b : Boot) : State :=
  let lost := s.lostSpares
  let t : State := { State.reset with
    regs := s.regs.filter fun (c : Nat × Word) => keptOff c.1
    mem := s.mem, syn := s.syn, fuses := s.fuses, out := s.out, free := s.free, pending := s.pending, boot := b
    tb := { Timebase.reset with pins := (s.tb.pins.filter fun (c : Nat × Pin) => c.2.ball).map fun (c : Nat × Pin) =>
      (c.1, { Pin.reset with ball := true }) }
    host := { HostIf.reset with perst := s.host.perst } }
  forEach lost t fun t a => t.forget a 8

/-- A reset source takes the device: nothing runs until its release. -/
def State.enterReset (s : State) (src : RstSrc) : State :=
  let b := s.boot
  s.clear { Boot.reset with
    held := if b.held.contains src then b.held else b.held ++ [src]
    tripped := b.tripped || src == RstSrc.thermtrip
    tapIr := b.tapIr, tapHold := b.tapHold, bootSrc := b.bootSrc, pairRole := b.pairRole }

/-- Whether a low pulse of PORST_N is taken (R475). -/
def porstTakes (lowNs : Nat) : Bool := if lowNs < 1000 then false else if 10000 ≤ lowNs then true else Config.porstTaken lowNs

/-- PORST_N: a pulse that is taken resets the device, and ends the hold of a thermal trip (R478). -/
def execPorstN (lowNs : Nat) (s : State) : Host.Outcome State Fault Refusal :=
  .next (
    if porstTakes lowNs then
      let was := s.boot.tripped
      let s := s.enterReset .porst
      let s := { s with boot := { s.boot with tripped := false } }
      if was then s.emit (.thermtrip true) else s
    else s)

/-- CHIP_RESET: the second value within 1 ms of the first, with no other write between. -/
def execChipReset (value : Word) (s : State) : Host.Outcome State Fault Refusal :=
  .next (
    if !s.hostOn then s
    else
      let due : Bool := match s.boot.rst1 with
        | some t => decide ((s.tb.raw - t).toNat ≤ 1000000)
        | none => false
      if value = 0x1E4C ∧ due then s.enterReset .chiprst
      else { s with boot := { s.boot with rst1 := if value = 0xC4E1 then some s.tb.raw else none } })

/-- The bit of GLB_RSTCAUSE: the highest in R476's order of precedence. -/
def causeBit (held : List RstSrc) : Nat :=
  if held.contains .thermtrip then 3
  else if held.contains .brownout then 2
  else if held.contains .porst then 0
  else if held.contains .tap then 4
  else 1

/-- RESET_RELEASE: when no source holds the device longer, the straps are sampled and the boot begins. -/
def execResetRelease (pairRole bootSrc : Bool) (s : State) : Host.Outcome State Fault Refusal :=
  .next (
    let b := s.boot
    if b.held.isEmpty || b.tripped || b.tapHold then s
    else
      let s := s.clear { Boot.reset with tapIr := b.tapIr, bootSrc := bootSrc, pairRole := pairRole }
      let s := (s.wr R.GLB_RSTCAUSE (bitMask (causeBit b.held))).setField R.MIR_STAT 31 1 (b2n pairRole)
      s.setField R.SEC_BOOTSTAT 6 1 (b2n bootSrc))

/-- BROWNOUT (R473). -/
def execBrownout (ns : Nat) (s : State) : Host.Outcome State Fault Refusal :=
  .next (if s.boot.held.isEmpty && decide (2000 < ns) then s.enterReset .brownout else s)

/-! ## Temperature (R477, R478) -/

/-- The highest of some readings with its sensor, the lowest sensor among equals. -/
def hottest (temps : List (BitVec 16)) : Nat × Int :=
  temps.zipIdx.foldl (fun m x => if m.2 < x.1.toInt then (x.2, x.1.toInt) else m) (0, -40000)

/-- TEMPERATURE_SENSOR_READ: the readings are shown; the highest is kept, warned of, and at +125 °C trips the device. -/
def execTemperatureSensorRead (temps : List (BitVec 16)) (s : State) : Host.Outcome State Fault Refusal :=
  .next (
    let temps := temps.take 17
    if !s.boot.held.isEmpty || temps.isEmpty then s
    else
      let hot := hottest temps
      let lim := (BitVec.ofNat 16 (s.field R.GLB_TWARN 0 16)).toInt
      let s := forEach temps.zipIdx s fun s x => s.wr (R.GLB_TEMP x.2) (w32 x.1.toNat)
      let s := if (BitVec.ofNat 16 (s.field R.GLB_TMAX 0 16)).toInt < hot.2 then s.wr R.GLB_TMAX (w32 (unsign 16 hot.2)) else s
      let s := if lim ≤ hot.2 ∧ !s.boot.warned then
          ({ s with boot := { s.boot with warned := true } }).event 0x0105 (w32 (hot.1 * 2 ^ 16 + unsign 16 hot.2)) none
        else if hot.2 ≤ lim - 8 then { s with boot := { s.boot with warned := false } }
        else s
      if 500 ≤ hot.2 then (s.enterReset .thermtrip).emit (.thermtrip false) else s)

/-! ## Test access port (R452, R462) -/

/-- TAP_INSTRUCTION: with DEBUG_CLOSE blown a private instruction is BYPASS; any but BYPASS and IDCODE stops the device. -/
def execTapInstruction (ir : TapInstr) (s : State) : Host.Outcome State Fault Refusal :=
  .next (
    let ir := if ir = .privateInstr ∧ s.fuses.debugClose then .bypass else ir
    let s := { s with boot := { s.boot with tapIr := ir } }
    if ir = .bypass ∨ ir = .idcode then s
    else { s with boot := { s.boot with tapHold := true } }.enterReset .tap)

/-- TAP_TEST_LOGIC_RESET: IDCODE is loaded, and a device that the TAP stopped goes through a chip reset, which RESET_RELEASE ends. -/
def execTapTestLogicReset (s : State) : Host.Outcome State Fault Refusal :=
  .next { s with boot := { s.boot with tapIr := .idcode, tapHold := false } }

/-! ## Boot states and measurements (R436, R446) -/

/-- The number of a boot state. -/
def BootState.num : BootState → Nat
  | .fuse => 0
  | .load => 1
  | .verify => 2
  | .config => 3
  | .train => 4
  | .run => 5
  | .halt => 6

/-- The boot goes on to a state. -/
def State.bootTo (s : State) (b : BootState) : State :=
  ({ s with boot := { s.boot with state := b } }).setField R.SEC_BOOTSTAT 28 4 b.num

/-- The bytes of a measurement register. -/
def State.measured (s : State) (i : Nat) : List Byte := (List.range 12).flatMap fun w => leBytes 4 (s.rd (R.SEC_M i w)).toNat

/-- Words written from a register's first word on. -/
def State.wrWords (s : State) (reg : Nat → Nat) (n v : Nat) : State :=
  forEach (List.range n) s fun s w => s.wr (reg w) (w32 (v / 2 ^ (32 * w)))

/-- A measurement register extended with a digest. -/
def State.extend (s : State) (i : Nat) (d : BitVec 384) : State :=
  s.wrWords (R.SEC_M i) 12 (Config.sha3_384 (s.measured i ++ leBytes 48 d.toNat)).toNat

/-- The private seeds of the device identity (R449). -/
def Fuses.edSeed (f : Fuses) : List Byte := Config.shake 32 (f.secret ++ [1])
def Fuses.mlSeed (f : Fuses) : List Byte := Config.shake 32 (f.secret ++ [2])

/-- Consecutive blown bits from ARB0 (R443). -/
def arbCount (v : Dword) : Nat := ((List.range 64).takeWhile fun i => v.getLsbD i).length

/-- The remap fuses loaded into the entries of their memories, their spares undefined (R294). -/
def State.loadRemaps (s : State) : State :=
  forEach s.fuses.remap s fun s (x : Nat × Nat) =>
    match s.rmFree x.1 with
    | some i => (s.wr (R.ECC_RM x.1 i) (w32 (3 * 2 ^ 30 + x.2))).forget (rmWord x.1 x.2) 8
    | none => s

/-- BOOT_FUSE_DONE: half-blown ARB bits are blown, the fuses load, the identity keys are derived, and M0 is extended. -/
def execBootFuseDone (s : State) : Host.Outcome State Fault Refusal :=
  .next (
    if s.boot.state ≠ .fuse ∨ !s.boot.held.isEmpty then s
    else
      let f := s.fuses
      let arb := f.arbNorm ||| f.arbHigh
      let s := { s with fuses := { f with arbNorm := arb, arbHigh := arb }, boot := { s.boot with svn := arbCount arb } }
      let s := (s.loadRemaps.wrWords R.SEC_EDPUB 8 (ofLe (Config.edPub f.edSeed))).wrWords R.SEC_MLPUB 488 (ofLe (Config.mlPub f.mlSeed))
      (s.extend 0 f.romHash).bootTo .load)

/-! ## Images (R440, R442) -/

/-- Bytes of an image header. -/
def imgHeader : Nat := 0x1580

/-- The signed message, its digest, and fields of an image. -/
def imgMessage (b : List Byte) : List Byte := b.take 0x840
def imgDigest (b : List Byte) : BitVec 384 := Config.sha3_384 (imgMessage b)
def imgSlot (b : List Byte) : Nat := leAt b 4 1
def imgSvn (b : List Byte) : Nat := leAt b 8 1
def imgPlen (b : List Byte) : Nat := leAt b 0x10 8

/-- The reserved fields of a header are 0. -/
def imgReservedOk (b : List Byte) : Bool :=
  fld (w32 (leAt b 8 4)) 19 13 == 0 && fld (w32 (leAt b 8 4)) 8 8 == 0 && leAt b 0x0C 4 == 0 && leAt b 0x18 8 == 0 &&
    leAt b 0x50 48 == 0 && leAt b 0x156D 19 == 0

/-- Checks 0x01 to 0x05 of a header, for an image of type `typ` with at most `room` payload bytes. -/
def State.headerCode (s : State) (b : List Byte) (typ room : Nat) : Nat :=
  let f := s.fuses
  let k := imgSlot b
  let ed := slice b 0x80 32
  let ml := slice b 0xA0 1952
  if leAt b 0 4 ≠ 0x4B4C4855 ∨ leAt b 6 2 ≠ 1 then 1
  else if !imgReservedOk b || leAt b 5 1 != typ || !(leAt b 10 1).testBit f.grade || decide (room < imgPlen b) then 2
  else if 4 ≤ k ∨ f.revoked.testBit k ∨ Config.sha3_384 ed ≠ f.edHash.getD k 0 ∨ Config.sha3_384 ml ≠ f.mlHash.getD k 0 then 3
  else if !Config.ed25519Verify ed (imgMessage b) (slice b 0x840 64) then 4
  else if !Config.mlDsaVerify ml (imgMessage b) (slice b 0x880 3309) then 5
  else 0

/-- Bytes that the security controller reads in memory: none where an address is unmapped or a word uncorrectable. -/
def State.secRead (s : State) (a len : Nat) : State × Option (List Byte) :=
  if len = 0 then (s, some [])
  else if !s.openRange a len then (s, none)
  else
    let r := s.readAny a len 8 none
    (r.st, if r.bad.isSome then none else some (bytesOf r.words a len))

/-- Where a host image lies: cluster memory 0 (R439). -/
def hostImage : Nat := memBase 128

/-- Payload bytes a firmware image may have: 4 MiB in all. -/
def fwRoom : Nat := 0x400000 - imgHeader

/-! ## Loading and verifying firmware (R438, R439, R441, R442) -/

/-- SEC_BOOTCTL_GO: the host image is handed over in LOAD with the host source, or in HALT. -/
def execSecBootctlGo (s : State) : Host.Outcome State Fault Refusal :=
  .next (
    let b := s.boot
    if !s.hostOn || b.hostImg || !((b.state == .load && b.bootSrc) || b.state == .halt) then s
    else (({ s with boot := { b with hostImg := true, copyB := false } }).setField R.SEC_BOOTSTAT 6 2 1).bootTo .load)

/-- BOOT_IMAGE_LOAD: the header of the flash copy, or of the host image, is read. -/
def execBootImageLoad (flash : List Byte) (s : State) : Host.Outcome State Fault Refusal :=
  .next (
    let b := s.boot
    if b.state ≠ .load ∨ !b.held.isEmpty ∨ (b.bootSrc && !b.hostImg) then s
    else if b.hostImg then
      let r := s.secRead hostImage imgHeader
      ({ r.1 with boot := { r.1.boot with image := r.2.getD [], unread := r.2.isNone } }).bootTo .verify
    else ({ s with boot := { b with image := padTo imgHeader (flash.take imgHeader), unread := false } }).bootTo .verify)

/-- The configuration list of a firmware payload, as (offset, value) (R441). -/
def configList (p : List Byte) : List (Nat × Word) :=
  (List.range (leAt p 12 4 / 8)).map fun i => (leAt p (leAt p 8 4 + 8 * i) 4, w32 (leAt p (leAt p 8 4 + 8 * i + 4) 4))

/-- A register that a configuration list may name: the MEM_ block, ETH_TSC, and the lane tuning registers. -/
def configReg (off : Nat) : Bool :=
  off % 4 == 0 && (off / 0x100000 == 9 || ((List.range 4).any fun k => off == R.ETH_TSC k) || (List.range 6).any fun l => off == R.TST_LTUNE l)

/-- The contents of a firmware payload are valid (R441). -/
def fwValid (p : List Byte) : Bool :=
  let code := leAt p 4 4
  let list := leAt p 12 4
  decide (64 ≤ p.length) && decide (leAt p 0 4 + code ≤ p.length) && decide (leAt p 8 4 + list ≤ p.length) && decide (code ≤ 0x40000) &&
    list % 8 == 0 && decide (list ≤ 8192) && (configList p).all fun x => configReg x.1

/-- The code of a verification whose header and payload were read, `none` where they could not be. -/
def State.imageCode (s : State) (b : List Byte) (typ room : Nat) (payload : Option (List Byte)) (valid : List Byte → Bool) : Nat :=
  let h := s.headerCode b typ room
  if h ≠ 0 then h
  else
    match payload with
    | none => 9
    | some p =>
      if Config.sha3_384 p ≠ BitVec.ofNat 384 (leAt b 0x20 48) then 6
      else if imgSvn b < s.boot.svn then 7
      else if !valid p then 8
      else 0

/-- BOOT_VERIFY_DONE: an accepted image goes on to CONFIG; a failed copy A is followed by copy B, and any other failure by HALT. -/
def execBootVerifyDone (payload : List Byte) (s : State) : Host.Outcome State Fault Refusal :=
  .next (
    let b := s.boot
    if b.state ≠ .verify ∨ !b.held.isEmpty then s
    else
      let n := imgPlen b.image
      let r := if b.hostImg then (if b.unread || decide (fwRoom < n) then (s, none) else s.secRead (hostImage + imgHeader) n)
        else (s, if n ≤ payload.length then some (payload.take n) else some payload)
      let s := r.1
      let code := if b.unread then 9 else s.imageCode b.image 1 fwRoom r.2 fwValid
      let s := s.setField R.SEC_BOOTSTAT (if b.copyB then 8 else 16) 8 code
      if code = 0 then
        let s := s.setField R.SEC_BOOTSTAT 7 1 (b2n b.copyB)
        ({ s with boot := { b with
          image := b.image ++ r.2.getD [], fwSvn := imgSvn b.image, fwSlot := imgSlot b.image, hostImg := false } }).bootTo .config
      else if b.hostImg ∨ b.copyB then ({ s with boot := { b with hostImg := false, image := [] } }).bootTo .halt
      else ({ s with boot := { b with copyB := true, image := [] } }).bootTo .load)

/-- SEC_LIFE as it reads, and the slots' hashes, as bytes. -/
def State.lifeBytes (s : State) : List Byte := leBytes 4 (s.readReg R.SEC_LIFE).toNat
def Fuses.slotBytes (f : Fuses) : List Byte :=
  (List.range 4).flatMap fun k => leBytes 48 (f.edHash.getD k 0).toNat ++ leBytes 48 (f.mlHash.getD k 0).toNat

/-- An entry of the configuration list applied: a staged register's shadow and active value both (R441). -/
def State.configWrite (s : State) (off : Nat) (v : Word) : State :=
  match RegMap.word off with
  | none => s
  | some w =>
    match w.acc with
    | .stg => (s.wr off v).wr (R.twin off) v
    | .rw => s.wr off (v &&& w32 w.mask)
    | .w1c => s.clrBits off v
    | _ => s

/-- BOOT_CONFIG: the image and the lifecycle are measured, slots revoked, and the configuration list applied. -/
def execBootConfig (s : State) : Host.Outcome State Fault Refusal :=
  .next (
    let b := s.boot
    if b.state ≠ .config ∨ !b.held.isEmpty then s
    else
      let p := b.image.drop imgHeader
      let s := s.extend 1 (imgDigest b.image)
      let s := s.extend 2 (Config.sha3_384 (s.lifeBytes ++ s.fuses.slotBytes ++ leBytes 8 s.fuses.physmap.toNat))
      let mask := leAt p 16 1 % 16
      let f := s.fuses
      let s := { s with
        fuses := { f with revoked := Nat.lor f.revoked (if mask.testBit b.fwSlot then mask - 2 ^ b.fwSlot else mask) }
        boot := { b with image := [] } }
      (forEach (configList p) s fun s x => s.configWrite x.1 x.2).bootTo .train)

/-! ## LPDDR6 training (R301, R304, R324) -/

/-- The channels that fail, with their steps: all at step 1 when MEM_INIT does not fit the memory. -/
def State.trainFails (s : State) (fit : MemFit) : List (Nat × Nat) :=
  let i := s.rd R.MEM_INIT
  let rate := fld i 24 4
  if rate < 1 ∨ 5 < rate ∨ !([2, 4, 8, 16] : List Nat).contains (fld i 0 8) ∨ fld i 0 8 ≠ fit.chGib ∨ i.getLsbD 8 ≠ fit.ranks then
    (List.range 4).map fun c => (c, 1)
  else (List.range 4).filterMap fun c => fit.fails.find? fun x => x.1 == c && decide (1 ≤ x.2) && decide (x.2 ≤ 6)

/-- Training: MEM_GIB takes the fitted size when every channel passes, and stays 0 when one fails. -/
def State.train (s : State) (fit : MemFit) : State :=
  let bad := s.trainFails fit
  let fail := (bad.map fun x => 2 ^ x.1).sum
  let s := s.wr R.MEM_STAT (w32 (fail * 2 ^ 4 + (15 - fail)))
  if bad.isEmpty then
    let s := (s.setBits R.MEM_STAT (bitMask 31)).setField R.MEM_STAT 24 4 (s.field R.MEM_INIT 24 4)
    (s.wr R.GLB_MEM (w32 (4 * fit.chGib))).wr R.MEM_ORG (w32 (b2n fit.ranks * 2 ^ 8 + fit.chGib))
  else
    let s := (s.wr R.GLB_MEM 0).setBits R.MEM_FLAGS 1
    forEach bad s fun s x => s.event 0x0A02 (w32 (x.2 * 2 ^ 8 + x.1)) none

/-- LPDDR6_TRAINING: the device enters RUN whether or not training passes, and BOOT_DONE is logged. -/
def execLpddr6Training (fit : MemFit) (s : State) : Host.Outcome State Fault Refusal :=
  .next (
    if s.boot.state ≠ .train ∨ !s.boot.held.isEmpty then s
    else
      let s := (s.train fit).bootTo .run
      s.event 0x0E01 (w32 (s.field R.SEC_BOOTSTAT 16 8 * 2 ^ 16 + s.field R.SEC_BOOTSTAT 6 1 * 2 ^ 9 + s.field R.SEC_BOOTSTAT 7 1 * 2 ^ 8 +
        s.boot.svn)) none)

end Sys2Proof.Machine
end

