-- ==== Sys2Proof/Machine/Calib.lean ====
section
/-! DEFINITION. The calibration entries of a cluster: windows, shares and their configuration group (R194 to R198). -/

namespace Sys2Proof.Machine

open Sys2Proof

/-- SHARE of a closed window (R195). -/
def calShare (clip tot : Nat) : Nat := if tot = 0 then 0 else min (clip * 2 ^ 16 / tot) 0xFFFF

/-- The running counts of entry e cleared (R197). -/
def State.calClear (s : State) (m e : Nat) : State :=
  ((s.wr64 (R.CLU_CALCLIP m e) 0).wr64 (R.CLU_CALTOT m e) 0).clrBits (R.CLU_CALSAT m) (bitMask e)

/-- The window of entry e closes (R194, R195): counts kept, running counts and window counter cleared, SHARE and STALE judged. -/
def State.calClose (s : State) (m e : Nat) : State :=
  let clip := s.rd64 (R.CLU_CALCLIP m e)
  let tot := s.rd64 (R.CLU_CALTOT m e)
  let sat := (s.rd (R.CLU_CALSAT m)).getLsbD e
  let share := calShare clip.toNat tot.toNat
  let was := (s.rd (R.CLU_CALSTALE m)).getLsbD e
  let s := (s.wr64 (R.CLU_CALCLIPL m e) clip).wr64 (R.CLU_CALTOTL m e) tot
  let s := (s.calClear m e).wr (R.CLU_CALWIN m e) 0
  let s := s.wr (R.CLU_CALSHARE m e) (w32 (b2n sat * 2 ^ 16 + share))
  if share > fld (s.act (R.CLU_CALCFG m e)) 0 16 then
    let s := s.setBits (R.CLU_CALSTALE m) (bitMask e)
    if was then s else s.event 0x0601 (w32 (share * 2 ^ 16 + e * 2 ^ 8 + m)) none
  else s.clrBits (R.CLU_CALSTALE m) (bitMask e)

/-- The lanes of a cycle added to the counts of entry e, unless one would pass 48 bits (R193, R196). -/
def State.calAdd (s : State) (m e tot clip : Nat) : State :=
  if (s.rd (R.CLU_CALSAT m)).getLsbD e then s
  else
    let t := (s.rd64 (R.CLU_CALTOT m e)).toNat + tot
    let k := (s.rd64 (R.CLU_CALCLIP m e)).toNat + clip
    if t ≥ 2 ^ 48 ∨ k ≥ 2 ^ 48 then s.setBits (R.CLU_CALSAT m) (bitMask e)
    else (s.wr64 (R.CLU_CALTOT m e) (w64 t)).wr64 (R.CLU_CALCLIP m e) (w64 k)

/-- The cluster exists. -/
def State.hasClu (s : State) (m : Nat) : Bool := decide (m < s.nClusters)

/-- The real-time partition of a cluster. -/
def State.rtOf (s : State) (m : Nat) : Option Nat := (s.partOf m).bind fun p => if s.isRt p then some p else none

/-- The window counter of an enabled entry has reached 2^16 × (DIV + 1), in a real-time partition. -/
def State.calDue (s : State) (m e : Nat) : Bool :=
  let c := s.act (R.CLU_CALCFG m e)
  c.getLsbD 31 && (s.rtOf m).isSome && decide (2 ^ 16 * (fld c 21 8 + 1) ≤ (s.rd (R.CLU_CALWIN m e)).toNat)

/-- An anchor closes the window of entry e, once, and a CLOSE write of the same cycle with it (R194). -/
def State.calAnchor (s : State) (m e : Nat) : State :=
  if !s.calDue m e then s
  else
    let s := s.calClose m e
    let k := m * 32 + e
    { s with cyc := { s.cyc with cal := { s.cyc.cal with
        closed := s.cyc.cal.closed ++ [k], close := s.cyc.cal.close.filter fun x => x != k } } }

/-- The end of a cycle: windows that its anchors close are closed, and the lanes it has counted are added, to the new windows (R193, R194). -/
def State.tickCal (s : State) : State :=
  let s := forEach s.cyc.cal.due s fun s k => s.calAnchor (k / 32) (k % 32)
  forEach s.cyc.cal.counts s fun s x => s.calAdd (x.1 / 32) (x.1 % 32) x.2.1 x.2.2

/-- Windows closed in the cycle after a write of CLU_CALCLOSE (R194). -/
def State.calWritten (s : State) (ks : List Nat) : State := forEach ks s fun s k => s.calClose (k / 32) (k % 32)

/-- The code of a commit of cluster m's group (R198). -/
def State.calCode (s : State) (m : Nat) : Nat :=
  let cfgs := ((List.range 32).map fun e => s.rd (R.CLU_CALCFG m e)).filter fun c => c.getLsbD 31
  if cfgs.any fun c => fld c 29 2 == 3 then 1
  else
    match s.rtOf m with
    | some p => if cfgs.any fun c => !s.hasAnchor none p (some (fld c 29 2)) then 2 else 0
    | none => 0

/-- CLU_CALCOMMIT. -/
def execCluCalcommit (cluster : Nat) (s : State) : Host.Outcome State Fault Refusal :=
  .next (if s.hostWrites && s.hasClu cluster then s.commitGroup (R.CLU_CALSTAT cluster) (s.calCode cluster) else s)

/-- The configuration that a word of CLU_CALCFG holds: its fields without the reserved bits [20:16]. -/
def calConfig (w : Word) : Word := w &&& ~~~ fldMask 16 5

/-- CALCFG_APPLY: at the partition's next HP anchor, or at once outside a real-time partition; a window that the anchor closes is closed
under the old configuration, and entries that change start anew. A word that differs in reserved bits alone is no change: they belong to
no configuration (DESIGN CHOICE, log entry 105). -/
def execCalcfgApply (cluster : Nat) (s : State) : Host.Outcome State Fault Refusal :=
  .next (
    if !s.hasClu cluster || !(s.rd (R.CLU_CALSTAT cluster)).getLsbD 31 ||
        (match s.rtOf cluster with
          | some p => !s.hpNow p true
          | none => false) then s
    else
      let s := forEach (List.range 32) s fun s e => s.calAnchor cluster e
      let changed := (List.range 32).filter fun e => calConfig (s.rd (R.CLU_CALCFG cluster e)) != calConfig (s.act (R.CLU_CALCFG cluster e))
      let s := s.apply ((List.range 32).map (R.CLU_CALCFG cluster))
      let s := forEach changed s fun s e => (s.calClear cluster e).wr (R.CLU_CALWIN cluster e) 0
      s.clrBits (R.CLU_CALSTAT cluster) (bitMask 31))

/-- CLU_CALCLR. -/
def execCluCalclr (cluster : Nat) (entries : Word) (s : State) : Host.Outcome State Fault Refusal :=
  .next (if s.hostWrites && s.hasClu cluster then forEach (bitsOf 32 entries.toNat) s fun s e => s.calClear cluster e else s)

/-- CLU_CALCLOSE: each named entry's window closes in the next cycle, unless an anchor closes it in this one. -/
def execCluCalclose (cluster : Nat) (entries : Word) (s : State) : Host.Outcome State Fault Refusal :=
  let c := s.cyc.cal
  let ks := ((bitsOf 32 entries.toNat).map (cluster * 32 + ·)).filter fun k => !c.closed.contains k && !c.close.contains k
  .next (if s.hostWrites && s.hasClu cluster then { s with cyc := { s.cyc with cal := { c with close := c.close ++ ks } } } else s)

/-- CALIB_WINDOW_CLOSE. -/
def execCalibWindowClose (cluster entry : Nat) (s : State) : Host.Outcome State Fault Refusal :=
  .next (if s.hasClu cluster && decide (entry < 32) then s.calAnchor cluster entry else s)

end Sys2Proof.Machine
end

