-- ==== Sys2Proof/Machine/Carr.lean ====
section
/-! DEFINITION. The Carr commands: measurements, transactions, answers, HELLO, ATTEST, requests that time out, and the parse group
(R326, R340 to R353, R358, R359). -/

namespace Sys2Proof.Machine

open Sys2Proof

/-! ## Measurements (R342 to R348) -/

/-- MEAS: checks 1 to 10, then placement, substitution, or a violation. -/
def execMeas (rx : RxFrame) (s : State) : Host.Outcome State Fault Refusal :=
  .next (match s.route rx 0x01 with
    | .done s => s
    | .entry s h i e =>
      let stamp := s.stampOf (s.rxRaw rx)
      if e.maxlen < h.len then s.refuse rx h 0 i 0
      else if crc32c h.payload ≠ h.crc then
        (s.viol 3 rx.port i h stamp).substitute e i h.ctx (if e.job then s.ajob h.ctx else 0) stamp
      else s.measTail h i e stamp rx.port rx.port false)

/-- MEAS_PLACEMENT_DONE: the placement under way for a context-job completes, unless its last write is held (R250). -/
def execMeasPlacementDone (ctx job : Nat) (s : State) : Host.Outcome State Fault Refusal :=
  .next (match s.net.placing.find? fun p => p.begun && p.ctx == ctx && p.job == job with
    | some p => s.ask ordPlace (s.claimsOf true p.addr 1) fun s => s.placeDone p
    | none => s)

/-! ## Transactions (R349) -/

/-- The range lies in the entry's window. -/
def PEntry.covers (e : PEntry) (a len : Nat) : Bool := decide (e.base ≤ a) && decide (a + len ≤ e.base + e.size)

/-- The range lies in the partner window (R9). -/
def inPartner (a len : Nat) : Bool := decide (partnerBase ≤ a) && decide (a + len ≤ 2 * partnerBase)

/-- An RD under an entry: from the partner window by a request to the partner, else from registers or memory (R9). -/
def State.txnRead (s : State) (r : RxFrame) (h : Carr) (i : Nat) (e : PEntry) (seqd : Bool) (d : Option Int) : State :=
  let a := beAt h.payload 0 8
  let len := beAt h.payload 8 4
  let who := askerOf r h
  if !(e.rdok && e.covers a len) then s.refuse r h 10 i 0
  else if inPartner a len then
    let s := s.txnTake h i seqd d
    if s.escalated 4 partner 0 ∨ (s.laneFor false).isNone then s.nak who 0x08 0
    else (s.request partner (.relay who) 0x03 (beBytes 8 (a - partnerBase) ++ beBytes 4 len ++ [0, 0, 0, 0])).1
  else if inRegs a len then
    let g := s.regBytes a len
    ((g.1.txnTake h i seqd d).bump R.CARR_TXNCNT).sendAnswer who 0x05 0 g.2 false
  else
    match s.serveRead a len with
    | (s, .error (c, off)) => (if c = 10 then s else s.txnTake h i seqd d).refuse r h c i off
    | (s, .ok data) => ((s.txnTake h i seqd d).bump R.CARR_TXNCNT).sendAnswer who 0x05 0 data false

/-- RD: a read transaction of a port. -/
def execRd (rx : RxFrame) (s : State) : Host.Outcome State Fault Refusal :=
  .next (match s.route rx 0x03 with
    | .done s => s
    | .entry s h i e =>
      match s.txnCheck rx h i (!e.smany) with
      | .done s => s
      | .ok s d => s.txnRead rx h i e (!e.smany) d)

/-- A WR under an entry: refused, answered again as a duplicate unless it is still in service, or put in service. -/
def State.txnWrite (s : State) (r : RxFrame) (h : Carr) (i : Nat) (e : PEntry) (seqd : Bool) (d : Option Int) : State :=
  let a := beAt h.payload 0 8
  let len := beAt h.payload 8 4
  match d with
  | some 0 =>
    match FMap.find s.net.txnAns i with
    | some (seq, nak, f) =>
      if seq ≠ h.seq then s
      else if nak then s.nakOnce (askerOf r h) fun s => s.answer r.port f true
      else s.answer r.port f false
    | none => s
  | _ =>
    if (match d with
      | some d => decide (d < 0)
      | none => false) then s
    else if !(e.wrok && e.covers a len && (inRegs a len || s.openRange a len)) then s.refuse r h 10 i 0
    else
      match s.lockedBy a len with
      | some p => (s.lockWrite p 1).refuse r h 10 i 0
      | none =>
        let s := s.txnTake h i seqd d
        let t : Txn := { id := s.net.nextTxn, who := askerOf r h, entry := i, ctx := h.ctx, rx := s.stampOf (s.rxRaw r), addr := a
                         data := h.payload.drop 16, begun := false, bad := none }
        { s with net := { s.net with txns := s.net.txns ++ [t], nextTxn := s.net.nextTxn + 1 } }.txnNext

/-- WR: a write transaction of a port; on the mirror link every WR is answered UNMAPPED (R369). -/
def execWr (rx : RxFrame) (s : State) : Host.Outcome State Fault Refusal :=
  .next (if 4 ≤ rx.port then
      match s.mirRoute rx 0x04 with
      | .done s => s
      | .ok s h =>
        match s.txnCheck rx h 0x1FF false with
        | .done s => s
        | .ok s _ => s.refuse rx h 10 0x1FF 0
    else
      match s.route rx 0x04 with
      | .done s => s
      | .entry s h i e =>
        match s.txnCheck rx h i (!e.smany) with
        | .done s => s
        | .ok s d => s.txnWrite rx h i e (!e.smany) d)

/-- The header of a WR, for a violation record. -/
def Txn.carr (t : Txn) : Carr :=
  { ver := t.who.ver, typ := 4, flags := 0, seq := t.who.seq, ctx := t.ctx, len := 16 + t.data.length, step := 0, ts := 0
    payload := [], crc := 0 }

/-- WR_COMPLETE: a WR in service is answered with ACK, or NAK UE; the answer is kept for a duplicate. -/
def execWrComplete (txn : Nat) (s : State) : Host.Outcome State Fault Refusal :=
  .next (match s.net.txns.find? fun t => t.id == txn && t.begun with
    | none => s
    | some t =>
      let s := { s with net := { s.net with txns := s.net.txns.filter fun x => x.id != txn } }
      let keep := fun (s : State) (nak : Bool) (f : TxFrame) =>
        if (s.pentry t.entry).smany then s
        else { s with net := { s.net with txnAns := FMap.upd s.net.txnAns t.entry (some (t.who.seq, nak, f)) } }
      let s := if inRegs t.addr t.data.length then s.regStore t.addr t.data else s
      (match t.bad with
        | none =>
          let s := s.bump R.CARR_TXNCNT
          keep (s.sendAnswer t.who 0x05 0 [] false) false (s.reply t.who 0x05 0 []).2
        | some off =>
          let s := s.viol 11 t.who.port t.entry t.carr t.rx
          let payload := [0x06, 0] ++ beBytes 2 off
          keep (s.nak t.who 0x06 off) true (s.reply t.who 0x06 0 payload).2).txnNext)

/-! ## Answers (R342, check 4; R351) -/

/-- An answer of a type after checks 1 to 3, on a port or a lane. -/
def State.answerIn (s : State) (r : RxFrame) (typ : Nat) : MirIn :=
  if 4 ≤ r.port then s.mirRoute r typ
  else
    let h := Carr.parse r.frame.body
    if r.frame.etype.toNat ≠ s.etype ∨ h.typ ≠ typ then .done s
    else
      let a := s.accept r
      if !a.ok then .done a.st
      else match carrGate false h r.frame.body.length with
        | some c => .done (a.st.refuse r h c 0x1FF 0)
        | none => .ok a.st h

/-- The request that an answer's peer and SEQ name, if one is outstanding. -/
def State.answered (s : State) (r : RxFrame) (h : Carr) : Option Request :=
  (s.peerOf r.port r.frame.src).bind fun p => s.findReq p h.seq

/-- ACK: answers the outstanding request of its peer and SEQ, or is UNSOL. -/
def execAck (rx : RxFrame) (s : State) : Host.Outcome State Fault Refusal :=
  .next (match s.answerIn rx 0x05 with
    | .done s => s
    | .ok s h =>
      match s.answered rx h with
      | some q => s.reqDone q h.payload
      | none => s.viol 8 rx.port 0x1FF h (s.stampOf (s.rxRaw rx)))

/-- NAK: fails the outstanding request of its peer and SEQ, or is UNSOL. -/
def execNak (rx : RxFrame) (s : State) : Host.Outcome State Fault Refusal :=
  .next (match s.answerIn rx 0x06 with
    | .done s => s
    | .ok s h =>
      match s.answered rx h with
      | some q => s.reqFail q (beAt h.payload 0 1) (beAt h.payload 2 2)
      | none => s.viol 8 rx.port 0x1FF h (s.stampOf (s.rxRaw rx)))

/-! ## PHASE, HELLO and ATTEST (R338, R358, R359) -/

/-- PHASE: matched like any frame; only DROP and HOST entries take it, so it goes to the host ring or nowhere. -/
def execPhase (rx : RxFrame) (s : State) : Host.Outcome State Fault Refusal :=
  .next (match s.route rx 0x07 with
    | .done s => s
    | .entry s _ _ _ => s)

/-- A HELLO that passed its checks: an answer completes the peer's request; a request is answered with HELLO or NAK SCHEMA. -/
def State.helloIn (s : State) (r : RxFrame) (h : Carr) : State :=
  let vmin := beAt h.payload 0 1
  let vmax := beAt h.payload 1 1
  let peer := s.peerOf r.port r.frame.src
  if h.flags.testBit 15 then
    match peer with
    | none => s
    | some p =>
      let s := match s.findReq p h.seq with
        | some q => s.reqDone q []
        | none => s
      let s := s.escClear 4 p 0
      let s := { s with net := { s.net with greeted := Nat.lor s.net.greeted (2 ^ p) } }
      (s.negotiate p vmin vmax).1
  else
    let s := match peer with
      | some p => (s.negotiate p vmin vmax).1
      | none => s
    let who := askerOf r h
    if max 2 vmin ≤ min 3 vmax then
      s.sendAnswer who 0x08 0 ([2, 3, 0, 0] ++ if h.ver ≤ 2 then [] else beBytes 4 Config.features.toNat) false
    else s.nak who 0x03 0x0203

/-- HELLO, on a port under a TXN entry, or on a lane. -/
def execHello (rx : RxFrame) (s : State) : Host.Outcome State Fault Refusal :=
  .next (if 4 ≤ rx.port then
      match s.mirRoute rx 0x08 with
      | .done s => s
      | .ok s h =>
        match s.txnCheck rx h 0x1FF false with
        | .done s => s
        | .ok s _ => s.helloIn rx h
    else
      match s.route rx 0x08 with
      | .done s => s
      | .entry s h i e =>
        match s.txnCheck rx h i (!e.smany) with
        | .done s => s
        | .ok s d => (s.txnTake h i (!e.smany) d).helloIn rx h)

/-- HELLO_SEND_TIMER: a HELLO to a valid peer whose link or lane is up and which has not answered one yet. -/
def execHelloSendTimer (peer : Nat) (s : State) : Host.Outcome State Fault Refusal :=
  .next (if s.net.greeted.testBit peer then s
    else if peer = partner then (if (s.laneFor false).isSome then s.sendHello peer else s)
    else if peer < 32 ∧ (s.peer peer).getLsbD 63 ∧ s.linkUp ((s.peer peer).toNat / 2 ^ 48 % 4) then s.sendHello peer
    else s)

/-- ATTEST: passed to the security controller, or answered BUSY while it works or its attestation has stopped (R426, R451). -/
def execAttest (rx : RxFrame) (s : State) : Host.Outcome State Fault Refusal :=
  .next (match s.route rx 0x09 with
    | .done s => s
    | .entry s h i e =>
      match s.txnCheck rx h i (!e.smany) with
      | .done s => s
      | .ok s d =>
        if s.boot.secOp.isSome ∨ s.escalated 7 0 0 then s.refuse rx h 14 i 0
        else
          let s := s.txnTake h i (!e.smany) d
          { s with boot := { s.boot with secOp := some (.report (some (askerOf rx h)) h.payload), secRaw := s.tb.raw, secTime := s.time } })

/-! ## Requests without an answer (R351) -/

/-- TXTO in ns. -/
def State.txto (s : State) : Nat := fld (s.act R.CARR_TXCFG) 16 16 * 1000

/-- CARR_REQUEST_TIMEOUT: after TXTO µs a request is sent again, at most twice, and then fails. -/
def execCarrRequestTimeout (peer : Nat) (seq : Word) (s : State) : Host.Outcome State Fault Refusal :=
  .next (match s.findReq peer seq with
    | none => s
    | some q =>
      if (s.tb.raw - q.raw).toNat < s.txto then s
      else if q.tries < 3 then
        let s := { s with net := { s.net with requests := s.net.requests.map fun (x : Request) =>
          if x.peer == peer && x.seq == seq then { x with tries := x.tries + 1, raw := s.tb.raw } else x } }
        s.sendTo peer q.frame
      else s.reqFail q 0 0)

/-! ## The parse group (R341) -/

/-- Staged words of the Carr group. -/
def carrGroup : List Nat :=
  [R.CARR_CFG, R.CARR_TXCFG, R.CARR_PHDST, R.CARR_PHDST + 4, R.CARR_HRXBASE, R.CARR_HRXBASE + 4, R.CARR_HTXBASE, R.CARR_HTXBASE + 4,
    R.CARR_HRCFG] ++ (List.range 32).flatMap (fun i => [R.CARR_PEER i, R.CARR_PEER i + 4])

/-- Words of the parse table. -/
def parseGroup : List Nat := (List.range 128).flatMap fun i => (List.range 8).map (R.CARR_PARSE i)

/-- The shadow of entry i. -/
def State.pshadow (s : State) (i : Nat) : PEntry := PEntry.ofWords fun k => s.rd (R.CARR_PARSE i k)

/-- An ACT that a TYPE allows (R340). -/
def PEntry.actOk (e : PEntry) : Bool :=
  match e.act with
  | 0 | 3 => true
  | 1 => e.typ == 0x01
  | 2 => [0x03, 0x04, 0x08, 0x09, 0xFF].contains e.typ
  | _ => false

/-- The reserved fields of a shadow entry are zero. -/
def State.presOk (s : State) (i : Nat) : Bool :=
  let w := fun k => s.rd (R.CARR_PARSE i k)
  fld (w 0) 12 4 == 0 && fld (w 1) 28 4 == 0 && fld (w 1) 12 2 == 0 && fld (w 3) 16 15 == 0 && w 7 == 0 &&
    (fld (w 0) 24 3 != 2 || fld (w 6) 20 10 == 0)

/-- The objects of a PLACE entry lie in the grade's count. -/
def State.pobjOk (s : State) (e : PEntry) : Bool :=
  e.objstr == 0 || decide (e.objbase + (e.ctxhi - e.ctxlo) * e.objstr < 1024 * s.fuses.clusters)

/-- The first entry that breaks a condition, with the code. -/
def firstBad (code : Nat) (bad : Nat → Bool) : Option (Nat × Nat) := ((List.range 128).find? bad).map fun i => (code, i)

/-- The code and entry of a Carr commit (R341): codes in ascending order, each with the first entry at fault. -/
def State.carrCode (s : State) : Nat × Nat :=
  let place := fun i => (s.pshadow i).act == 1
  let cfg := s.rd R.CARR_HRCFG
  let et := fld (s.rd R.CARR_CFG) 16 16
  let sizeBad := fun (n : Nat) => decide (n < 4) || decide (12 < n)
  ((firstBad 1 fun i => !(s.pshadow i).actOk || !s.presOk i).getD <|
    (firstBad 2 fun i => decide ((s.pshadow i).ctxhi < (s.pshadow i).ctxlo)).getD <|
    (firstBad 3 fun i => place i && ((s.pshadow i).ioff % 128 != 0 || (s.pshadow i).hlen % 128 != 0 ||
      decide ((s.pshadow i).hlen < 32 + (s.pshadow i).maxlen) || decide (1472 < (s.pshadow i).maxlen))).getD <|
    (firstBad 4 fun i => place i && !s.pobjOk (s.pshadow i)).getD <|
    if et < 0x0600 ∨ [0x0800, 0x0806, 0x86DD, 0x8808, 0x88F7, 0x8100, 0x88A8].contains et then (5, 0)
    else if sizeBad (fld cfg 28 4) ∨ sizeBad (fld cfg 24 4) ∨ fld cfg 16 8 = 0 ∨ (s.rd64 R.CARR_HRXBASE).toNat % 32 ≠ 0 ∨
        (s.rd64 R.CARR_HTXBASE).toNat % 32 ≠ 0 then (6, 0)
    else (0, 0))

/-- A stream whose entry a commit changed is unsynchronised (R343): its own TXN stream, and the MEAS streams of its contexts and JOB. -/
def State.unsync (s : State) (i : Nat) (e : PEntry) : State :=
  { s with net := { s.net with
    txnSeq := FMap.upd s.net.txnSeq i none
    txnAns := FMap.upd s.net.txnAns i none
    measSeq := if e.act = 1 then
        s.net.measSeq.filter fun (c : Nat × Word) => !(decide (e.ctxlo ≤ c.1 / 2) && decide (c.1 / 2 ≤ e.ctxhi) && c.1 % 2 == b2n e.job)
      else s.net.measSeq } }

/-- CARR_COMMIT_PARSE: an accepted group applies to every frame parsed afterwards; a rejected one leaves the old group active. -/
def execCarrCommitParse (s : State) : Host.Outcome State Fault Refusal :=
  .next (if !s.hostWrites then s
    else
      let c := s.carrCode
      let s := s.wr R.CARR_STATUS (w32 (c.2 * 2 ^ 8 + c.1))
      if c.1 ≠ 0 then s
      else
        let changed := (List.range 128).filter fun i => (List.range 8).any fun k => s.rd (R.CARR_PARSE i k) != s.act (R.CARR_PARSE i k)
        let s := forEach changed s fun s i => (s.unsync i (s.pentry i)).unsync i (s.pshadow i)
        let rxc := s.rd64 R.CARR_HRXBASE != s.act64 R.CARR_HRXBASE || fld (s.rd R.CARR_HRCFG) 28 4 != fld (s.act R.CARR_HRCFG) 28 4
        let txc := s.rd64 R.CARR_HTXBASE != s.act64 R.CARR_HTXBASE || fld (s.rd R.CARR_HRCFG) 24 4 != fld (s.act R.CARR_HRCFG) 24 4
        let s := { s with net := { s.net with rxHead := if rxc then 0 else s.net.rxHead, txHead := if txc then 0 else s.net.txHead } }
        s.apply (carrGroup ++ parseGroup))

/-! ## Unknown types (R353) -/

/-- UNK_TYPE_FRAME: a Carr frame whose type is unknown or not received on its path. -/
def execUnkTypeFrame (rx : RxFrame) (s : State) : Host.Outcome State Fault Refusal :=
  .next (let h := Carr.parse rx.frame.body
    if carrKnown (decide (4 ≤ rx.port)) h.typ then s
    else if 4 ≤ rx.port then
      match s.mirRoute rx h.typ with
      | .done s => s
      | .ok s _ => s
    else
      match s.route rx h.typ with
      | .done s => s
      | .entry s _ _ _ => s)

end Sys2Proof.Machine
end

