-- ==== Sys2Proof/Machine/Issue.lean ====
section
/-! DEFINITION. The issue of one instruction by a core sequencer: registers, scoreboard, fetch check, traps, hardware loops and the
advance of the program counter (R115 to R127, R139 to R143, R151, R283, R484). -/

namespace Sys2Proof.Machine

open Sys2Proof

/-! ## Registers (R121) -/

/-- g[i]; g0 reads zero. -/
def Core.gr (c : Core) (i : Nat) : Word := if i = 0 then 0 else FMap.get 0 c.g i

/-- g[i] set; writes to g0 are discarded. -/
def Core.setG (c : Core) (i : Nat) (v : Word) : Core := if i = 0 then c else { c with g := FMap.set 0 c.g i v }

/-- f[i]. -/
def Core.fr (c : Core) (i : Nat) : Dword := FMap.get 0 c.f i

/-- f[i] set. -/
def Core.setF (c : Core) (i : Nat) (v : Dword) : Core := { c with f := FMap.set 0 c.f i v }

/-- f[i] set to a binary32 value: the high 32 bits are zero. -/
def Core.setS (c : Core) (i : Nat) (v : Word) : Core := c.setF i (w64 v.toNat)

/-- Lane l of v[i]. -/
def Core.lane (c : Core) (i l : Nat) : Word := FMap.get 0 c.v (16 * i + l)

/-- The 16 lanes of v[i]. -/
def Core.vr (c : Core) (i : Nat) : List Word := (List.range 16).map (c.lane i)

/-- v[i] set to 16 lanes. -/
def Core.setV (c : Core) (i : Nat) (ls : List Word) : Core :=
  { c with v := (List.range 16).foldl (fun m l => FMap.set 0 m (16 * i + l) (ls.getD l 0)) c.v }

/-- Keys of the scoreboard: g, f and v registers. -/
def kG (i : Nat) : Nat := i
def kF (i : Nat) : Nat := 32 + i
def kV (i : Nat) : Nat := 64 + i

/-! ## Scoreboard (R116, R117, R141) -/

/-- What an instruction needs of the scoreboard: source and destination registers, issue cost, result latency, a non-pipelined unit
(1 MUL, 2 DIV, 3 FDIV and FSQRT), arrays that must take a command, whether their accumulators must be complete, the exceptions it
can raise, and the operands that ETVAL may show. -/
structure Plan where
  srcs   : List Nat := []
  dsts   : List Nat := []
  cost   : Nat := 1
  lat    : Nat := 0
  unit   : Nat := 0
  amask  : Nat := 0
  accs   : Bool := false
  /-- END: its own issue is not one that its completion waits for (R120). -/
  isEnd  : Bool := false
  raises : Nat := 0
  opA    : Word := 0
  opB    : Word := 0
  deriving DecidableEq, Repr

/-- What an instruction does: its results and flags and a jump; or a trap, `delay` cycles after issue; or nothing further, because its access failed. -/
inductive Eff where
  | ok (st : State) (write : Core → Core) (flags : Nat) (jump : Option Nat)
  | trap (st : State) (delay cause : Nat) (etval : Word)
  | lost (st : State)

/-- Exceptions enabled among flags (R123): TE_NV to TE_NX lie four places above their bits, TE_OVF to TE_DOVF one. -/
def enabled (fctl : Word) (flags : Nat) : Nat :=
  Nat.land flags (fld fctl 4 5 + fld fctl 9 4 * 2 ^ 8)

/-- The lowest cause among enabled exceptions (R143, R152). -/
def causeOf (e : Nat) : Nat :=
  if e.testBit 0 then 1 else if e.testBit 1 then 2 else if e.testBit 2 then 3 else if e.testBit 3 then 4
  else if e.testBit 4 then 5 else if e.testBit 8 then 6 else if e.testBit 9 then 7 else if e.testBit 10 then 8 else 9

/-- The precise mode waits for this instruction (R141). -/
def preciseFor (rt : Bool) (c : Core) (p : Plan) : Bool := !rt && enabled c.fctl p.raises != 0

/-- The first cycle in which the scoreboard does not hold an instruction (R117, R147). -/
def boardAt (c : Core) (p : Plan) : Nat :=
  let t := (p.srcs ++ p.dsts).foldl (fun t k => max t (FMap.get 0 c.ready k)) c.now
  let t := match p.unit with
    | 1 => max t c.mulFree
    | 2 => max t c.divFree
    | 3 => max t c.fpFree
    | _ => t
  (bitsOf 8 p.amask).foldl (fun t a => max t (if p.accs then max (c.arr a).free (c.arr a).doneAt else (c.arr a).free)) t

/-- The cycle at which everything issued has completed: results, accumulators, drains and stores (R120, R141). -/
def Core.allDone (c : Core) : Nat :=
  c.arrs.foldl (fun m a => max m (max a.2.doneAt (match a.2.drain with
    | some d => d.next + 8 - d.d
    | none => 0))) (match c.merge with
    | some g => max c.doneAt (g.next + 1)
    | none => c.doneAt)

/-- The cycle in which an instruction may issue: in precise mode after every earlier one has completed (R141). -/
def issueAt (rt : Bool) (c : Core) (p : Plan) : Nat :=
  if preciseFor rt c p then max (boardAt c p) c.allDone else boardAt c p

/-- Core n up to the cycle in which an instruction may issue, which holds of its arrays move later (R117, R251), and that cycle. -/
def State.await (rt : Bool) (n : Nat) (p : Plan) : Nat → State → State × Nat
  | 0, s => (s, issueAt rt (s.core n) p)
  | k + 1, s =>
    let t := issueAt rt (s.core n) p
    let s := s.coreTo n t
    if issueAt rt (s.core n) p ≤ t then (s, t) else State.await rt n p k s

/-! ## Loops and the program counter (R151) -/

/-- The next index after a body instruction, and the loops still running. -/
def loopNext : List HwLoop → Nat → Nat × List HwLoop
  | [], pc => (pc + 1, [])
  | l :: ls, pc =>
    if pc = l.last then
      if l.left > 1 then (l.first, { l with left := l.left - 1 } :: ls) else loopNext ls pc
    else (pc + 1, l :: ls)

/-- The core after an instruction issued at t: its index recorded, the next index, and the issue clock. -/
def Core.advance (c : Core) (t cost : Nat) (jump : Option Nat) : Core :=
  let nx := match jump with
    | some j => (j % 2 ^ 14, c.loops)
    | none => loopNext c.loops c.pc
  { c with last := c.pc, pc := nx.1 % 2 ^ 14, loops := nx.2, now := t + cost }

/-- The command has come to its next tile: nothing more of this one issues (R96). -/
def Core.tileStop (c : Core) : Core :=
  if !c.ended && c.tileAt == some c.pc then { c with ended := true, tileEnd := true } else c

/-! ## Traps and failures (R14, R127, R140, R143) -/

/-- Flags due by cycle t merged (R124, R170). -/
def Core.flush (c : Core) (t : Nat) : Core :=
  let due := c.late.filter fun x => decide (x.1 ≤ t)
  { c with
    xflags := w32 (due.foldl (fun a x => Nat.lor a x.2.1) c.xflags.toNat)
    tflags := w32 (due.foldl (fun a x => Nat.lor a x.2.2) c.tflags.toNat)
    late := c.late.filter fun x => decide (t < x.1) }

/-- Every flag still to be set is merged, and every AMM in progress has completed. -/
def Core.settled (c : Core) : Core :=
  let c := c.flush (c.late.foldl (fun m x => max m x.1) 0)
  { c with arrs := (c.arrs.map fun a => (a.1, arrSettle a.2)).filter fun a => a.2 != Arr.reset }

/-- An instruction traps (R143), issued at t: every earlier one completes; the sequencer goes on at TVEC, or the command halts. -/
def State.trap (s : State) (n t cause : Nat) (etval : Word) : State :=
  let s := s.modCore n fun c => { c with epc := w32 c.pc, ecause := w32 cause, etval := etval }
  let c := s.core n
  if c.tvec ≠ 0 ∧ !c.inTrap then
    s.setCore n { c with pc := fld c.tvec 0 14, now := t + 4, inTrap := true }
  else
    let s := (s.coreFlush n).timed n t
    let c := s.core n
    let h : Halted := { jclass := c.jclass, cause := cause, epc := c.pc, etval := etval }
    let s := (s.setCore n { c.settled with halted := c.halted ++ [h] }).stopSeq n
    s.event 0x0402 (w32 (n + c.jclass * 2 ^ 8 + cause * 2 ^ 16)) c.ctx

/-- An access that is not made: a teardown with cause 0x04, or the trap 0x0B or 0x0C with the address (R14, R126). -/
def State.deniedAt (s : State) (n : Nat) (d : Denied) (a : Word) : Eff :=
  if s.coreRt n then .lost (s.coreTeardown n 4 false)
  else .trap s 0 (if d = .misaligned then 0x0B else 0x0C) a

/-- An unmapped object (R149): as an unmapped access. -/
def State.unmappedAt (s : State) (n : Nat) (a : Word) : Eff := s.deniedAt n .unmapped a

/-- A reserved encoding (R127): a 1-cycle NOP with ILL in a real-time partition, else the trap 0x0A. -/
def State.reservedOp (s : State) (n t : Nat) (w : Word) : State :=
  let s := s.timed n t
  if s.coreRt n then
    (s.bump (R.COR_ILL n)).modCore n fun c =>
      Core.tileStop { c.advance t 1 none with late := c.late ++ [(t + 1, fILL, 0)], doneAt := max c.doneAt (t + 1) }
  else s.trap n t 0x0A w

/-! ## Issue -/

/-- The sequencer can issue: the device runs, a command runs on the core, it has not issued END and no WAIT holds it. -/
def State.canIssue (s : State) (n : Nat) : Bool :=
  s.running && decide (n < s.nCores) && (s.core n).run && !(s.core n).ended && (s.core n).waitOn.isNone

/-- What the fetch of the next instruction gives (R115, R283). -/
inductive Fetch where
  | ok (st : State) | stop (st : State)

/-- The fetch checked: inside the code handle, and its word correctable. -/
def State.fetch (s : State) (n : Nat) : Fetch :=
  let c := s.core n
  let a := c.code.1 + 4 * c.pc
  let t := c.now
  let s := (s.coreTo n t).timed n t
  if c.code.2 < 4 * c.pc + 4 then
    .stop (if s.coreRt n then s.coreTeardown n 4 false else s.trap n t 0x0C (w32 a))
  else
    let wa := a / 8 * 8
    if c.fetched = wa then .ok s
    else
      match s.reach n wa 8 with
      | none => .stop (if s.coreRt n then s.coreTeardown n 4 false else s.trap n t 0x0C (w32 a))
      | some p =>
        let r := s.readWord p wa 0 c.ctx
        let s := r.st.modCore n fun c => { c with fetched := if r.bad then 1 else wa }
        if r.bad then
          .stop (if s.coreRt n then s.coreTeardown n 2 true else s.trap n t 0x0D (w32 wa))
        else .ok s

/-- A branch target outside the innermost running loop's body, wherever the branch stands (R151). -/
def Core.leavesLoop (c : Core) (target : Nat) : Bool :=
  match c.loops with
  | l :: _ => !decide (l.first ≤ target ∧ target ≤ l.last)
  | [] => false

/-- The exceptions that an instruction takes as a trap: enabled ones among those it raised (R140, R141; with its trap enabled UF is raised
by a tiny result, R135). -/
def takes (rt : Bool) (c : Core) (p : Plan) (flags : Nat) : Nat :=
  if rt then 0 else Nat.land p.raises (enabled c.fctl (Nat.lor flags (if flags.testBit 16 then fUF else 0)))

/-- The core after an instruction issued at t has its effect: registers written, flags due, the scoreboard and the next index (R116,
R117, R124). -/
def Core.retire (c : Core) (rt : Bool) (c0 : Core) (p : Plan) (t : Nat) (write : Core → Core) (flags : Nat) (jump : Option Nat) : Core :=
  let fin := t + max 1 (max p.cost p.lat)
  let c := (write c).advance t p.cost jump
  let fl := Nat.land flags 0x3F1F
  { c with
    ready := p.dsts.foldl (fun m k => if k = 0 then m else FMap.set 0 m k (t + p.lat)) c.ready
    mulFree := if p.unit = 1 then t + p.lat else c.mulFree
    divFree := if p.unit = 2 then t + p.lat else c.divFree
    fpFree := if p.unit = 3 then t + p.lat else c.fpFree
    late := if fl = 0 then c.late else c.late ++ [(t + max 1 p.lat, fl, 0)]
    doneAt := if p.isEnd then c.doneAt else max c.doneAt fin
    now := if preciseFor rt c0 p then max c.now fin else c.now }

/-- What an instruction's effect makes of the state: a trap, an access that failed, or its results; `c0` is the core at issue. -/
def State.finish (n : Nat) (c0 : Core) (rt : Bool) (p : Plan) (t : Nat) : Eff → State
  | .lost s => if (s.core n).run then s.modCore n fun c => (c.advance t p.cost none).tileStop else s
  | .trap s dt cause v => s.trap n (t + dt) cause v
  | .ok s write flags jump =>
    let e := takes rt c0 p flags
    if e ≠ 0 then s.trap n t (causeOf e) (if causeOf e = 7 then p.opB else p.opA)
    else if !(s.core n).run then s
    else s.modCore n fun c => (c.retire rt c0 p t write flags jump).tileStop

/-- The instruction at the program counter has issued in cycle t (R153). -/
def State.issued (s : State) (n t : Nat) : State :=
  ((s.timed n t).bump (R.COR_ISSUE n)).modCore n fun c => { c with last := c.pc, issAt := t }

/-- The issue in cycle t counted, with the cycles for which the scoreboard held it, until `board` (R117, R153). -/
def State.counted (s : State) (n board t : Nat) : State := (s.issued n t).addSat (R.COR_STALLC n) (board - (s.core n).now)

/-- One instruction word issued on core n: `plan` gives its needs, `bad` a reserved form that only the state shows, and `body` its
effect at its issue cycle. -/
def State.issueWord (s : State) (n : Nat) (w : Word) (plan : Core → Plan) (bad : Core → Bool) (body : State → Core → Nat → Eff) :
    State :=
  if !s.canIssue n then s
  else
    match s.fetch n with
    | .stop s => s.timedAt none
    | .ok s =>
      let c := s.core n
      if !c.run then s.timedAt none
      else if Isa.reserved w || bad c then ((s.issued n c.now).reservedOp n c.now w).timedAt none
      else
        let p := plan c
        let rt := s.coreRt n
        let st := State.await rt n p (c.work + 1) s
        let c := st.1.core n
        if !c.run then st.1.timedAt none
        else (State.finish n c rt p st.2 (body (st.1.counted n (boardAt c p) st.2) c st.2)).timedAt none

/-- An instruction of the command set: its opcode and fields. -/
def State.issue (s : State) (n op : Nat) (f : IsaFields) (plan : Core → Word → Plan) (body : State → Core → Word → Nat → Eff) : State :=
  let w := isaWord op f
  s.issueWord n w (fun c => plan c w) (fun _ => false) (fun s c t => body s c w t)

/-- An instruction that only computes registers and flags. -/
def State.compute (s : State) (n op : Nat) (f : IsaFields) (plan : Core → Word → Plan) (res : Core → Word → (Core → Core) × Nat) : State :=
  s.issue n op f plan fun s c w _ => .ok s (res c w).1 (res c w).2 none

end Sys2Proof.Machine
end

