-- ==== Sys2Proof/Machine/CoreInt.lean ====
section
/-! DEFINITION. The integer and packed-decimal instructions of a core (R128 to R134). -/

namespace Sys2Proof.Machine

open Sys2Proof

/-! ## Results -/

/-- A Boolean as a word. -/
def bw (b : Bool) : Word := if b then 1 else 0

/-- The ALU operation func of two operands (R128, R130). -/
def aluOp (func : Nat) (a b : Word) : Word :=
  match func with
  | 0 => a + b
  | 1 => a - b
  | 2 => a &&& b
  | 3 => a ||| b
  | 4 => a ^^^ b
  | 5 => a <<< (b.toNat % 32)
  | 6 => a >>> (b.toNat % 32)
  | 7 => a.sshiftRight (b.toNat % 32)
  | 8 => bw (a.slt b)
  | 9 => bw (a.ult b)
  | 10 => if a.slt b then a else b
  | 11 => if a.slt b then b else a
  | 12 => if a.ult b then a else b
  | _ => if a.ult b then b else a

/-- SHI: the direction in imm[14:13], the amount in imm[4:0] (R128). -/
def shiOp (w a : Word) : Word := aluOp (5 + fld w 13 2) a (w32 (fld w 0 5))

/-- The sign-extended immediate as a word. -/
def immW (w : Word) : Word := BitVec.ofInt 32 (Isa.imm w)

/-- MUL: 0 low word, 1 high signed, 2 high unsigned, 3 high signed by unsigned (R128). -/
def mulOp (func : Nat) (a b : Word) : Word :=
  match func with
  | 0 => a * b
  | 1 => BitVec.ofInt 32 (a.toInt * b.toInt / 2 ^ 32)
  | 2 => w32 (a.toNat * b.toNat / 2 ^ 32)
  | _ => BitVec.ofInt 32 (a.toInt * (b.toNat : Int) / 2 ^ 32)

/-- Cycles of a MUL form by the operand rs2 (R131): 4 with FIXLAT, else the smallest n such that it fits in 8n bits. -/
def mulCycles (fix : Bool) (func : Nat) (b : Word) : Nat :=
  if fix then 4
  else if func ≤ 1 then
    if -128 ≤ b.toInt ∧ b.toInt < 128 then 1 else if -32768 ≤ b.toInt ∧ b.toInt < 32768 then 2
    else if -8388608 ≤ b.toInt ∧ b.toInt < 8388608 then 3 else 4
  else if b.toNat < 2 ^ 8 then 1 else if b.toNat < 2 ^ 16 then 2 else if b.toNat < 2 ^ 24 then 3 else 4

/-- DIV: 0 signed quotient, 1 unsigned quotient, 2 signed remainder, 3 unsigned remainder, with the special cases and flags of R132. -/
def divOp (func : Nat) (a b : Word) : Word × Nat :=
  if b = 0 then (if func ≤ 1 then 0xFFFFFFFF else a, fDZ)
  else
    match func with
    | 0 => if a = 0x80000000 ∧ b = 0xFFFFFFFF then (a, fOVF) else (BitVec.ofInt 32 (Int.tdiv a.toInt b.toInt), 0)
    | 1 => (w32 (a.toNat / b.toNat), 0)
    | 2 => (BitVec.ofInt 32 (Int.tmod a.toInt b.toInt), 0)
    | _ => (w32 (a.toNat % b.toNat), 0)

/-- An even-odd register pair (R133). -/
def Core.pair (c : Core) (i : Nat) : Dword := join64 (c.gr i) (c.gr (i + 1))

/-- A pair written. -/
def Core.setPair (c : Core) (i : Nat) (v : Dword) : Core := (c.setG i (lo32 v)).setG (i + 1) (hi32 v)

/-! ## Forms -/

/-- The scoreboard needs of a register-register form of cost 1 and latency L. -/
def planRR (lat : Nat) (_ : Core) (w : Word) : Plan :=
  { srcs := [kG (Isa.rs1 w), kG (Isa.rs2 w)], dsts := [kG (Isa.rd w)], lat := lat }

/-- The scoreboard needs of a register-immediate form. -/
def planRI (_ : Core) (w : Word) : Plan := { srcs := [kG (Isa.rs1 w)], dsts := [kG (Isa.rd w)], lat := 1 }

/-- A register-immediate instruction computing `op g[rs1] imm`. -/
def State.immOp (s : State) (n opc : Nat) (f : IsaFields) (op : Word → Word → Word) : State :=
  s.compute n opc f planRI fun c w => ((fun c' => c'.setG (Isa.rd w) (op (c.gr (Isa.rs1 w)) (immW w))), 0)

/-! ## Meanings -/

/-- ALU. -/
def execAlu (core : Nat) (f : IsaFields) (s : State) : Host.Outcome State Fault Refusal :=
  .next (s.compute core 0x01 f (planRR 1) fun c w =>
    ((fun c' => c'.setG (Isa.rd w) (aluOp (fld w 0 4) (c.gr (Isa.rs1 w)) (c.gr (Isa.rs2 w)))), 0))

/-- ADDI. -/
def execAddi (core : Nat) (f : IsaFields) (s : State) : Host.Outcome State Fault Refusal :=
  .next (s.immOp core 0x02 f fun a b => a + b)

/-- ANDI. -/
def execAndi (core : Nat) (f : IsaFields) (s : State) : Host.Outcome State Fault Refusal :=
  .next (s.immOp core 0x03 f fun a b => a &&& b)

/-- ORI. -/
def execOri (core : Nat) (f : IsaFields) (s : State) : Host.Outcome State Fault Refusal :=
  .next (s.immOp core 0x04 f fun a b => a ||| b)

/-- XORI. -/
def execXori (core : Nat) (f : IsaFields) (s : State) : Host.Outcome State Fault Refusal :=
  .next (s.immOp core 0x05 f fun a b => a ^^^ b)

/-- SHI. -/
def execShi (core : Nat) (f : IsaFields) (s : State) : Host.Outcome State Fault Refusal :=
  .next (s.compute core 0x06 f planRI fun c w => ((fun c' => c'.setG (Isa.rd w) (shiOp w (c.gr (Isa.rs1 w)))), 0))

/-- SLTI: signed (R130). -/
def execSlti (core : Nat) (f : IsaFields) (s : State) : Host.Outcome State Fault Refusal :=
  .next (s.immOp core 0x07 f fun a b => bw (a.slt b))

/-- SLTIU: unsigned, against the sign-extended immediate. -/
def execSltiu (core : Nat) (f : IsaFields) (s : State) : Host.Outcome State Fault Refusal :=
  .next (s.immOp core 0x08 f fun a b => bw (a.ult b))

/-- LIH: g[rd] = imm × 2^12. -/
def execLih (core : Nat) (f : IsaFields) (s : State) : Host.Outcome State Fault Refusal :=
  .next (s.compute core 0x09 f (fun _ w => { dsts := [kG (Isa.rd w)], lat := 1 }) fun _ w =>
    ((fun c' => c'.setG (Isa.rd w) (w32 (fld w 0 20 * 2 ^ 12))), 0))

/-- CSEL. -/
def execCsel (core : Nat) (f : IsaFields) (s : State) : Host.Outcome State Fault Refusal :=
  .next (s.compute core 0x0A f
    (fun c w => { planRR 1 c w with srcs := [kG (Isa.rs1 w), kG (Isa.rs2 w), kG (Isa.r3 w)] }) fun c w =>
    ((fun c' => c'.setG (Isa.rd w) (if c.gr (Isa.r3 w) ≠ 0 then c.gr (Isa.rs1 w) else c.gr (Isa.rs2 w))), 0))

/-- MUL (R131): in a real-time partition FIXLAT reads 1. -/
def execMul (core : Nat) (f : IsaFields) (s : State) : Host.Outcome State Fault Refusal :=
  let rt := s.coreRt core
  .next (s.compute core 0x0B f
    (fun c w => { planRR (mulCycles (rt || c.fctl.getLsbD 16) (fld w 0 2) (c.gr (Isa.rs2 w))) c w with unit := 1 }) fun c w =>
    ((fun c' => c'.setG (Isa.rd w) (mulOp (fld w 0 2) (c.gr (Isa.rs1 w)) (c.gr (Isa.rs2 w)))), 0))

/-- DIV (R132). -/
def execDiv (core : Nat) (f : IsaFields) (s : State) : Host.Outcome State Fault Refusal :=
  .next (s.compute core 0x0C f
    (fun c w => { planRR 18 c w with
      unit := 2, raises := if fld w 0 2 = 0 then fDZ + fOVF else fDZ, opA := c.gr (Isa.rs1 w), opB := c.gr (Isa.rs2 w) }) fun c w =>
    let r := divOp (fld w 0 2) (c.gr (Isa.rs1 w)) (c.gr (Isa.rs2 w))
    ((fun c' => c'.setG (Isa.rd w) r.1), r.2))

/-- DEC: DADD and DSUB on register pairs (R133, R134). -/
def execDec (core : Nat) (f : IsaFields) (s : State) : Host.Outcome State Fault Refusal :=
  .next (s.compute core 0x0D f
    (fun c w =>
      { srcs := [kG (Isa.rs1 w), kG (Isa.rs1 w + 1), kG (Isa.rs2 w), kG (Isa.rs2 w + 1)]
        dsts := [kG (Isa.rd w), kG (Isa.rd w + 1)], lat := 3, raises := fDIGIT + fDOVF, opA := c.gr (Isa.rs1 w) }) fun c w =>
    let r := decOp (w.getLsbD 0) (c.pair (Isa.rs1 w)) (c.pair (Isa.rs2 w))
    ((fun c' => c'.setPair (Isa.rd w) r.1), r.2))

end Sys2Proof.Machine
end

