-- ==== Sys2Proof/Machine/CoreFloat.lean ====
section
/-! DEFINITION. The scalar floating-point instructions of a core (R128, R135 to R138). -/

namespace Sys2Proof.Machine

open Sys2Proof

/-- The format of a fmt bit. -/
def fmtOf (b : Nat) : Fmt := if b = 0 then b32 else b64

/-- An operand of a format: a binary32 operand ignores the high 32 bits (R121). -/
def Core.fop (c : Core) (fmt i : Nat) : Nat := if fmt = 0 then (lo32 (c.fr i)).toNat else (c.fr i).toNat

/-- The rounding direction: 5 takes FCTL.RM (R125). -/
def Core.rm (c : Core) (rm : Nat) : Nat := if rm = 5 then fld c.fctl 0 3 else rm

/-- The exceptions that FADD, FSUB, FMUL and the fused multiply-adds can raise (R135, R141). -/
def fpRaises : Nat := fNV + fOF + fUF + fNX

/-- The exceptions that FOP can raise, by its selector: FDIV also FDZ, FSQRT only NV and NX, FMIN and FMAX NV, the sign operations none. -/
def fopRaises (sel : Nat) : Nat :=
  if sel ≤ 2 then fpRaises else if sel = 3 then fpRaises + fFDZ else if sel = 4 then fNV + fNX else if sel ≤ 6 then fNV else 0

/-- The exceptions that FCVT can raise, by its selector (R135, R137): the widening conversions are exact, and integers neither overflow a
binary format nor are tiny in one. -/
def fcvtRaises (sel : Nat) : Nat :=
  match sel with
  | 0 => fpRaises
  | 1 => fNV
  | 2 | 3 => fNX
  | 4 | 5 => 0
  | _ => fNV + fNX

/-- A result in f[rd]. -/
def putF (w : Word) (r : FRes) : (Core → Core) × Nat := ((fun c => c.setF (Isa.rd w) (w64 r.bits)), r.flags)

/-- A result in g[rd]. -/
def putI (w : Word) (r : FRes) : (Core → Core) × Nat := ((fun c => c.setG (Isa.rd w) (w32 r.bits)), r.flags)

/-- The sign operations (R128): 7 CP, 8 INV, 9 XOR. -/
def fsign (fm : Fmt) (sel x y : Nat) : Nat :=
  let sx := x / fm.sgn % 2
  let sy := y / fm.sgn % 2
  let sg := match sel with
    | 7 => sy
    | 8 => 1 - sy
    | _ => (sx + sy) % 2
  x % fm.sgn + sg * fm.sgn

/-- FOP by its selector (R128). -/
def fopRes (fm : Fmt) (sel rm x y : Nat) : FRes :=
  match sel with
  | 0 => fm.add rm false x y
  | 1 => fm.add rm true x y
  | 2 => fm.mul rm x y
  | 3 => fm.div rm x y
  | 4 => fm.sqrt rm x
  | 5 => fm.minmax false x y
  | 6 => fm.minmax true x y
  | _ => ⟨fsign fm sel x y, 0⟩

/-- Result latency of FOP (R128). -/
def fopLat (sel fmt : Nat) : Nat :=
  if sel ≤ 2 then 3 else if sel ≤ 4 then (if fmt = 0 then 12 else 20) else 1

/-- FOP. -/
def execFop (core : Nat) (f : IsaFields) (s : State) : Host.Outcome State Fault Refusal :=
  .next (s.compute core 0x30 f
    (fun c w =>
      { srcs := if Isa.sel w = 4 then [kF (Isa.rs1 w)] else [kF (Isa.rs1 w), kF (Isa.rs2 w)]
        dsts := [kF (Isa.rd w)], lat := fopLat (Isa.sel w) (Isa.fmtR w)
        unit := if Isa.sel w = 3 ∨ Isa.sel w = 4 then 3 else 0
        raises := fopRaises (Isa.sel w), opA := lo32 (c.fr (Isa.rs1 w)) }) fun c w =>
    putF w (fopRes (fmtOf (Isa.fmtR w)) (Isa.sel w) (c.rm (Isa.rmR w)) (c.fop (Isa.fmtR w) (Isa.rs1 w)) (c.fop (Isa.fmtR w) (Isa.rs2 w))))

/-- A fused multiply-add with the product's and the addend's sign inverted by `np` and `nc` (R128). -/
def State.fmaOp (s : State) (n op : Nat) (f : IsaFields) (np nc : Bool) : State :=
  s.compute n op f
    (fun c w =>
      { srcs := [kF (Isa.rs1 w), kF (Isa.rs2 w), kF (Isa.r3 w)], dsts := [kF (Isa.rd w)], lat := 4, raises := fpRaises
        opA := lo32 (c.fr (Isa.rs1 w)) }) fun c w =>
    let m := Isa.fmt4 w
    putF w ((fmtOf m).fma (c.rm (Isa.rm4 w)) np nc (c.fop m (Isa.rs1 w)) (c.fop m (Isa.rs2 w)) (c.fop m (Isa.r3 w)))

/-- FMADD: (a × b) + c. -/
def execFmadd (core : Nat) (f : IsaFields) (s : State) : Host.Outcome State Fault Refusal := .next (s.fmaOp core 0x31 f false false)

/-- FMSUB: (a × b) − c. -/
def execFmsub (core : Nat) (f : IsaFields) (s : State) : Host.Outcome State Fault Refusal := .next (s.fmaOp core 0x32 f false true)

/-- FNMADD: −(a × b) − c. -/
def execFnmadd (core : Nat) (f : IsaFields) (s : State) : Host.Outcome State Fault Refusal := .next (s.fmaOp core 0x33 f true true)

/-- FNMSUB: −(a × b) + c. -/
def execFnmsub (core : Nat) (f : IsaFields) (s : State) : Host.Outcome State Fault Refusal := .next (s.fmaOp core 0x34 f true false)

/-- FCMP into g[rd] (R138). -/
def execFcmp (core : Nat) (f : IsaFields) (s : State) : Host.Outcome State Fault Refusal :=
  .next (s.compute core 0x35 f
    (fun c w =>
      { srcs := [kF (Isa.rs1 w), kF (Isa.rs2 w)], dsts := [kG (Isa.rd w)], lat := 1, raises := fNV
        opA := lo32 (c.fr (Isa.rs1 w)) }) fun c w =>
    putI w ((fmtOf (Isa.fmtR w)).compare (Isa.sel w) (c.fop (Isa.fmtR w) (Isa.rs1 w)) (c.fop (Isa.fmtR w) (Isa.rs2 w))))

/-- FCVT by its selector (R128, R137): whether the result is a general register, and the result. -/
def fcvtRes (sel rm : Nat) (g : Word) (x : Dword) : Bool × FRes :=
  let xs := (lo32 x).toNat
  match sel with
  | 0 => (false, b64.convert b32 rm x.toNat)
  | 1 => (false, b32.convert b64 rm xs)
  | 2 => (false, b32.ofInt rm g.toInt)
  | 3 => (false, b32.ofInt rm g.toNat)
  | 4 => (false, b64.ofInt rm g.toInt)
  | 5 => (false, b64.ofInt rm g.toNat)
  | 6 => (true, b32.toW rm xs)
  | 7 => (true, b32.toWU rm xs)
  | 8 => (true, b64.toW rm x.toNat)
  | _ => (true, b64.toWU rm x.toNat)

/-- FCVT. -/
def execFcvt (core : Nat) (f : IsaFields) (s : State) : Host.Outcome State Fault Refusal :=
  .next (s.compute core 0x36 f
    (fun c w =>
      let fromI := decide (2 ≤ Isa.sel w ∧ Isa.sel w ≤ 5)
      let toI := decide (6 ≤ Isa.sel w)
      { srcs := [if fromI then kG (Isa.rs1 w) else kF (Isa.rs1 w)], dsts := [if toI then kG (Isa.rd w) else kF (Isa.rd w)], lat := 2
        raises := fcvtRaises (Isa.sel w), opA := if fromI then c.gr (Isa.rs1 w) else lo32 (c.fr (Isa.rs1 w)) }) fun c w =>
    let r := fcvtRes (Isa.sel w) (c.rm (Isa.rmR w)) (c.gr (Isa.rs1 w)) (c.fr (Isa.rs1 w))
    if r.1 then putI w r.2 else putF w r.2)

/-- FMV and FCLS (R128, R138): no flag. -/
def execFmv (core : Nat) (f : IsaFields) (s : State) : Host.Outcome State Fault Refusal :=
  .next (s.compute core 0x37 f
    (fun _ w =>
      let fromG := decide (Isa.sel w = 1 ∨ Isa.sel w = 3)
      { srcs := (if fromG then [kG (Isa.rs1 w)] else [kF (Isa.rs1 w)]) ++ (if Isa.sel w = 3 then [kF (Isa.rd w)] else [])
        dsts := [if fromG then kF (Isa.rd w) else kG (Isa.rd w)], lat := 1 }) fun c w =>
    let g := c.gr (Isa.rs1 w)
    let x := c.fr (Isa.rs1 w)
    let rd := Isa.rd w
    match Isa.sel w with
    | 0 => ((fun c' => c'.setG rd (lo32 x)), 0)
    | 1 => ((fun c' => c'.setS rd g), 0)
    | 2 => ((fun c' => c'.setG rd (hi32 x)), 0)
    | 3 => ((fun c' => c'.setF rd (join64 (lo32 (c.fr rd)) g)), 0)
    | 4 => ((fun c' => c'.setG rd (w32 (b32.classify (lo32 x).toNat))), 0)
    | _ => ((fun c' => c'.setG rd (w32 (b64.classify x.toNat))), 0))

/-- FSEL. -/
def execFsel (core : Nat) (f : IsaFields) (s : State) : Host.Outcome State Fault Refusal :=
  .next (s.compute core 0x38 f
    (fun _ w => { srcs := [kF (Isa.rs1 w), kF (Isa.rs2 w), kG (Isa.r3 w)], dsts := [kF (Isa.rd w)], lat := 1 }) fun c w =>
    ((fun c' => c'.setF (Isa.rd w) (if c.gr (Isa.r3 w) ≠ 0 then c.fr (Isa.rs1 w) else c.fr (Isa.rs2 w))), 0))

end Sys2Proof.Machine
end

