-- ==== Sys2Proof/Machine/CoreRow.lean ====
section
/-! DEFINITION. The row unit of a core: lanewise operations, the quantising conversion with its calibration counts, reductions and
random lanes (R128, R144, R145, R189 to R196, R201, R202). -/

namespace Sys2Proof.Machine

open Sys2Proof

/-! ## Loads and stores (R144) -/

/-- The address of VLD and VST: g[rs1] + imm × 64. -/
def rowAddr (c : Core) (w : Word) : Word := c.gr (Isa.rs1 w) + BitVec.ofInt 32 (64 * Isa.imm10 w)

/-- VLD. -/
def execVld (core : Nat) (f : IsaFields) (s : State) : Host.Outcome State Fault Refusal :=
  .next (s.issue core 0x40 f (fun _ w => { srcs := [kG (Isa.rs1 w)], dsts := [kV (Isa.vd w)], lat := 3 }) fun s c w t =>
    let a := rowAddr c w
    match s.wide core a.toNat with
    | .error d => s.deniedAt core d a
    | .ok _ =>
      let r := s.readLanes core t a.toNat
      .ok (if r.2.2 then r.1.seqUe core else r.1) (fun c' => c'.setV (Isa.vd w) r.2.1) 0 none)

/-- VST. -/
def execVst (core : Nat) (f : IsaFields) (s : State) : Host.Outcome State Fault Refusal :=
  .next (s.issue core 0x41 f (fun _ w => { srcs := [kG (Isa.rs1 w), kV (Isa.vd w)] }) fun s c w t =>
    let a := rowAddr c w
    match s.wide core a.toNat with
    | .error d => s.deniedAt core d a
    | .ok _ => 
      let s := s.storeLanes core t a.toNat (pairUp (c.vr (Isa.vd w)))
      .ok s id 0 none)

/-! ## Lanewise operations (R145) -/

/-- The bits of 1.0. -/
def oneS : Nat := 0x3F800000

/-- One lane of VOP by its selector. -/
def vopLane (sel x y : Nat) : FRes :=
  match sel with
  | 0 => b32.add 0 false x y
  | 1 => b32.add 0 true x y
  | 2 => b32.mul 0 x y
  | 3 => b32.minmax false x y
  | 4 => b32.minmax true x y
  | 5 => ⟨x % 2 ^ 31, 0⟩
  | 6 => ⟨Nat.xor x (2 ^ 31), 0⟩
  | 7 => b32.minmax true x 0
  | 8 =>
    let v := b32.decode x
    if v.isNaN then ⟨0, if v.isSNaN then fNV else 0⟩
    else ⟨if v.cmp (.fin false 0 0) == .gt then oneS else 0, 0⟩
  | 9 => b32.ofInt 0 (signed 32 x)
  | _ => b32.toW 0 x

/-- Sixteen lane results: the words, and their flags ORed (R144). -/
def lanesOf (rs : List FRes) : List Word × Nat := (rs.map fun r => w32 r.bits, rs.foldl (fun f r => Nat.lor f r.flags) 0)

/-- VOP: selectors 0 to 10 lanewise, 11 VBC. The V format of R125 gives fs at [19:15] and at [14:10]; VBC reads the latter, as VRED and VRAND
must, whose va and rs1 take the former (DESIGN CHOICE, log entry 99). -/
def execVop (core : Nat) (f : IsaFields) (s : State) : Host.Outcome State Fault Refusal :=
  .next (s.compute core 0x42 f
    (fun _ w =>
      { srcs := if Isa.sel w = 11 then [kF (Isa.rs2 w)]
          else if Isa.sel w ≤ 4 then [kV (Isa.va w), kV (Isa.vb w)] else [kV (Isa.va w)]
        dsts := [kV (Isa.vd w)], lat := 4 }) fun c w =>
    let r :=
      if Isa.sel w = 11 then (List.replicate 16 (lo32 (c.fr (Isa.rs2 w))), 0)
      else lanesOf ((List.range 16).map fun l =>
        vopLane (Isa.sel w) (c.lane (Isa.va w) l).toNat (c.lane (Isa.vb w) l).toNat)
    ((fun c' => c'.setV (Isa.vd w) r.1), r.2))

/-! ## VQ8 (R189 to R192) -/

/-- One lane of VQ8: its code, whether it is clipped, and NV (R191). -/
def vq8Lane (n4 sgn : Bool) (z : Nat) (x r : Nat) : Int × Bool × Bool :=
  let p := (b32.mul 0 x r).bits
  let lo : Int := if sgn then (if n4 then -7 else -127) else 0
  let hi : Int := if n4 then (if sgn then 7 else 15) else if sgn then 127 else 255
  let zz : Int := if sgn then 0 else z
  match b32.decode p with
  | .nan .. => (zz, true, true)
  | .inf neg => (if neg then lo else hi, true, false)
  | .fin neg m e =>
    let v := (roundInteger 0 neg m e).1 + zz
    (if v < lo then lo else if hi < v then hi else v, decide (v < lo ∨ hi < v), false)

/-- The parameters of VQ8 in a row (R190): SGN, Z for the output format. -/
def vq8Sgn (c : Core) (w : Word) : Bool := (c.lane (Isa.vb w) 1).getLsbD 31
def vq8Zero (c : Core) (w : Word) : Nat := fld (c.lane (Isa.vb w) 1) 0 (if w.getLsbD 8 then 4 else 8)

/-- The sixteen lanes of VQ8. -/
def vq8Lanes (c : Core) (w : Word) : List (Int × Bool × Bool) :=
  (List.range 16).map fun l =>
    vq8Lane (w.getLsbD 8) (vq8Sgn c w) (vq8Zero c w) (c.lane (Isa.va w) l).toNat (c.lane (Isa.vb w) 0).toNat

/-- The lanes of vd after VQ8 (R192): code l goes to byte 16 P + l, or to its nibble H. -/
def vq8Put (c : Core) (w : Word) : List Word :=
  let p := Isa.func w / 64 % 4
  let h := if w.getLsbD 9 then 4 else 0
  (vq8Lanes c w).zipIdx.foldl (fun ls x =>
    let b := 16 * p + x.2
    let n := if w.getLsbD 8 then 4 else 8
    ls.set (b / 4) (putFld (ls.getD (b / 4) 0) (b % 4 * 8 + (if w.getLsbD 8 then h else 0)) n (unsign n x.1.1))) (c.vr (Isa.vd w))

/-- Lanes seen for calibration entry e of cluster m in this cycle, in which those of all cores are summed (R193). -/
def State.calCount (s : State) (m e tot clip : Nat) : State :=
  if !(s.act (R.CLU_CALCFG m e)).getLsbD 31 then s
  else
    let k := m * 32 + e
    let x := FMap.get (0, 0) s.cyc.cal.counts k
    { s with cyc := { s.cyc with cal := { s.cyc.cal with counts := FMap.set (0, 0) s.cyc.cal.counts k (x.1 + tot, x.2 + clip) } } }

/-- What one VQ8 of core n counts (R193). -/
def State.vq8Count (s : State) (n : Nat) (c : Core) (w : Word) : State :=
  let l2 := c.lane (Isa.vb w) 2
  if l2.getLsbD 31 then s
  else
    let mask := c.lane (Isa.vb w) 3
    let ls := (vq8Lanes c w).zipIdx.filter fun x => mask.getLsbD x.2
    if ls.isEmpty then s
    else s.calCount (n / 8) (fld l2 0 5) ls.length (ls.filter fun x => x.1.2.1).length

/-- VQ8. -/
def execVq8 (core : Nat) (f : IsaFields) (s : State) : Host.Outcome State Fault Refusal :=
  .next (s.issue core 0x42 f
    (fun _ w => { srcs := [kV (Isa.va w), kV (Isa.vb w), kV (Isa.vd w)], dsts := [kV (Isa.vd w)], lat := 4 }) fun s c w _ =>
    .ok (s.vq8Count core c w) (fun c' => c'.setV (Isa.vd w) (vq8Put c w))
      (if (vq8Lanes c w).any fun x => x.2.2 then fNV else 0) none)

/-! ## VFMA, VRED (R128, R145) -/

/-- VFMA. -/
def execVfma (core : Nat) (f : IsaFields) (s : State) : Host.Outcome State Fault Refusal :=
  .next (s.compute core 0x43 f
    (fun _ w => { srcs := [kV (Isa.va w), kV (Isa.vb w), kV (Isa.vd w)], dsts := [kV (Isa.vd w)], lat := 4 }) fun c w =>
    let r := lanesOf ((List.range 16).map fun l =>
      b32.fma 0 false false (c.lane (Isa.va w) l).toNat (c.lane (Isa.vb w) l).toNat (c.lane (Isa.vd w) l).toNat)
    ((fun c' => c'.setV (Isa.vd w) r.1), r.2))

/-- Neighbouring results combined, flags ORed. -/
def pairLevel (op : Nat → Nat → FRes) : List FRes → List FRes
  | a :: b :: r =>
    let x := op a.bits b.bits
    ⟨x.bits, Nat.lor x.flags (Nat.lor a.flags b.flags)⟩ :: pairLevel op r
  | l => l

/-- The fixed tree of R145 over 16 values. -/
def tree16 (op : Nat → Nat → FRes) (vs : List Nat) : FRes :=
  ((pairLevel op (pairLevel op (pairLevel op (pairLevel op (vs.map fun v => ⟨v, 0⟩))))).head?).getD ⟨0, 0⟩

/-- VRED: the tree's sum, or the maximum. -/
def execVred (core : Nat) (f : IsaFields) (s : State) : Host.Outcome State Fault Refusal :=
  .next (s.compute core 0x44 f (fun _ w => { srcs := [kV (Isa.va w)], dsts := [kF (Isa.rs2 w)], lat := 8 }) fun c w =>
    let r := tree16 (if w.getLsbD 0 then b32.minmax true else b32.add 0 false) ((c.vr (Isa.va w)).map BitVec.toNat)
    ((fun c' => c'.setS (Isa.rs2 w) (w32 r.bits)), r.flags))

/-! ## VRAND (R201, R202) -/

/-- The mixing function of R202. -/
def randMix (z : Dword) : Dword :=
  let z := z ^^^ (z >>> 32)
  let z := z * 0xD6E8FEB86659FD93
  let z := z ^^^ (z >>> 29)
  let z := z * 0xA3B195A354E52F6B
  z ^^^ (z >>> 32)

/-- The random word of lane l (R202). -/
def randWord (k c : Dword) (n : Word) (d l : Nat) : Word :=
  let w := w64 (n.toNat * 2 ^ 32 + d * 2 ^ 8 + l)
  hi32 (randMix (randMix (c ^^^ k) ^^^ w ^^^ k.rotateLeft 32))

/-- A lane of VRAND by its mode: r, the fraction of R202, or KEEP against the previous lane. -/
def randLane (mode : Nat) (r old : Word) : Word :=
  match mode with
  | 0 => r
  | 1 => w32 (b32.roundInt 0 (r.toNat / 256 : Nat) (-24) false).bits
  | _ => if old.toNat ≤ r.toNat then w32 oneS else 0

/-- VRAND. -/
def execVrand (core : Nat) (f : IsaFields) (s : State) : Host.Outcome State Fault Refusal :=
  .next (s.compute core 0x45 f
    (fun _ w =>
      { srcs := [kG (Isa.rs1 w), kF (Isa.rs2 w), kF (Isa.rs2 w + 1)] ++ (if fld w 0 2 = 2 then [kV (Isa.vd w)] else [])
        dsts := [kV (Isa.vd w)], lat := 4 }) fun c w =>
    let ls := (List.range 16).map fun l =>
      randLane (fld w 0 2) (randWord (c.fr (Isa.rs2 w)) (c.fr (Isa.rs2 w + 1)) (c.gr (Isa.rs1 w)) (fld w 2 8) l) (c.lane (Isa.vd w) l)
    ((fun c' => c'.setV (Isa.vd w) ls), 0))

end Sys2Proof.Machine
end

