-- ==== Sys2Proof/Machine/CoreArray.lean ====
section
/-! DEFINITION. The array instructions of a core: AMM with the checks of its descriptor, AST, and the completion of accumulators
(R146, R147, R154 to R161, R170, R242, R282, R284). -/

namespace Sys2Proof.Machine

open Sys2Proof

/-! ## AMM (R146, R157) -/

/-- The AMM starts on its arrays: each takes its next command from issue + B, and presents its first rows two cycles after the issue; an AMM
that starts the accumulators clears the latch (R146, R157, R159, R284). -/
def State.ammStart (s : State) (n t : Nat) (d : ArrDesc) (amask : Nat) (acc : Bool) : State :=
  s.modCore n fun c => (bitsOf 8 amask).foldl (fun c a =>
    let x := c.arr a
    let cls := arrClass x
    let fresh := !acc || cls.1 != decide (amFmt d.w0 = 2) || cls.2 != amNtan d.w0
    c.setArr a { x with
      runs := x.runs ++ [⟨d.w0, d.w1, [d.aaddr, d.baddr, d.taddr, d.strides, d.tan, d.arrs], acc, t, d.rows, 0, t + 2, d.rowsAt a 0, [], [], []⟩]
      free := t + d.rows * amCost d.w0
      poison := x.poison && !fresh }) c

/-- AMM: its checks are made in the cycle after its issue (R155). The spec names no order between a reserved descriptor and one whose rows lie
outside the own scratchpad: the reserved encoding comes first, as it does where a descriptor is not even read (DESIGN CHOICE, log entry 98). -/
def execAmm (core : Nat) (f : IsaFields) (s : State) : Host.Outcome State Fault Refusal :=
  .next (s.issue core 0x50 f (fun _ w => { srcs := [kG (Isa.rsA w)], amask := Isa.amask w }) fun s c w t =>
    let a := c.gr (Isa.rsA w)
    let s := (s.coreTo core (t + 2)).timed core (t + 1)
    let rt := s.coreRt core
    if !(s.core core).run then .lost s
    else if a.toNat % 32 ≠ 0 then (if rt then s.deniedAt core .misaligned a else .trap s 1 0x0B a)
    else if !s.ownRow core a.toNat 32 then (if rt then s.unmappedAt core a else .trap s 1 0x0C a)
    else
      let r := s.readWords ((List.range 4).map fun i => a.toNat + 8 * i) (fun _ => true) 1 c.ctx
      let s := if r.bad.isSome then r.st.seqUe core else r.st
      if !(s.core core).run then .lost s
      else
        let d := ArrDesc.ofDwords r.words
        if d.bad then
          if rt then .ok (s.bump (R.COR_ILL core)) id fILL none else .trap s 1 0x0A w
        else
          match s.badRow core d (Isa.amask w) with
          | some x => if rt then s.unmappedAt core (w32 x) else .trap s 1 0x0C (w32 x)
          | none => .ok (s.ammStart core t d (Isa.amask w) (w.getLsbD 0)) id 0 none)

/-- ACCUMULATORS_COMPLETE: the oldest AMM of an array completes, once it has read every step. -/
def execAccumulatorsComplete (core array : Nat) (s : State) : Host.Outcome State Fault Refusal :=
  .next (
    if core < s.nCores ∧ array < 8 then
      match ((s.core core).arr array).runs with
      | [] => s
      | r :: _ =>
        let s := s.coreTo core (runDone r)
        let x := (s.core core).arr array
        if x.runs.head?.any fun q => q.steps.length == q.need then s.modCore core fun c => c.setArr array (arrComplete x) else s
    else s)

/-! ## AST (R147, R160, R242) -/

/-- The lowest row of the named arrays that is not in the own scratchpad. -/
def State.badDrain (s : State) (n base amask : Nat) : Option Nat :=
  ((bitsOf 8 amask).flatMap fun a => (List.range 8).map (drainRow base a)).find? fun x => !s.ownRow n x 128

/-- Sticky bits of an array with those of a set's output conversion (R169, R170). -/
def outFlags (x : Arr) (set : Nat) : Nat := (List.range 256).foldl (fun f k => Nat.lor f (cellOut x set k).2) x.sticky

/-- AST: it waits for the accumulators; each array drains in the 8 cycles that follow and takes its next command after them, and TFLAGS takes
its bits 10 cycles later. -/
def execAst (core : Nat) (f : IsaFields) (s : State) : Host.Outcome State Fault Refusal :=
  .next (s.issue core 0x51 f (fun _ w => { srcs := [kG (Isa.rsA w)], amask := Isa.amask w, accs := true, lat := 10 }) fun s c w t =>
    let a := c.gr (Isa.rsA w)
    let am := Isa.amask w
    if a.toNat % 128 ≠ 0 then s.deniedAt core .misaligned a
    else
      match s.badDrain core a.toNat am with
      | some x => s.unmappedAt core (w32 x)
      | none =>
        let set := Isa.func w % 8
        let s := s.modCore core fun c => (bitsOf 8 am).foldl (fun c i =>
          let x := arrSettle (c.arr i)
          c.setArr i { x with sticky := outFlags x set, free := t + 8, drain := some ⟨a.toNat, set, x.poison, 0, t + 1⟩ }) c
        let fl := (bitsOf 8 am).foldl (fun m i => Nat.lor m ((s.core core).arr i).sticky) 0
        .ok s (fun c => if fl = 0 then c else { c with late := c.late ++ [(t + 10, 0, fl)] }) 0 none)

end Sys2Proof.Machine
end

