-- ==== Sys2Proof/Machine/CoreControl.lean ====
section
/-! DEFINITION. Branches, loops, the end of a command, the flag barrier, core status registers, traps, DMA starts, synchronisation
and digest layers on a core (R115, R119, R120, R123, R124, R127, R142, R143, R148 to R152). -/

namespace Sys2Proof.Machine

open Sys2Proof

/-! ## Branches and calls (R119, R125, R128, R151) -/

/-- The target of a branch at index pc. -/
def Core.target (c : Core) (w : Word) : Nat := unsign 14 ((c.pc : Int) + Isa.imm w)

/-- A conditional branch, taken when `test g[rs1] g[rs2]`; one that leaves the innermost loop's body is reserved (R151). -/
def State.branch (s : State) (n op : Nat) (f : IsaFields) (test : Word → Word → Bool) : State :=
  let w := isaWord op f
  s.issueWord n w (fun _ => { srcs := [kG (Isa.rd w), kG (Isa.rs1 w)], cost := 2 }) (fun c => c.leavesLoop (c.target w))
    fun s c _ => .ok s id 0 (if test (c.gr (Isa.rd w)) (c.gr (Isa.rs1 w)) then some (c.target w) else none)

/-- BR.EQ. -/
def execBrEq (core : Nat) (f : IsaFields) (s : State) : Host.Outcome State Fault Refusal := .next (s.branch core 0x20 f fun a b => a == b)

/-- BR.NE. -/
def execBrNe (core : Nat) (f : IsaFields) (s : State) : Host.Outcome State Fault Refusal := .next (s.branch core 0x21 f fun a b => a != b)

/-- BR.LT. -/
def execBrLt (core : Nat) (f : IsaFields) (s : State) : Host.Outcome State Fault Refusal := .next (s.branch core 0x22 f fun a b => a.slt b)

/-- BR.GE. -/
def execBrGe (core : Nat) (f : IsaFields) (s : State) : Host.Outcome State Fault Refusal := .next (s.branch core 0x23 f fun a b => !a.slt b)

/-- BR.LTU. -/
def execBrLtu (core : Nat) (f : IsaFields) (s : State) : Host.Outcome State Fault Refusal := .next (s.branch core 0x24 f fun a b => a.ult b)

/-- BR.GEU. -/
def execBrGeu (core : Nat) (f : IsaFields) (s : State) : Host.Outcome State Fault Refusal := .next (s.branch core 0x25 f fun a b => !a.ult b)

/-- A jump that leaves its return index in g[rd]. -/
def State.callOp (s : State) (n op : Nat) (f : IsaFields) (srcs : Word → List Nat) (target : Core → Word → Nat) : State :=
  s.issue n op f (fun _ w => { srcs := srcs w, dsts := [kG (Isa.rd w)], cost := 2, lat := 1 }) fun s c w _ =>
    .ok s (fun c' => c'.setG (Isa.rd w) (w32 (c.pc + 1))) 0 (some (target c w))

/-- CALL. -/
def execCall (core : Nat) (f : IsaFields) (s : State) : Host.Outcome State Fault Refusal :=
  .next (s.callOp core 0x26 f (fun _ => []) fun c w => unsign 14 ((c.pc : Int) + Isa.imm20 w))

/-- CALLR. -/
def execCallr (core : Nat) (f : IsaFields) (s : State) : Host.Outcome State Fault Refusal :=
  .next (s.callOp core 0x27 f (fun w => [kG (Isa.rs1 w)]) fun c w => (c.gr (Isa.rs1 w) + immW w).toNat % 2 ^ 14)

/-! ## LOOP (R151) -/

/-- The trip count of a LOOP. -/
def Core.trips (c : Core) (w : Word) : Nat := if Isa.rs1 w = 0 then fld w 0 10 + 1 else (c.gr (Isa.rs1 w)).toNat

/-- LOOP: a third level is reserved; a count of 0 goes on after the body at a cost of 2. -/
def execLoop (core : Nat) (f : IsaFields) (s : State) : Host.Outcome State Fault Refusal :=
  let w := isaWord 0x28 f
  .next (s.issueWord core w
    (fun c => { srcs := [kG (Isa.rs1 w)], cost := if c.trips w = 0 then 2 else 1 })
    (fun c => decide (2 ≤ c.loops.length))
    fun s c _ =>
      let last := c.pc + fld w 10 5 + 1
      if c.trips w = 0 then
        let nx := loopNext c.loops last
        .ok s (fun c' => { c' with loops := nx.2 }) 0 (some nx.1)
      else .ok s (fun c' => { c' with loops := ⟨c.pc + 1, last, c.trips w⟩ :: c'.loops }) 0 none)

/-! ## The end of a command (R120) -/

/-- END: nothing issues after it. -/
def execSeqEnd (core : Nat) (f : IsaFields) (s : State) : Host.Outcome State Fault Refusal :=
  .next (s.issue core 0x29 f (fun _ _ => { isEnd := true }) fun s _ _ _ => .ok s (fun c => { c with ended := true }) 0 none)

/-- The sequencer command of core n has completed END: its open layer closes with LAYER 0xFF when it holds a word (R375), and its
latch clears (R284). -/
def State.seqDone (s : State) (n : Nat) : State :=
  let fin := (s.core n).allDone
  let s := (s.modCore n Core.settled).closeS n 0xFF false false
  s.modCore n fun c => { c with
    run := false, ended := false, tileEnd := false, tileAt := none, poison := false, inTrap := false, loops := [], dS := none
    now := max c.now (max (fin + 1) (c.snapAt + 1)) }

/-- END_COMPLETE: everything issued before END has completed, its FBAR snapshots and WAITs included. The command has completed; one that has
come to its next tile, which has completed a tile, waits for its next gap (R96, R115). -/
def execEndComplete (core : Nat) (s : State) : Host.Outcome State Fault Refusal :=
  let c := s.core core
  let waits := s.syncOps.any fun o =>
    match o.kind with
    | .waitSeq m _ => m == core
    | _ => false
  .next (
    if !(c.run && c.ended && c.snaps.isEmpty && !waits) then s
    else
      let s := s.coreFlush core
      let stopped := !(s.core core).run
      let s := if stopped then s else s.seqDone core
      match (if stopped then none else s.cmdOn (.seq core)) with
      | none => s
      | some r =>
        if c.tileEnd then
          s.addCmd { r with pos := r.pos + 1, paused := true, held := r.held + cyclesBetween r.start s.tb.raw }
        else s.completeCmd r)

/-- IDLE. -/
def execIdle (core : Nat) (f : IsaFields) (s : State) : Host.Outcome State Fault Refusal :=
  .next (s.issue core 0x2A f (fun _ w => { cost := fld w 0 15 + 1 }) fun s _ _ _ => .ok s id 0 none)

/-- NOP. -/
def execNop (core : Nat) (f : IsaFields) (s : State) : Host.Outcome State Fault Refusal :=
  .next (s.issue core 0x2B f (fun _ _ => {}) fun s _ _ _ => .ok s id 0 none)

/-! ## FBAR (R142) -/

/-- The sticky bits raised by every instruction issued so far. -/
def Core.raised (c : Core) : Nat × Nat :=
  (c.late.foldl (fun a x => Nat.lor a x.2.1) c.xflags.toNat, c.late.foldl (fun a x => Nat.lor a x.2.2) c.tflags.toNat)

/-- FBAR: its snapshot is due 20 cycles after issue and holds the bits of earlier instructions. -/
def execFbar (core : Nat) (f : IsaFields) (s : State) : Host.Outcome State Fault Refusal :=
  .next (s.issue core 0x2C f (fun _ _ => {}) fun s c _ t =>
    .ok s (fun c' => { c' with snapAt := t + 20, snaps := c'.snaps ++ [(t + 20, c.raised.1, c.raised.2)] }) 0 none)

/-- FBAR_SNAPSHOT: the oldest snapshot is taken; bits that FREP does not show are posted and added to it. -/
def execFbarSnapshot (core : Nat) (s : State) : Host.Outcome State Fault Refusal :=
  let c := s.core core
  .next (
    match c.snaps with
    | [] => s
    | x :: rest =>
      let seen := c.frep.toNat
      let nx := Nat.land x.2.1 (2 ^ 14 - 1 - seen % 2 ^ 14)
      let nt := Nat.land x.2.2 (63 - seen / 2 ^ 16 % 64)
      let c := { c.flush x.1 with snaps := rest }
      if nx = 0 ∧ nt = 0 then s.setCore core c
      else
        let s := s.setCore core { c with frep := w32 (Nat.lor seen (nx + nt * 2 ^ 16)) }
        (s.bump (R.COR_FPREP core)).event 0x0401
          (w32 (c.ctx.getD 0 + nx * 2 ^ 16 + (if nt = 0 then 0 else 2 ^ 31))) c.ctx)

/-! ## Core status registers (R123, R124) -/

/-- The value of CSR `k` of core n at cycle t. -/
def State.csrRead (s : State) (n : Nat) (c : Core) (k t : Nat) : Word :=
  let rb := fun w => match c.ctx with
    | some x => s.rd (R.SCH_RB x w)
    | none => 0
  match k with
  | 0 => (c.flush t).xflags
  | 1 => if s.coreRt n then (c.fctl &&& 0x7) ||| 0x10000 else c.fctl
  | 2 => c.tvec
  | 3 => c.epc
  | 4 => c.ecause
  | 5 => c.etval
  | 6 => w32 t
  | 7 => w32 n
  | 8 => c.frep
  | 9 => (c.flush t).tflags
  | 10 => rb 0
  | 11 => rb 1
  | 12 => rb 4
  | 13 => rb 5
  | _ => FMap.get 0 c.qmask (k - 14)

/-- FCTL after a write of `v`: RM values 5 to 7 leave RM; a real-time partition ignores the TE bits and FIXLAT. -/
def fctlWrite (rt : Bool) (old v : Word) : Word :=
  let rm := if fld v 0 3 ≤ 4 then fld v 0 3 else fld old 0 3
  putFld (if rt then old else v &&& 0x11FF0) 0 3 rm

/-- CSR `k` written; RO registers keep their value. -/
def Core.csrWrite (c : Core) (rt : Bool) (k t : Nat) (v : Word) : Core :=
  match k with
  | 0 => { c.flush t with xflags := v &&& 0x3F1F }
  | 1 => { c with fctl := fctlWrite rt c.fctl v }
  | 2 => { c with tvec := v &&& 0x3FFF }
  | 3 => { c with epc := v &&& 0x3FFF }
  | 9 => { c.flush t with tflags := v &&& 0x3F }
  | _ => c

/-- The value a CSR operation writes: 1 write, 2 set bits, 3 clear bits. -/
def csrOp (op : Nat) (old x : Word) : Word :=
  match op with
  | 1 => x
  | 2 => old ||| x
  | _ => old &&& ~~~ x

/-- CSR. -/
def execCsr (core : Nat) (f : IsaFields) (s : State) : Host.Outcome State Fault Refusal :=
  .next (s.issue core 0x2D f
    (fun _ w => { srcs := if fld w 13 2 = 0 then [] else [kG (Isa.rs1 w)], dsts := [kG (Isa.rd w)], lat := 1 }) fun s c w t =>
    let k := fld w 0 5
    let old := s.csrRead core c k t
    let rt := s.coreRt core
    .ok s (fun c' =>
      let c' := if fld w 13 2 = 0 then c' else c'.csrWrite rt k t (csrOp (fld w 13 2) old (c.gr (Isa.rs1 w)))
      c'.setG (Isa.rd w) old) 0 none)

/-! ## Traps (R140, R143) -/

/-- ERET. -/
def execEret (core : Nat) (f : IsaFields) (s : State) : Host.Outcome State Fault Refusal :=
  .next (s.issue core 0x2E f (fun _ _ => { cost := 2 }) fun s c _ _ =>
    .ok s (fun c' => { c' with inTrap := false }) 0 (some (fld c.epc 0 14)))

/-- BRK: a NOP in a real-time partition, else a trap. -/
def execBrk (core : Nat) (f : IsaFields) (s : State) : Host.Outcome State Fault Refusal :=
  .next (s.issue core 0x2F f (fun _ _ => {}) fun s _ w _ =>
    if s.coreRt core then .ok s id 0 none else .trap s 0 0x0E w)

/-- COR_TRAP_CLR: the oldest halted command is discarded and its class released. -/
def execCorTrapClr (core : Nat) (s : State) : Host.Outcome State Fault Refusal :=
  .next (if s.hostWrites && decide (core < s.nCores) then s.modCore core fun c => { c with halted := c.halted.drop 1 } else s)

/-- RESERVED_ENCODING: a word that R127 reserves is issued. -/
def execReservedEncoding (core : Nat) (word : Word) (s : State) : Host.Outcome State Fault Refusal :=
  .next (if Isa.reserved word then s.issueWord core word (fun _ => {}) (fun _ => true) fun s _ _ => .ok s id 0 none else s)

/-! ## DMA starts and synchronisation (R37 to R40, R148, R149) -/

/-- DMAGO. -/
def execDmago (core : Nat) (f : IsaFields) (s : State) : Host.Outcome State Fault Refusal :=
  .next (s.issue core 0x58 f (fun _ _ => {}) fun s c w _ =>
    let k := core / 8 * 8 + Isa.ch w
    if (s.dmaOf k).st = .idle then
      let s := s.dmaStart k (Isa.didx w) false c.ctx c.part none
      .ok (s.setDma k { s.dmaOf k with go := some (core, c.slot, s.tb.raw + 5) }) id 0 none
    else .ok s id fDBUSY none)

/-- An object outside the core's partition (R31). -/
def State.foreign (s : State) (n obj : Nat) : Bool := !s.hasCluster (s.core n).part (obj / 1024)

/-- SIG. -/
def execSig (core : Nat) (f : IsaFields) (s : State) : Host.Outcome State Fault Refusal :=
  .next (s.issue core 0x59 f (fun _ _ => {}) fun s _ w _ =>
    let o := Isa.obj w
    if s.foreign core o then s.unmappedAt core (w32 o)
    else .ok (s.post o (syncLat (core / 8) o) (.signal (Isa.amount w))) id 0 none)

/-- WAIT: in a best-effort partition nothing issues until it is met. -/
def execWait (core : Nat) (f : IsaFields) (s : State) : Host.Outcome State Fault Refusal :=
  let rt := s.coreRt core
  .next (s.issue core 0x5A f
    (fun _ w =>
      let l := syncLat (core / 8) (Isa.obj w)
      { srcs := [kG (Isa.rd w)], cost := if rt then 1 else l, lat := l }) fun s c w _ =>
    let o := Isa.obj w
    if s.foreign core o then s.unmappedAt core (w32 o)
    else
      let l := syncLat (core / 8) o
      let s := s.post o l (.waitSeq core (c.gr (Isa.rd w)))
      .ok s (fun c' => if rt then c' else
        { c' with waitOn := some ⟨o, c.gr (Isa.rd w), s.rawNow + w64 (5 * l)⟩, waitMet := false }) 0 none)

/-- SRST. -/
def execSrst (core : Nat) (f : IsaFields) (s : State) : Host.Outcome State Fault Refusal :=
  .next (s.issue core 0x5B f (fun _ _ => {}) fun s _ w _ =>
    let o := Isa.obj w
    if s.foreign core o then s.unmappedAt core (w32 o)
    else .ok (s.post o (syncLat (core / 8) o) .reset) id 0 none)

/-- DLAYER (R150, R375): an empty layer is recorded too. -/
def execDlayer (core : Nat) (f : IsaFields) (s : State) : Host.Outcome State Fault Refusal :=
  .next (s.issue core 0x5C f (fun _ _ => {}) fun s _ w _ => .ok (s.closeS core (Isa.layer w) true true) id 0 none)

/-- SEQ_WAIT_MET: the sequencer resumes 2 cycles after the evaluation that met its WAIT. -/
def execSeqWaitMet (core : Nat) (s : State) : Host.Outcome State Fault Refusal :=
  .next (
    match (s.core core).waitOn with
    | some x =>
      if (s.core core).waitMet then
        let late := if x.raw.toNat < s.tb.raw.toNat then cyclesBetween x.raw s.tb.raw else 0
        s.modCore core fun c => { c with waitOn := none, waitMet := false, now := c.now + late + 2 }
      else s
    | none => s)

/-- One WAIT evaluated at its object (R39, R40): unmet in a real-time partition it raises SYNC_MISS and tears the context down; in a
best-effort partition its core's stall is ended or goes on. -/
def State.evalWait (s : State) (obj core : Nat) (target : Word) (count : Word) : State :=
  if !(s.core core).run then s
  else if s.coreRt core then
    if waitMet count target then s
    else
      let x := (s.core core).ctx
      (s.event 0x0304 (w32 (x.getD 0 + obj * 2 ^ 16)) x).coreTeardown core 1 false
  else if waitMet count target then s.modCore core fun c => { c with waitMet := true }
  else s

/-- One WAIT of a DMA channel evaluated at its object (R39, R315): unmet in a compiled chain of a real-time partition it raises SYNC_MISS, tears
the chain's context down and leaves the channel idle; in any other chain the channel waits. -/
def State.evalDmaWait (s : State) (obj k : Nat) (target : Word) (count : Word) : State :=
  let c := s.dmaOf k
  if c.st ≠ .run ∨ c.waits ≠ some false then s
  else if waitMet count target then s.setDma k { c with waits := none }
  else if !c.var && (match s.partOf (k / 8) with
      | some p => s.isRt p
      | none => false) then
    let s := (s.event 0x0304 (w32 (c.ctx.getD 0 + obj * 2 ^ 16)) c.ctx).dmaIdle k
    match c.ctx with
    | some x => s.teardown x 1
    | none => s
  else s.setDma k { c with st := .wait }

/-- Stalled WAITs on an object, evaluated again against its count: those already evaluated once. -/
def State.evalStalled (s : State) (obj : Nat) : State :=
  let met := fun (c : DmaChan) => c.st == .wait && (match c.desc with
    | some d => d.obj == obj && waitMet (s.count obj) d.w1
    | none => false)
  { s with
    dma := s.dma.map fun (x : Nat × DmaChan) => if met x.2 then (x.1, { x.2 with waits := some true }) else x
    cores := s.cores.map fun p =>
      match p.2.waitOn with
      | some x =>
        if x.obj = obj ∧ waitMet (s.count obj) x.target ∧ !(s.syncOps.any fun o => o.obj == obj && o.kind == .waitSeq p.1 x.target) then
          (p.1, { p.2 with waitMet := true })
        else p
      | none => p }

/-- The operations on an object that arrive first, and the time of their arrival (R39). -/
def State.arrivals (s : State) (obj : Nat) : List SyncOp :=
  let ops := s.syncOps.filter fun o => o.obj == obj
  match ops.foldl (fun (m : Option Nat) o => some (match m with
      | some x => min x o.raw.toNat
      | none => o.raw.toNat)) none with
  | some t => ops.filter fun o => o.raw.toNat == t
  | none => []

/-- SYNC_OBJECT_ARRIVAL: the operations of one cycle on an object take effect: SIGNALs added, WAITs evaluated against the count before
them, a RESET last. -/
def execSyncObjectArrival (obj : Nat) (s : State) : Host.Outcome State Fault Refusal :=
  let ops := s.arrivals obj
  let before := s.count obj
  let sum := ops.foldl (fun a o => match o.kind with
    | .signal n => a + n
    | _ => a) 0
  let after : Word := if ops.any fun o => o.kind == .reset then 0 else before + w32 sum
  .next (if ops.isEmpty then s else
    let s := { s with syncOps := s.syncOps.filter fun o => !ops.contains o, counts := FMap.set 0 s.counts obj after }
    let s := forEach ops s fun s o => match o.kind with
      | .waitSeq core target => s.evalWait obj core target before
      | .waitDma k target => s.evalDmaWait obj k target before
      | _ => s
    s.evalStalled obj)

end Sys2Proof.Machine
end

