-- ==== Sys2Proof/Machine/CoreMem.lean ====
section
/-! DEFINITION. The narrow loads and stores of a core (R26, R126, R128, R241, R279). -/

namespace Sys2Proof.Machine

open Sys2Proof

/-- The address of a load or store: g[rs1] + imm as a 32-bit byte address (R126). -/
def memAddr (c : Core) (w : Word) : Word := c.gr (Isa.rs1 w) + immW w

/-- Result latency of a load (R128): 10 from the cluster memory, 3 from the core scratchpad. -/
def loadLat (a : Word) : Nat := if 0x60000000 ≤ a.toNat then 10 else 3

/-- A load of `size` bytes whose data `put` writes to register keys `dst`. -/
def State.loadOp (s : State) (n op : Nat) (f : IsaFields) (size : Nat) (dst : Word → List Nat) (put : Word → Dword → Core → Core) :
    State :=
  s.issue n op f
    (fun c w => { srcs := [kG (Isa.rs1 w)], dsts := dst w, lat := loadLat (memAddr c w) })
    fun s c w t =>
      let a := memAddr c w
      match s.narrow n a.toNat size with
      | .error d => s.deniedAt n d a
      | .ok p =>
        let r := s.load n t p a.toNat size
        .ok (if r.bad then r.st.seqUe n else r.st) (put w r.data) 0 none

/-- A store of `size` bytes of `data` at issue cost `cost`, read from register keys `src`. -/
def State.storeOp (s : State) (n op : Nat) (f : IsaFields) (size cost : Nat) (src : Word → List Nat) (data : Core → Word → Dword) :
    State :=
  s.issue n op f
    (fun _ w => { srcs := kG (Isa.rs1 w) :: src w, cost := cost })
    fun s c w t =>
      let a := memAddr c w
      match s.narrow n a.toNat size with
      | .error d => s.deniedAt n d a
      | .ok p =>
        let r := s.store n t p a.toNat size (data c w)
        .ok (if r.bad then r.st.seqUe n else r.st) id 0 none

/-- Data of a load to g[rd]: sign-extended from `n` bits, or zero-extended. -/
def putG (sgn : Bool) (n : Nat) (w : Word) (d : Dword) (c : Core) : Core :=
  c.setG (Isa.rd w) (if sgn then BitVec.ofInt 32 (signed n d.toNat) else lo32 d)

/-- LB. -/
def execLb (core : Nat) (f : IsaFields) (s : State) : Host.Outcome State Fault Refusal :=
  .next (s.loadOp core 0x10 f 1 (fun w => [kG (Isa.rd w)]) (putG true 8))

/-- LBU. -/
def execLbu (core : Nat) (f : IsaFields) (s : State) : Host.Outcome State Fault Refusal :=
  .next (s.loadOp core 0x11 f 1 (fun w => [kG (Isa.rd w)]) (putG false 8))

/-- LH. -/
def execLh (core : Nat) (f : IsaFields) (s : State) : Host.Outcome State Fault Refusal :=
  .next (s.loadOp core 0x12 f 2 (fun w => [kG (Isa.rd w)]) (putG true 16))

/-- LHU. -/
def execLhu (core : Nat) (f : IsaFields) (s : State) : Host.Outcome State Fault Refusal :=
  .next (s.loadOp core 0x13 f 2 (fun w => [kG (Isa.rd w)]) (putG false 16))

/-- LW. -/
def execLw (core : Nat) (f : IsaFields) (s : State) : Host.Outcome State Fault Refusal :=
  .next (s.loadOp core 0x14 f 4 (fun w => [kG (Isa.rd w)]) (putG false 32))

/-- LWP: an even-odd pair. -/
def execLwp (core : Nat) (f : IsaFields) (s : State) : Host.Outcome State Fault Refusal :=
  .next (s.loadOp core 0x15 f 8 (fun w => [kG (Isa.rd w), kG (Isa.rd w + 1)]) fun w d c => c.setPair (Isa.rd w) d)

/-- FLW: the high 32 bits become zero (R121). -/
def execFlw (core : Nat) (f : IsaFields) (s : State) : Host.Outcome State Fault Refusal :=
  .next (s.loadOp core 0x16 f 4 (fun w => [kF (Isa.rd w)]) fun w d c => c.setF (Isa.rd w) d)

/-- FLD. -/
def execFld (core : Nat) (f : IsaFields) (s : State) : Host.Outcome State Fault Refusal :=
  .next (s.loadOp core 0x17 f 8 (fun w => [kF (Isa.rd w)]) fun w d c => c.setF (Isa.rd w) d)

/-- SB (R279). -/
def execSb (core : Nat) (f : IsaFields) (s : State) : Host.Outcome State Fault Refusal :=
  .next (s.storeOp core 0x18 f 1 3 (fun w => [kG (Isa.rd w)]) fun c w => w64 (c.gr (Isa.rd w)).toNat)

/-- SH (R279). -/
def execSh (core : Nat) (f : IsaFields) (s : State) : Host.Outcome State Fault Refusal :=
  .next (s.storeOp core 0x19 f 2 3 (fun w => [kG (Isa.rd w)]) fun c w => w64 (c.gr (Isa.rd w)).toNat)

/-- SW (R279). -/
def execSw (core : Nat) (f : IsaFields) (s : State) : Host.Outcome State Fault Refusal :=
  .next (s.storeOp core 0x1A f 4 3 (fun w => [kG (Isa.rd w)]) fun c w => w64 (c.gr (Isa.rd w)).toNat)

/-- SWP: an even-odd pair. -/
def execSwp (core : Nat) (f : IsaFields) (s : State) : Host.Outcome State Fault Refusal :=
  .next (s.storeOp core 0x1B f 8 1 (fun w => [kG (Isa.rd w), kG (Isa.rd w + 1)]) fun c w => c.pair (Isa.rd w))

/-- FSW: the low 32 bits (R279). -/
def execFsw (core : Nat) (f : IsaFields) (s : State) : Host.Outcome State Fault Refusal :=
  .next (s.storeOp core 0x1C f 4 3 (fun w => [kF (Isa.rd w)]) fun c w => c.fr (Isa.rd w))

/-- FSD. -/
def execFsd (core : Nat) (f : IsaFields) (s : State) : Host.Outcome State Fault Refusal :=
  .next (s.storeOp core 0x1D f 8 1 (fun w => [kF (Isa.rd w)]) fun c w => c.fr (Isa.rd w))

end Sys2Proof.Machine
end

