-- ==== Sys2Proof/Machine/Mirror.lean ====
section
/-! DEFINITION. The commands of the pair: lanes, heartbeats, digest records, input notices and forwards, reads over the mirror link, the
drive, the mirror group and the divergence capture (R364 to R371, R380 to R391, R399). -/

namespace Sys2Proof.Machine

open Sys2Proof

/-! ## Lanes (R364, R398) -/

/-- A lane's link changed: its bit, flag and event; a lane that goes down loses its partial item. -/
def State.setLane (s : State) (k : Nat) (up : Bool) : State :=
  let s := if up then s.setBits R.MIR_STAT (bitMask (26 + k)) else (s.clrBits R.MIR_STAT (bitMask (26 + k))).dropPartial k
  let s := (s.setBits R.MIR_FLAGS 1).event 0x0D01 (w32 (k + b2n up * 2 ^ 8)) none
  if up then s
  else
    let s := { s with pair := { s.pair with
      rxSeq := s.pair.rxSeq.filter fun (c : Nat × Word) => c.1 / 8 != k
      txSeq := s.pair.txSeq.filter fun (c : Nat × Word) => c.1 / 8 != k } }
    if s.laneUp 0 ∨ s.laneUp 1 then s else s.ungreet [partner]

/-- MIR_LANE: a lane of a part in paired operation goes up or down; the first lane up brings a HELLO (R358). -/
def execMirLane (lane : Nat) (up : Bool) (s : State) : Host.Outcome State Fault Refusal :=
  .next (if 2 ≤ lane ∨ s.laneUp lane = up ∨ (up ∧ (s.pstate = 0 ∨ !s.running ∨ !s.netOn (4 + lane))) then s
    else
      let first := up && !s.laneUp 0 && !s.laneUp 1
      let s := s.setLane lane up
      if first then s.sendHello partner else s)

/-! ## Heartbeats (R368, R388 to R391) -/

/-- The partner's hashes of a heartbeat: a change is flagged and logged (R394). -/
def State.takeHashes (s : State) (item : List Byte) : State :=
  forEach (List.range 8) s fun s p =>
    let v := w64 (leAt item (16 + 8 * p) 8)
    if s.rd64 (R.MIR_PHASH p) = v then s
    else ((s.wr64 (R.MIR_PHASH p) v).setBits R.MIR_FLAGS 32).event 0x0D09 (w32 p) none

/-- The pair state after a heartbeat of the partner, which does or does not drive (R368). -/
def State.hbState (s : State) (drive : Bool) : State :=
  if s.field R.MIR_STAT 8 8 == 0 then s
  else if s.pstate == 3 || (s.pstate == 1 && (s.isSecondary || s.drives || drive)) then s.setPstate 2
  else s

/-- Both parts drive (R390). -/
def State.hbDrive (s : State) (drive : Bool) : State :=
  if !(s.drives && drive) then s
  else if s.givep then s.yieldDrive 1
  else if s.isSecondary then s.yieldDrive 0
  else s

/-- GIVE and ACCEPT of a heartbeat (R391). -/
def State.hbHand (s : State) (give accept : Bool) : State :=
  let s := if give && !s.drives && s.pstate == 2 && s.pair.taking.isNone then
      { s with pair := { s.pair with taking := some 0 } }
    else s
  if accept && s.givep then { s with pair := { s.pair with accepted := true } } else s

/-- A heartbeat of a partner of the other role. -/
def State.hbOther (s : State) (item : List Byte) : State :=
  let w0 := w32 (leAt item 0 4)
  let s := s.takeHashes item
  let s := { s with pair := { s.pair with peerDrive := some (w0.getLsbD 30) } }
  ((s.hbState (w0.getLsbD 30)).hbDrive (w0.getLsbD 30)).hbHand (w0.getLsbD 29) (w0.getLsbD 28)

/-- HB: a heartbeat ends the misses and updates the pair state; one of the same role is a role conflict. -/
def execHb (rx : RxFrame) (s : State) : Host.Outcome State Fault Refusal :=
  .next (match s.mirBody rx subHB with
    | .done s => s
    | .ok s h =>
      forEach (mirItems h) s fun s item =>
        let s := (s.setField R.MIR_STAT 24 2 0).clrBits R.MIR_STAT (bitMask 22)
        let s := { s with pair := { s.pair with hbOpen := false } }
        if (w32 (leAt item 0 4)).getLsbD 31 = s.isSecondary then
          (s.setBits R.MIR_FLAGS 64).event 0x0D02 (w32 (0xF + s.field R.MIR_STAT 8 8 * 2 ^ 8)) none
        else s.hbOther item)

/-- A takeover at the third miss, or its block (R389). -/
def State.missTake (s : State) : State :=
  let down := !s.laneUp 0 && !s.laneUp 1 && !(s.act R.MIR_CFG).getLsbD 30
  let skew := s.skewBars
  if down || skew then
    ((s.setBits R.MIR_STAT (bitMask 22)).setBits R.MIR_FLAGS 2).event 0x0D05 (w32 (b2n down + 2 * b2n skew)) none
  else s.takeDrive 0

/-- HEARTBEAT_MISS: no heartbeat in the window after the anchor; the third in a row loses the partner. -/
def execHeartbeatMiss (s : State) : Host.Outcome State Fault Refusal :=
  .next (if !s.pair.hbOpen ∨ s.pstate = 0 ∨ (s.tb.raw - s.pair.hbRaw).toNat < fld (s.act R.MIR_CFG) 0 16 * 1000 then s
    else
      let n := s.field R.MIR_STAT 24 2
      let s := { s with pair := { s.pair with hbOpen := false } }.bump R.MIR_HBMISS
      let s := s.setField R.MIR_STAT 24 2 (min 3 (n + 1))
      if n ≠ 2 then s
      else
        let s := if s.drives then s else s.missTake
        if s.pstate = 2 then s.setPstate 3 else s)

/-! ## Digest records and verdicts (R380, R384, R385) -/

/-- DIGEST: records of the partner wait for the own ones; outside PAIRED, and for a step already settled, they are discarded. -/
def execDigest (rx : RxFrame) (s : State) : Host.Outcome State Fault Refusal :=
  .next (match s.mirBody rx subDIGEST with
    | .done s => s
    | .ok s h =>
      forEach (mirItems h) s fun s item =>
        let r := DigRec.ofItem item
        if !s.paired ∨ FMap.find s.pair.settled (4 * r.ctx + r.job) = some r.step then s
        else { s with pair := { s.pair with theirs := s.pair.theirs ++ [r] } }.compareStep r.ctx r.job r.step)

/-- CMPWIN_EXPIRY: the partner's STEPSUM has not come within CMPWIN µs of the own. -/
def execCmpwinExpiry (ctx job : Nat) (s : State) : Host.Outcome State Fault Refusal :=
  .next (match FMap.find s.pair.sumRaw (4 * ctx + job), s.dig.own.find? fun r => r.ctx == ctx && r.job == job && r.kind == 3 with
    | some t, some r =>
      if s.paired && decide (fld (s.act R.MIR_FWDCFG) 16 16 * 1000 ≤ (s.tb.raw - t).toNat) then s.settle ctx job r.step 4 else s
    | _, _ => s)

/-! ## Frames of items (R370) -/

/-- MIRROR_FRAME_SEND: a frame of a subtype leaves when it is full or its oldest item has waited 500 ns. Digest records leave only in
PAIRED; class F frames wait for class H frames that share their lane. -/
def execMirrorFrameSend (sub : Nat) (s : State) : Host.Outcome State Fault Refusal :=
  .next (if !(sub == subDIGEST || sub == subINOTE || sub == subFWDREQ) then s
    else
      let items := s.waitingItems sub
      let due := fun (n : Nat) (l : List (List Byte × Dword)) =>
        decide (n ≤ l.length) || (match l with
          | x :: _ => decide (500 ≤ (s.tb.raw - x.2).toNat)
          | [] => false)
      let digs := s.waitingItems subDIGEST
      let shared := s.laneFor true == s.laneFor false
      match s.laneFor (sub == subDIGEST) with
      | none => s
      | some l =>
        if !due (mirMax sub) items ∨ (sub = subDIGEST ∧ !s.paired) ∨ (sub ≠ subDIGEST ∧ shared ∧ s.paired ∧ due (mirMax subDIGEST) digs)
        then s
        else
          let now := items.take (mirMax sub)
          let s := (s.dropItems sub now.length).mirSend l sub now.length 0 0 (now.flatMap (·.1))
          if sub = subFWDREQ then s.addSat R.MIR_FWDREQC now.length else s)

/-! ## Input notices and forwards (R381 to R383) -/

/-- The own placement of a SEQ of a context-job, in either half or under way: its CRC-32C field and LEN. -/
def State.placedSeq (s : State) (ctx job : Nat) (seq : Word) : Option (Word × Nat) :=
  let halves := [s.tag ctx job 0, s.tag ctx job 1].filter InTag.complete
  let under := (s.net.placing.filter fun p => p.ctx == ctx && p.job == job).map Placing.tag
  ((halves ++ under).find? fun t => t.seq == seq).map fun t => (t.crc, t.len)

/-- The key of the MEAS stream of a context's job. -/
def streamKey (ctx job : Nat) : Nat := 2 * ctx + b2n (job != 0)

/-- One input notice compared with the own placement. -/
def State.notice (s : State) (item : List Byte) : State :=
  let w := w32 (leAt item 0 4)
  let ctx := fld w 0 12
  let job := fld w 12 2
  let seq := w32 (leAt item 4 4)
  match s.placedSeq ctx job seq with
  | some (crc, len) =>
    if crc = w32 (leAt item 16 4) ∧ len = leAt item 20 2 then s
    else
      let s := s.bump R.MIR_INCONF
      if (s.rd R.MIR_FLAGS).getLsbD 3 then s
      else (s.setBits R.MIR_FLAGS 8).event 0x0D07 (w32 (ctx + job * 2 ^ 12)) (some ctx)
  | none =>
    let ahead := match seqDiff (FMap.find s.net.measSeq (streamKey ctx job)) seq with
      | some d => decide (0 < d)
      | none => true
    if !ahead ∨ (s.pair.waits.any fun x => x.1 == 4 * ctx + job && x.2.1 == seq) then s
    else { s with pair := { s.pair with waits := s.pair.waits ++ [(4 * ctx + job, seq, s.tb.raw)] } }

/-- INOTE: input notices of the partner. -/
def execInote (rx : RxFrame) (s : State) : Host.Outcome State Fault Refusal :=
  .next (match s.mirBody rx subINOTE with
    | .done s => s
    | .ok s h => forEach (mirItems h) s State.notice)

/-- FORWARD_WAIT_EXPIRY: a SEQ still not placed when its timer ends is asked for. -/
def execForwardWaitExpiry (ctx job : Nat) (seq : Word) (s : State) : Host.Outcome State Fault Refusal :=
  .next (let k := 4 * ctx + job
    match s.pair.waits.find? fun x => x.1 == k && x.2.1 == seq with
    | none => s
    | some x =>
      if (s.tb.raw - x.2.2).toNat < fld (s.act R.MIR_FWDCFG) 0 16 * 100 then s
      else
        let s := { s with pair := { s.pair with waits := s.pair.waits.filter fun y => !(y.1 == k && y.2.1 == seq) } }
        if (s.placedSeq ctx job seq).isSome ∨ !s.paired then s
        else { s with pair := { s.pair with asked := s.pair.asked ++ [(k, seq)] } }.mirItem subFWDREQ
          (leBytes 4 (ctx + job * 2 ^ 12) ++ leBytes 4 seq.toNat))

/-- The first enabled PLACE entry for a context's job (R345, R382). -/
def State.placeEntry (s : State) (ctx job : Nat) : Option Nat :=
  (List.range 128).find? fun i =>
    let e := s.pentry i
    e.en && e.act == 1 && decide (e.ctxlo ≤ ctx) && decide (ctx ≤ e.ctxhi) && (if e.job then s.ajob ctx else 0) == job

/-- The item that answers a FWDREQ: the record and payload of the fill half that holds the SEQ, read as the Carr engine reads (source 0xC),
or a record of zeros, counted. -/
def State.fwdItem (s : State) (ctx job : Nat) (seq : Word) : State × List Byte :=
  let h := s.fillHalf ctx job
  let t := s.tag ctx job h
  let empty := (s.bump R.MIR_FWDNONE, List.replicate 32 (0 : Byte))
  match s.placeEntry ctx job with
  | none => empty
  | some i =>
    let e := s.pentry i
    let a := s.inputArea ctx e + h * e.hlen
    if !(t.complete && t.seq == seq && s.openRange a (32 + t.len)) then empty
    else
      let r := s.readWide a (32 + t.len) 0xC (some ctx)
      if r.bad.isSome then (r.st.bump R.MIR_FWDNONE, List.replicate 32 0) else (r.st, bytesOf r.words a (32 + t.len))

/-- FWDREQ: each request answered with a FWD. -/
def execFwdreq (rx : RxFrame) (s : State) : Host.Outcome State Fault Refusal :=
  .next (match s.mirBody rx subFWDREQ with
    | .done s => s
    | .ok s h =>
      forEach (mirItems h) s fun s item =>
        let w := w32 (leAt item 0 4)
        let r := s.fwdItem (fld w 0 12) (fld w 12 2) (w32 (leAt item 4 4))
        r.1.sendFwd r.2)

/-- A whole forwarded item: the request that asked for its SEQ gives context and job; the payload passes checks 8 to 10 (R382). -/
def State.forwarded (s : State) (lane : Nat) (item : List Byte) : State :=
  let w := leAt item 0 8
  let seq := w32 w
  if !w.testBit 63 then { s with pair := { s.pair with asked := s.pair.asked.drop 1 } }
  else
    match s.pair.asked.find? fun x => x.2 == seq with
    | none => s
    | some x =>
      let s := { s with pair := { s.pair with asked := s.pair.asked.erase x } }
      let ctx := x.1 / 4
      match s.placeEntry ctx (x.1 % 4) with
      | none => s
      | some i =>
        let payload := slice item 32 (w / 2 ^ 32 % 2 ^ 16)
        let h : Carr := { ver := leAt item 25 1, typ := 1, flags := 0, seq := seq, ctx := ctx, len := payload.length
                          step := w64 (leAt item 8 8), ts := w32 (leAt item 16 4), payload := payload, crc := crc32c payload }
        s.measTail h i (s.pentry i) (w32 (leAt item 20 4)) 4 (4 + lane) true

/-- FWD: a forwarded input, whole or in two fragments. -/
def execFwd (rx : RxFrame) (s : State) : Host.Outcome State Fault Refusal :=
  .next (match s.mirBody rx subFWD with
    | .done s => s
    | .ok s h =>
      let lane := rx.port - 4
      let bytes := h.payload.drop 4
      if beAt h.payload 2 2 = 0 then
        if h.flags.testBit 12 then { s with pair := { s.pair with partials := FMap.upd s.pair.partials lane (some (bytes, s.tb.raw)) } }
        else s.forwarded lane bytes
      else
        match FMap.find s.pair.partials lane with
        | none => s
        | some (b, _) =>
          { s with pair := { s.pair with partials := FMap.upd s.pair.partials lane none } }.forwarded lane (b ++ bytes))

/-- FWD_FRAGMENT_TIMEOUT: a partial item 10 µs old is discarded. -/
def execFwdFragmentTimeout (lane : Nat) (s : State) : Host.Outcome State Fault Refusal :=
  .next (match FMap.find s.pair.partials lane with
    | some (_, t) => if 10000 ≤ (s.tb.raw - t).toNat then s.dropPartial lane else s
    | none => s)

/-! ## Reads over the mirror link (R369) -/

/-- Bytes of the register window, without side effects; offsets beyond the first 16 MiB read zero (R9). -/
def State.peekRegs (s : State) (a len : Nat) : List Byte :=
  (List.range len).map fun i =>
    let off := a - 0x70000000 + i
    if off < 2 ^ 24 then BitVec.ofNat 8 ((s.readReg (off / 4 * 4)).toNat / 2 ^ (8 * (off % 4))) else 0

/-- MIRROR_RD: an RD of the partner, over the whole map but the partner window. -/
def execMirrorRd (rx : RxFrame) (s : State) : Host.Outcome State Fault Refusal :=
  .next (match s.mirRoute rx 0x03 with
    | .done s => s
    | .ok s h =>
      match s.txnCheck rx h 0x1FF false with
      | .done s => s
      | .ok s _ =>
        let a := beAt h.payload 0 8
        let len := beAt h.payload 8 4
        let ack := fun (s : State) (data : List Byte) => (s.bump R.CARR_TXNCNT).sendAnswer (askerOf rx h) 0x05 0 data false
        if 0x70000000 ≤ a ∧ a + len ≤ 0x80000000 then ack s (s.peekRegs a len)
        else
          match s.serveRead a len with
          | (s, .error (c, off)) => s.refuse rx h c 0x1FF off
          | (s, .ok data) => ack s data)

/-! ## The drive on request (R391) -/

/-- MIR_CTL HANDOVER: the driving part in PAIRED offers the drive from its next heartbeat anchor on. -/
def execMirCtlHandover (s : State) : Host.Outcome State Fault Refusal :=
  .next (if s.hostWrites && s.drives && s.pstate == 2 && s.pair.giving.isNone then
      { s with pair := { s.pair with giving := some 0, accepted := false } }
    else s)

/-- MIR_CTL TAKE: a standby part takes the drive. -/
def execMirCtlTake (s : State) : Host.Outcome State Fault Refusal :=
  .next (if s.hostWrites && !s.drives then s.takeDrive 1 else s)

/-- MIR_CTL YIELD: a driving part in paired operation gives the drive up. -/
def execMirCtlYield (s : State) : Host.Outcome State Fault Refusal :=
  .next (if s.hostWrites && s.drives && s.pstate != 0 then s.yieldDrive 2 else s)

/-! ## The mirror group (R390, R399) -/

/-- Staged words of the mirror group. -/
def mirGroup : List Nat := [R.MIR_CFG, R.MIR_FWDCFG] ++ (List.range 64).flatMap fun t => [R.MIR_POL t, R.MIR_POL t + 4]

/-- The code of a mirror commit. -/
def State.mirCode (s : State) : Nat :=
  let cfg := s.rd R.MIR_CFG
  let p := hbPart cfg
  let g := hbGrp cfg
  let win := fld cfg 0 16
  let pol := fun (t : Nat) => s.rd (R.MIR_POL t)
  if g = 3 ∨ !s.partOn p ∨ !s.hasAnchor none p (some g) then 1
  else if win = 0 ∨ s.flen p g * 5 ≤ win * 1000 then 2
  else if (List.range 64).any fun t => s.rd (R.MIR_POL t + 4) != 0 || fld (pol t) 16 14 != 0 || fld (pol t) 30 2 == 3 ||
      fld (pol t) 0 16 % 128 != 0 then 3
  else if fld (s.rd R.MIR_FWDCFG) 16 16 = 0 ∨ fld (s.rd R.MIR_FWDCFG) 0 16 = 0 then 4
  else 0

/-- MIR_COMMIT. -/
def execMirCommit (s : State) : Host.Outcome State Fault Refusal :=
  .next (if s.hostWrites then s.commitGroup R.MIR_STATUS s.mirCode else s)

/-- The group applied: a change of EN restarts the lanes, and starts or ends paired operation. -/
def State.mirApply (s : State) : State :=
  let old := (s.act R.MIR_CFG).getLsbD 31
  let s := (s.apply mirGroup).clrBits R.MIR_STATUS (bitMask 31)
  let en := (s.act R.MIR_CFG).getLsbD 31
  if en = old then s
  else
    let s := forEach [0, 1] s fun s k => if s.laneUp k then s.setLane k false else s
    let s := s.clrBits R.MIR_STAT (bitMask 22 ||| bitMask 23 ||| fldMask 24 2)
    let s := { s with pair := { s.pair with items := [], waits := [], asked := [], hbOpen := false, peerDrive := none, giving := none, accepted := false,
                                            taking := none } }
    let s := if en then s.clrBits R.MIR_STAT (bitMask 30) else s.setBits R.MIR_STAT (bitMask 30)
    s.setPstate (b2n en)

/-- MIR_GROUP_APPLY: at a true anchor of the new heartbeat group, or at once when EN is 0. -/
def execMirGroupApply (s : State) : Host.Outcome State Fault Refusal :=
  .next (if !(s.rd R.MIR_STATUS).getLsbD 31 then s
    else
      let cfg := s.rd R.MIR_CFG
      if !cfg.getLsbD 31 then s.mirApply
      else match FMap.find s.sch.frames (4 * hbPart cfg + hbGrp cfg) with
        | some f => if f.trueRaw = s.tb.raw then s.mirApply else s
        | none => s)

/-- MIR_DIVCLR: the capture is armed again. -/
def execMirDivclr (s : State) : Host.Outcome State Fault Refusal :=
  .next (if s.hostWrites then s.clrBits R.MIR_DIVINFO (bitMask 31) else s)

end Sys2Proof.Machine
end

