-- ==== Sys2Proof/Machine/PowerTest.lean ====
section
/-! DEFINITION. Power states, memory BIST, taking LPDDR6 out of service, and the link checkers (R455, R456, R460, R479, R480). -/

namespace Sys2Proof.Machine

open Sys2Proof

/-! ## Memory BIST (R455) -/

/-- MEMORY_BIST_START: only banks that are on and that no table covers are tested; a GO while a test runs is ignored. -/
def execMemoryBistStart (mem : Nat) (banks : BitVec 16) (s : State) : Host.Outcome State Fault Refusal :=
  .next (
    if !s.hostWrites || s.boot.bist.isSome then s
    else if decide (144 ≤ mem) || !s.hasMem mem ||
        (firstBank banks fun b => s.bankBusy mem b || covered (s.guards mem) (b * bankSize mem) (bankSize mem)).isSome then
      s.wr R.TST_MBSTAT 1
    else
      let s := forEach (List.range 8) s fun s i => s.wr (R.TST_MBFAIL i) 0
      ({ s with boot := { s.boot with bist := some (mem, banks.toNat) } }).wr R.TST_MBSTAT (bitMask 31))

/-- MEMORY_BIST_DONE: the first 8 failing words are recorded, all counted, and the tested banks hold undefined values. -/
def execMemoryBistDone (fails : List (BitVec 20)) (s : State) : Host.Outcome State Fault Refusal :=
  .next (
    match s.boot.bist with
    | none => s
    | some (mem, banks) =>
      let bad := fails.filter fun a => banks.testBit (a.toNat / 2 ^ 16) && decide (a.toNat / 16 % 4096 < bankRows mem)
      let s := forEach (bad.take 8).zipIdx s fun s x => s.wr (R.TST_MBFAIL x.2) (w32 (2 ^ 31 + x.1.toNat))
      let s := forEach (bitsOf 16 banks) s fun s b => s.forget (memBase mem + b * bankSize mem) (bankSize mem)
      ({ s with boot := { s.boot with bist := none } }).wr R.TST_MBSTAT
        (w32 (b2n (!bad.isEmpty) * 2 ^ 30 + min 255 bad.length * 2 ^ 8)))

/-! ## LPDDR6 out of service (R460) -/

/-- Some partition has a table, or an accepted load waits. -/
def State.anyTable (s : State) : Bool := (List.range 8).any fun p => s.partOn p || s.loadPending p

/-- The log ring is enabled. -/
def State.logOn (s : State) : Bool := (s.act R.GLB_LOGCFG).getLsbD 31

/-- TST_MEMCTL_OFF: self-refresh on every channel, and MEM_GIB reads 0. -/
def execTstMemctlOff (s : State) : Host.Outcome State Fault Refusal :=
  .next (
    if !s.hostWrites || !s.memOn || s.anyTable || s.logOn || (s.dma.any fun (c : Nat × DmaChan) => c.2.st == .run) then s
    else (s.setBits R.MEM_STAT (bitMask 30)).wr R.GLB_MEM 0)

/-- TST_MEMCTL_ON: memory that OFF took out of service is retrained. -/
def execTstMemctlOn (fit : MemFit) (s : State) : Host.Outcome State Fault Refusal :=
  .next (
    let st := s.rd R.MEM_STAT
    if !s.hostWrites || s.quiet || !st.getLsbD 31 || !st.getLsbD 30 || s.field R.GLB_MEM 0 8 != 0 then s else s.train fit)

/-! ## Link checkers (R456) -/

/-- LINK_CHECKER_LOCK. -/
def execLinkCheckerLock (lane : Nat) (s : State) : Host.Outcome State Fault Refusal :=
  .next (
    if s.running && decide (lane < 6) && (s.rd (R.TST_LCHK lane)).getLsbD 31 then s.setBits (R.TST_LSTAT lane) (bitMask 31) else s)

/-! ## Power states (R479, R480) -/

/-- The number of a power state. -/
def Power.num : Power → Nat
  | .run => 0
  | .fenced => 1
  | .quiesce => 2

/-- Memories of clusters 4 to 15. -/
def highMems : List Nat := (List.range 96).map (32 + ·) ++ (List.range 12).map (132 + ·)

/-- A table, a pending load or a retained entry covers cluster 4 to 15. -/
def State.highTable (s : State) : Bool :=
  ((List.range 8).any fun p =>
    (s.partOn p && fld (s.act (R.SCH_PCFG p)) 4 12 != 0) || (s.loadPending p && s.field (R.SCH_PCFG p) 4 12 != 0)) ||
  highMems.any fun n => !(s.guards n).isEmpty

/-- A channel from number `lo` on is not idle. -/
def State.dmaBusy (s : State) (lo : Nat) : Bool := s.dma.any fun (c : Nat × DmaChan) => decide (lo ≤ c.1) && c.2.st != .idle

/-- The code of a request for a power state: the lowest that applies. -/
def State.pwrCode (s : State) (req : Power) : Nat :=
  let b := s.boot
  if b.toPower.isNone && b.power == req then 0
  else if (req == .fenced && s.highTable) || (req == .quiesce && s.anyTable) then 1
  else if req == .fenced && ((s.act (R.ETH_CFG 2)).getLsbD 31 || (s.act (R.ETH_CFG 3)).getLsbD 31 || (s.act R.MIR_CFG).getLsbD 31) then 2
  else if (req == .fenced && s.dmaBusy 32) || (req == .quiesce && (s.dmaBusy 0 || s.logOn)) then 3
  else if b.toPower.isSome || (s.rd R.SCH_LSTAT).getLsbD 31 || (b.power != .run && req != .run) then 4
  else 0

/-- A request for a power state. -/
def State.pwrReq (s : State) (req : Power) : State :=
  if !s.hostWrites then s
  else
    let code := s.pwrCode req
    let b := s.boot
    let s := s.setField R.GLB_PWRSTAT 0 8 code
    if code ≠ 0 ∨ (b.toPower.isNone ∧ b.power = req) then s
    else ({ s with boot := { b with toPower := some req, powerRaw := s.tb.raw, fenced := b.fenced || req == Power.fenced } }).setBits
      R.GLB_PWRSTAT (bitMask 31)

/-- PWR_REQ_RUN. -/
def execPwrReqRun (s : State) : Host.Outcome State Fault Refusal := .next (s.pwrReq .run)

/-- PWR_REQ_FENCED. -/
def execPwrReqFenced (s : State) : Host.Outcome State Fault Refusal := .next (s.pwrReq .fenced)

/-- PWR_REQ_QUIESCE. -/
def execPwrReqQuiesce (s : State) : Host.Outcome State Fault Refusal := .next (s.pwrReq .quiesce)

/-- What clusters 4 to 15 hold is lost: their memories, and their registers and units, which return at their reset values. -/
def State.loseHigh (s : State) : State :=
  let low := fun (n : Nat) => decide (n < 32) || (decide (128 ≤ n) && decide (n < 132)) || n == 144
  let s := (s.forget (memBase 32) (memBase 128 - memBase 32)).forget (memBase 132) (0x70000000 - memBase 132)
  { s with
    regs := s.regs.filter fun (c : Nat × Word) => s.present c.1
    cores := s.cores.filter fun (c : Nat × Core) => decide (c.1 < 32)
    fen := s.fen.filter fun (c : Nat × Fennel) => decide (c.1 < 4)
    dma := s.dma.filter fun (c : Nat × DmaChan) => decide (c.1 < 32)
    counts := s.counts.filter fun (c : Nat × Word) => decide (c.1 / 1024 < 4)
    syncOps := s.syncOps.filter fun o => decide (o.obj / 1024 < 4)
    integ := s.integ.filter fun (c : Nat × Integrity) => low c.1
    banks := s.banks.filter fun (c : Nat × BankBusy) => low (c.1 / 16) }

/-- The links of ports and lanes that lose their power go down. -/
def State.netDown (s : State) : State :=
  let s := forEach (List.range 4) s fun s k =>
    if s.linkUp k && !s.netOn k then ((s.clrBits (R.ETH_STATUS k) (bitMask 30)).flushPort k).logLink k false else s
  forEach (List.range 2) s fun s l => if s.laneUp l && !s.netOn (4 + l) then s.setLane l false else s

/-- Least time of a transition, in ns. -/
def State.pwrTime (s : State) (dst : Power) : Nat := if dst = .fenced then 20000 else if s.boot.power = .fenced then 200000 else 0

/-- The controller leaves self-refresh (R305): an all-bank refresh, and training steps 3 to 5 again, of which the implementation says whether a
channel fails them (R304; log entry 107). -/
def State.wakeMemory (s : State) : State :=
  let s := s.clrBits R.MEM_STAT (bitMask 30)
  match Config.retrainFails s.tb.raw with
  | none => s
  | some (c, step) =>
    let chan := c % 4
    let s := (s.clrBits R.MEM_STAT (bitMask 31 ||| bitMask chan)).setBits R.MEM_STAT (bitMask (4 + chan))
    ((s.wr R.GLB_MEM 0).setBits R.MEM_FLAGS 1).event 0x0A02 (w32 ((3 + step % 3) * 2 ^ 8 + chan)) none

/-- PWR_STATE: the transition under way completes. -/
def execPwrState (s : State) : Host.Outcome State Fault Refusal :=
  .next (
    match s.boot.toPower with
    | none => s
    | some dst =>
      if (s.tb.raw - s.boot.powerRaw).toNat < s.pwrTime dst then s
      else
        let was := s.boot.power
        let s := if dst = .fenced ∨ was = .fenced then s.loseHigh else s
        let served := (s.rd R.MEM_STAT).getLsbD 31 && s.field R.GLB_MEM 0 8 != 0
        let s := if dst = .quiesce ∧ served then (s.setBits R.MEM_STAT (bitMask 30)).clrBits R.MEM_STAT (fldMask 8 4)
          else if was = .quiesce ∧ served then s.wakeMemory else s
        let s := { s with boot := { s.boot with power := dst, toPower := none, fenced := dst == Power.fenced } }
        let s := s.netDown
        (s.wr R.GLB_PWRSTAT (w32 (dst.num * 2 ^ 8 + s.field R.GLB_PWRSTAT 0 8))).event 0x0106 (w32 dst.num) none)

end Sys2Proof.Machine
end

