-- ==== Sys2Proof/Machine/Security.lean ====
section
/-! DEFINITION. The security controller after boot: rollback raises, artifact verification and locks, attestation, and its watchdog (R429,
R443, R446 to R451). -/

namespace Sys2Proof.Machine

open Sys2Proof

/-- The controller is at work: on an operation, or on a boot step (R451). -/
def State.secBusy (s : State) : Bool := s.boot.secOp.isSome || !s.running

/-- An operation begins. -/
def State.secStart (s : State) (op : SecOp) : State :=
  { s with boot := { s.boot with secOp := some op, secRaw := s.tb.raw, secTime := s.time } }

/-- An operation completes: the run of restarts ends (R426). -/
def State.secDone (s : State) : State := ({ s with boot := { s.boot with secOp := none } }).escOk 7 0 0

/-! ## Rollback (R443) -/

/-- ARB_RAISE_REQUEST. -/
def execArbRaiseRequest (target : BitVec 8) (s : State) : Host.Outcome State Fault Refusal :=
  .next (
    let t := min (min target.toNat s.boot.fwSvn) 64
    if !s.hostOn then s
    else if s.secBusy then s.setField R.SEC_ARBSTAT 0 8 0x0B
    else if t ≤ s.boot.svn then s.setField R.SEC_ARBSTAT 0 8 0
    else (s.secStart (.arb t)).wr R.SEC_ARBSTAT (bitMask 31))

/-- ARB_RAISED: the fuses up to the target are blown. -/
def execArbRaised (s : State) : Host.Outcome State Fault Refusal :=
  .next (
    match s.boot.secOp with
    | some (.arb t) =>
      let f := s.fuses
      let ones : Dword := w64 (2 ^ t - 1)
      let s := { s with
        fuses := { f with arbNorm := f.arbNorm ||| ones, arbHigh := f.arbHigh ||| ones }
        boot := { s.boot with svn := arbCount (f.arbNorm ||| ones) } }
      (s.secDone.wr R.SEC_ARBSTAT 0).event 0x0E03 (w32 s.boot.svn) none
    | _ => s)

/-! ## Artifacts (R447, R448) -/

/-- A verification for partition p has failed with a code. -/
def State.verifyFail (s : State) (p code : Nat) (busy : Bool) : State :=
  let s := s.wr R.SEC_VSTAT (w32 (b2n busy * 2 ^ 31 + p * 2 ^ 8 + code))
  (s.setBits R.SEC_FLAGS 1).event 0x0E02 (w32 (p + code * 2 ^ 8)) none

/-- A verification is under way. -/
def State.verifying (s : State) : Bool :=
  match s.boot.secOp with
  | some (.verify _) => true
  | _ => false

/-- ARTIFACT_VERIFY. -/
def execArtifactVerify (part : Nat) (s : State) : Host.Outcome State Fault Refusal :=
  .next (
    if !s.hostOn || decide (8 ≤ part) then s
    else if s.secBusy || s.loadPending part then s.verifyFail part 0x0B s.verifying
    else (s.secStart (.verify part)).wr R.SEC_VSTAT (w32 (2 ^ 31 + part * 2 ^ 8)))

/-- The parts that a manifest lists, each with the hash of one copy; none where it is not valid (R447). -/
def artParts (p : List Byte) : Option (List (LockPart × BitVec 384)) :=
  let n := leAt p 0 8
  if n < 1 ∨ 64 < n ∨ p.length < 64 + 64 * n then none
  else
    let parts := (List.range n).map fun i =>
      let e := slice p (64 + 64 * i) 64
      (LockPart.mk (leAt e 0 8) (leAt e 8 4) (leAt e 14 2) (leAt e 12 2 * 4096), BitVec.ofNat 384 (leAt e 16 48))
    if parts.all fun x => decide (1 ≤ x.1.copies) && decide (x.1.copies ≤ 128) then some parts else none

/-- Every copy of every part against its hash: 0x0A for one that differs, 0x09 for one that cannot be read. -/
def State.partsCode (s : State) (parts : List (LockPart × BitVec 384)) : State × Nat :=
  (parts.flatMap fun x => (List.range x.1.copies).map fun c => (x.1.addr + c * x.1.stride, x.1.len, x.2)).foldl
    (fun (r : State × Nat) x =>
      if r.2 ≠ 0 then r
      else
        let g := r.1.secRead x.1 x.2.1
        match g.2 with
        | none => (g.1, 9)
        | some bs => (g.1, if Config.sha3_384 bs = x.2.2 then 0 else 0x0A)) (s, 0)

/-- Payload bytes that fit behind a header at address a. -/
def State.artRoom (s : State) (a : Nat) : Nat :=
  match s.place a with
  | some p => s.memSize p.mem - p.off - imgHeader
  | none => 0

/-- ARTIFACT_VERIFY_DONE: on success the image is measured, its parts locked and the manifest's address written to SCH_MANp. -/
def execArtifactVerifyDone (s : State) : Host.Outcome State Fault Refusal :=
  .next (
    match s.boot.secOp with
    | some (.verify p) =>
      let a := (s.rd64 R.SEC_VADDR).toNat
      let h := s.secRead a imgHeader
      let img := h.2.getD []
      let room := h.1.artRoom a
      let q := if h.2.isNone || decide (room < imgPlen img) then (h.1, none) else h.1.secRead (a + imgHeader) (imgPlen img)
      let code := if h.2.isNone then 9 else q.1.imageCode img 2 room q.2 fun x => (artParts x).isSome
      let parts := ((q.2.bind artParts).getD [])
      let c := if code = 0 then q.1.partsCode parts else (q.1, code)
      let s := c.1.secDone
      if c.2 ≠ 0 then s.verifyFail p c.2 false
      else
        let b := s.boot
        let s := { (s.extend (4 + p) (imgDigest img)) with boot := { b with
          locks := FMap.upd b.locks p (some (parts.map fun (x : LockPart × BitVec 384) => x.1)), loaded := if b.loaded.testBit p then b.loaded - 2 ^ p else b.loaded } }
        (s.wr64 (R.SCH_MAN p) (w64 (a + imgHeader))).wr R.SEC_VSTAT (w32 (p * 2 ^ 8))
    | _ => s)

/-- SEC_UNLOCK. -/
def execSecUnlock (parts : BitVec 8) (s : State) : Host.Outcome State Fault Refusal :=
  .next (if s.hostOn then forEach (bitsOf 8 parts.toNat) s fun s p => s.unlock p else s)

/-! ## Attestation (R359, R449 to R451) -/

/-- ATTEST_REPORT_REQUEST: a report of the nonce in SEC_NONCE; a controller at work, or one whose attestation has stopped, gives code 0x0B. -/
def execAttestReportRequest (s : State) : Host.Outcome State Fault Refusal :=
  .next (
    if !s.hostOn then s
    else if s.secBusy || s.escalated 7 0 0 then s.setField R.SEC_ASTAT 0 8 0x0B
    else
      let nonce := (List.range 8).flatMap fun w => leBytes 4 (s.rd (R.SEC_NONCE w)).toNat
      (s.secStart (.report none nonce)).wr R.SEC_ASTAT (bitMask 31))

/-- Bytes 0x000 to 0xA9F of a report (R450). -/
def State.reportBody (s : State) (nonce : List Byte) : List Byte :=
  let f := s.fuses
  leBytes 4 1 ++ leBytes 4 6093 ++ leBytes 4 s.idWord.toNat ++ leBytes 4 s.coresWord.toNat ++ leBytes 16 f.serial.toNat ++
    padTo 32 (nonce.take 32) ++ leBytes 8 s.boot.secRaw.toNat ++ leBytes 8 s.boot.secTime.toNat ++
    leBytes 8 (s.boot.svn + b2n f.debugClose * 2 ^ 8 + b2n f.artsig * 2 ^ 9 + f.revoked % 16 * 2 ^ 10) ++ leBytes 8 0 ++
    ((List.range 8).flatMap fun p => leBytes 8 (s.rd64 (R.MIR_BHASH p)).toNat) ++ ((List.range 12).flatMap fun i => s.measured i) ++
    padTo 32 ((Config.edPub f.edSeed).take 32) ++ padTo 1952 ((Config.mlPub f.mlSeed).take 1952)

/-- A signed report of 6,093 bytes. -/
def State.report (s : State) (nonce : List Byte) : List Byte :=
  let m := s.reportBody nonce
  m ++ padTo 64 ((Config.edSign s.fuses.edSeed m).take 64) ++ padTo 3309 ((Config.mlSign s.fuses.mlSeed m).take 3309)

/-- ATTEST_REPORT_DONE: the report is written at SEC_AADDR, or sent in five ATTEST frames. -/
def execAttestReportDone (s : State) : Host.Outcome State Fault Refusal :=
  .next (
    match s.boot.secOp with
    | some (.report none nonce) =>
      let r := s.report nonce
      let a := (s.rd64 R.SEC_AADDR).toNat
      let s := s.secDone
      if s.openRange a r.length then ((s.writeBytes a r 0xC none false).st).wr R.SEC_ASTAT 0 else s.wr R.SEC_ASTAT 9
    | some (.report (some w) nonce) =>
      let r := s.report nonce
      forEach (List.range 5) s.secDone fun s i =>
        s.sendAnswer w 0x09 flagFRAG (beBytes 4 (i * 2 ^ 16 + 5) ++ slice r (1468 * i) 1468) false
    | _ => s)

/-! ## The watchdog (R429) -/

/-- The operation's number in SEC_RESTART: a free value, since R431 gives none (log entry 92). -/
def SecOp.num : SecOp → Nat
  | .verify _ => (Config.secOpCode 1).toNat
  | .arb _ => (Config.secOpCode 2).toNat
  | .report _ _ => (Config.secOpCode 3).toNat

/-- A request that a restart has cut off: a register request completes as busy, a Carr request is answered BUSY. -/
def State.secCut (s : State) : SecOp → State
  | .arb _ => s.wr R.SEC_ARBSTAT 0x0B
  | .verify p => s.wr R.SEC_VSTAT (w32 (p * 2 ^ 8 + 0x0B))
  | .report none _ => s.wr R.SEC_ASTAT 0x0B
  | .report (some w) _ => s.nak w 8 0

/-- SECURITY_WATCHDOG_EXPIRY: an operation past 500 ms restarts the controller. -/
def execSecurityWatchdogExpiry (s : State) : Host.Outcome State Fault Refusal :=
  .next (
    match s.boot.secOp with
    | some op =>
      if (s.tb.raw - s.boot.secRaw).toNat ≤ 500000000 then s
      else
        let s := ({ s with boot := { s.boot with secOp := none } }).event 0x0103 (w32 op.num) none
        (s.secCut op).escFail 7 0 0 op.num
    | none => s)

end Sys2Proof.Machine
end

