-- ==== Sys2Proof/Machine/Dispatch.lean ====
section
/-! DEFINITION. One arm per command: a direct call of its meaning. -/

namespace Sys2Proof.Machine

open Sys2Proof

/-- The effect of a command on everything but the queue. -/
def exec (i : Instr) (s : State) : Host.Outcome State Fault Refusal :=
  match i with
  | .porstN lowNs => Sys2Proof.Machine.execPorstN lowNs s
  | .perstN level => Sys2Proof.Machine.execPerstN level s
  | .chipReset value => Sys2Proof.Machine.execChipReset value s
  | .resetRelease pairRole bootSrc => Sys2Proof.Machine.execResetRelease pairRole bootSrc s
  | .brownout ns => Sys2Proof.Machine.execBrownout ns s
  | .temperatureSensorRead temps => Sys2Proof.Machine.execTemperatureSensorRead temps s
  | .tapInstruction ir => Sys2Proof.Machine.execTapInstruction ir s
  | .tapTestLogicReset => Sys2Proof.Machine.execTapTestLogicReset s
  | .bootFuseDone => Sys2Proof.Machine.execBootFuseDone s
  | .bootImageLoad flash => Sys2Proof.Machine.execBootImageLoad flash s
  | .bootVerifyDone payload => Sys2Proof.Machine.execBootVerifyDone payload s
  | .bootConfig => Sys2Proof.Machine.execBootConfig s
  | .lpddr6Training fit => Sys2Proof.Machine.execLpddr6Training fit s
  | .secBootctlGo => Sys2Proof.Machine.execSecBootctlGo s
  | .arbRaiseRequest target => Sys2Proof.Machine.execArbRaiseRequest target s
  | .arbRaised => Sys2Proof.Machine.execArbRaised s
  | .artifactVerify part => Sys2Proof.Machine.execArtifactVerify part s
  | .artifactVerifyDone => Sys2Proof.Machine.execArtifactVerifyDone s
  | .secUnlock parts => Sys2Proof.Machine.execSecUnlock parts s
  | .attestReportRequest => Sys2Proof.Machine.execAttestReportRequest s
  | .attestReportDone => Sys2Proof.Machine.execAttestReportDone s
  | .securityWatchdogExpiry => Sys2Proof.Machine.execSecurityWatchdogExpiry s
  | .memoryBistStart mem banks => Sys2Proof.Machine.execMemoryBistStart mem banks s
  | .memoryBistDone fails => Sys2Proof.Machine.execMemoryBistDone fails s
  | .tstMemctlOff => Sys2Proof.Machine.execTstMemctlOff s
  | .tstMemctlOn fit => Sys2Proof.Machine.execTstMemctlOn fit s
  | .pwrReqRun => Sys2Proof.Machine.execPwrReqRun s
  | .pwrReqFenced => Sys2Proof.Machine.execPwrReqFenced s
  | .pwrReqQuiesce => Sys2Proof.Machine.execPwrReqQuiesce s
  | .pwrState => Sys2Proof.Machine.execPwrState s
  | .tbCommitTime => Sys2Proof.Machine.execTbCommitTime s
  | .tbCommitPh => Sys2Proof.Machine.execTbCommitPh s
  | .tbCommitEvt => Sys2Proof.Machine.execTbCommitEvt s
  | .eventListTakesEffect => Sys2Proof.Machine.execEventListTakesEffect s
  | .tbSnapTake => Sys2Proof.Machine.execTbSnapTake s
  | .tbCoastEnd parts => Sys2Proof.Machine.execTbCoastEnd parts s
  | .phaseWrap => Sys2Proof.Machine.execPhaseWrap s
  | .phaseInEdge pin level => Sys2Proof.Machine.execPhaseInEdge pin level s
  | .candidateEdge pin => Sys2Proof.Machine.execCandidateEdge pin s
  | .phaseMiss => Sys2Proof.Machine.execPhaseMiss s
  | .phaseTrigger entry => Sys2Proof.Machine.execPhaseTrigger entry s
  | .timeTrigger entry => Sys2Proof.Machine.execTimeTrigger entry s
  | .pulseEnd => Sys2Proof.Machine.execPulseEnd s
  | .effectiveAnchor part group => Sys2Proof.Machine.execEffectiveAnchor part group s
  | .phaseCoastEnd part => Sys2Proof.Machine.execPhaseCoastEnd part s
  | .slotStart part slot => Sys2Proof.Machine.execSlotStart part slot s
  | .slotEnd part slot => Sys2Proof.Machine.execSlotEnd part slot s
  | .seqInstanceStart core part slot pos => Sys2Proof.Machine.execSeqInstanceStart core part slot pos s
  | .groupBTileStart part slot eng gap => Sys2Proof.Machine.execGroupBTileStart part slot eng gap s
  | .commandWatchdogExpiry eng => Sys2Proof.Machine.execCommandWatchdogExpiry eng s
  | .schTdreqWrite value => Sys2Proof.Machine.execSchTdreqWrite value s
  | .reedbedWrite ctx word value be => Sys2Proof.Machine.execReedbedWrite ctx word value be s
  | .schCommitLoad parts man => Sys2Proof.Machine.execSchCommitLoad parts man s
  | .admissionDone => Sys2Proof.Machine.execAdmissionDone s
  | .tableApplied part => Sys2Proof.Machine.execTableApplied part s
  | .bestEffortTableApply part => Sys2Proof.Machine.execBestEffortTableApply part s
  | .spillMoveDone part handle unit => Sys2Proof.Machine.execSpillMoveDone part handle unit s
  | .schCommitUnload parts => Sys2Proof.Machine.execSchCommitUnload parts s
  | .partitionUnload part => Sys2Proof.Machine.execPartitionUnload part s
  | .schHotreqGo part model => Sys2Proof.Machine.execSchHotreqGo part model s
  | .hotsetResidentNone part => Sys2Proof.Machine.execHotsetResidentNone part s
  | .hotsetReloadDone cluster => Sys2Proof.Machine.execHotsetReloadDone cluster s
  | .hotsetSwapped part => Sys2Proof.Machine.execHotsetSwapped part s
  | .bestEffortPollTimer => Sys2Proof.Machine.execBestEffortPollTimer s
  | .ringWriteback => Sys2Proof.Machine.execRingWriteback s
  | .alu core f => Sys2Proof.Machine.execAlu core f s
  | .addi core f => Sys2Proof.Machine.execAddi core f s
  | .andi core f => Sys2Proof.Machine.execAndi core f s
  | .ori core f => Sys2Proof.Machine.execOri core f s
  | .xori core f => Sys2Proof.Machine.execXori core f s
  | .shi core f => Sys2Proof.Machine.execShi core f s
  | .slti core f => Sys2Proof.Machine.execSlti core f s
  | .sltiu core f => Sys2Proof.Machine.execSltiu core f s
  | .lih core f => Sys2Proof.Machine.execLih core f s
  | .csel core f => Sys2Proof.Machine.execCsel core f s
  | .mul core f => Sys2Proof.Machine.execMul core f s
  | .div core f => Sys2Proof.Machine.execDiv core f s
  | .dec core f => Sys2Proof.Machine.execDec core f s
  | .lb core f => Sys2Proof.Machine.execLb core f s
  | .lbu core f => Sys2Proof.Machine.execLbu core f s
  | .lh core f => Sys2Proof.Machine.execLh core f s
  | .lhu core f => Sys2Proof.Machine.execLhu core f s
  | .lw core f => Sys2Proof.Machine.execLw core f s
  | .lwp core f => Sys2Proof.Machine.execLwp core f s
  | .flw core f => Sys2Proof.Machine.execFlw core f s
  | .fld core f => Sys2Proof.Machine.execFld core f s
  | .sb core f => Sys2Proof.Machine.execSb core f s
  | .sh core f => Sys2Proof.Machine.execSh core f s
  | .sw core f => Sys2Proof.Machine.execSw core f s
  | .swp core f => Sys2Proof.Machine.execSwp core f s
  | .fsw core f => Sys2Proof.Machine.execFsw core f s
  | .fsd core f => Sys2Proof.Machine.execFsd core f s
  | .brEq core f => Sys2Proof.Machine.execBrEq core f s
  | .brNe core f => Sys2Proof.Machine.execBrNe core f s
  | .brLt core f => Sys2Proof.Machine.execBrLt core f s
  | .brGe core f => Sys2Proof.Machine.execBrGe core f s
  | .brLtu core f => Sys2Proof.Machine.execBrLtu core f s
  | .brGeu core f => Sys2Proof.Machine.execBrGeu core f s
  | .call core f => Sys2Proof.Machine.execCall core f s
  | .callr core f => Sys2Proof.Machine.execCallr core f s
  | .loop core f => Sys2Proof.Machine.execLoop core f s
  | .seqEnd core f => Sys2Proof.Machine.execSeqEnd core f s
  | .endComplete core => Sys2Proof.Machine.execEndComplete core s
  | .idle core f => Sys2Proof.Machine.execIdle core f s
  | .nop core f => Sys2Proof.Machine.execNop core f s
  | .fbar core f => Sys2Proof.Machine.execFbar core f s
  | .fbarSnapshot core => Sys2Proof.Machine.execFbarSnapshot core s
  | .csr core f => Sys2Proof.Machine.execCsr core f s
  | .eret core f => Sys2Proof.Machine.execEret core f s
  | .brk core f => Sys2Proof.Machine.execBrk core f s
  | .corTrapClr core => Sys2Proof.Machine.execCorTrapClr core s
  | .reservedEncoding core word => Sys2Proof.Machine.execReservedEncoding core word s
  | .fop core f => Sys2Proof.Machine.execFop core f s
  | .fmadd core f => Sys2Proof.Machine.execFmadd core f s
  | .fmsub core f => Sys2Proof.Machine.execFmsub core f s
  | .fnmadd core f => Sys2Proof.Machine.execFnmadd core f s
  | .fnmsub core f => Sys2Proof.Machine.execFnmsub core f s
  | .fcmp core f => Sys2Proof.Machine.execFcmp core f s
  | .fcvt core f => Sys2Proof.Machine.execFcvt core f s
  | .fmv core f => Sys2Proof.Machine.execFmv core f s
  | .fsel core f => Sys2Proof.Machine.execFsel core f s
  | .vld core f => Sys2Proof.Machine.execVld core f s
  | .vst core f => Sys2Proof.Machine.execVst core f s
  | .vop core f => Sys2Proof.Machine.execVop core f s
  | .vq8 core f => Sys2Proof.Machine.execVq8 core f s
  | .vfma core f => Sys2Proof.Machine.execVfma core f s
  | .vred core f => Sys2Proof.Machine.execVred core f s
  | .vrand core f => Sys2Proof.Machine.execVrand core f s
  | .amm core f => Sys2Proof.Machine.execAmm core f s
  | .accumulatorsComplete core array => Sys2Proof.Machine.execAccumulatorsComplete core array s
  | .ast core f => Sys2Proof.Machine.execAst core f s
  | .dmago core f => Sys2Proof.Machine.execDmago core f s
  | .sig core f => Sys2Proof.Machine.execSig core f s
  | .wait core f => Sys2Proof.Machine.execWait core f s
  | .seqWaitMet core => Sys2Proof.Machine.execSeqWaitMet core s
  | .srst core f => Sys2Proof.Machine.execSrst core f s
  | .dlayer core f => Sys2Proof.Machine.execDlayer core f s
  | .syncObjectArrival obj => Sys2Proof.Machine.execSyncObjectArrival obj s
  | .fennelCommandStart cluster part slot pos => Sys2Proof.Machine.execFennelCommandStart cluster part slot pos s
  | .fenBprod cluster op => Sys2Proof.Machine.execFenBprod cluster op s
  | .fenBmv cluster op => Sys2Proof.Machine.execFenBmv cluster op s
  | .fenVop cluster op => Sys2Proof.Machine.execFenVop cluster op s
  | .fenVld cluster op => Sys2Proof.Machine.execFenVld cluster op s
  | .fenVst cluster op => Sys2Proof.Machine.execFenVst cluster op s
  | .fenDld cluster op => Sys2Proof.Machine.execFenDld cluster op s
  | .fenDst cluster op => Sys2Proof.Machine.execFenDst cluster op s
  | .fenPiv cluster op => Sys2Proof.Machine.execFenPiv cluster op s
  | .fenLinv cluster op => Sys2Proof.Machine.execFenLinv cluster op s
  | .fenRes cluster op => Sys2Proof.Machine.execFenRes cluster op s
  | .fenInf cluster op => Sys2Proof.Machine.execFenInf cluster op s
  | .fenPub cluster op => Sys2Proof.Machine.execFenPub cluster op s
  | .fenBody cluster op => Sys2Proof.Machine.execFenBody cluster op s
  | .fenNext cluster op => Sys2Proof.Machine.execFenNext cluster op s
  | .fenEnd cluster op => Sys2Proof.Machine.execFenEnd cluster op s
  | .fennelDeadline cluster part slot pos => Sys2Proof.Machine.execFennelDeadline cluster part slot pos s
  | .cluCalcommit cluster => Sys2Proof.Machine.execCluCalcommit cluster s
  | .calcfgApply cluster => Sys2Proof.Machine.execCalcfgApply cluster s
  | .cluCalclr cluster entries => Sys2Proof.Machine.execCluCalclr cluster entries s
  | .cluCalclose cluster entries => Sys2Proof.Machine.execCluCalclose cluster entries s
  | .calibWindowClose cluster entry => Sys2Proof.Machine.execCalibWindowClose cluster entry s
  | .podNormalDrain core => Sys2Proof.Machine.execPodNormalDrain core s
  | .correctionWriteBack mem bank => Sys2Proof.Machine.execCorrectionWriteBack mem bank s
  | .scrubRead mem bank => Sys2Proof.Machine.execScrubRead mem bank s
  | .scrubWrite mem bank => Sys2Proof.Machine.execScrubWrite mem bank s
  | .lpddr6ScrubRead => Sys2Proof.Machine.execLpddr6ScrubRead s
  | .eccRmcommit mem => Sys2Proof.Machine.execEccRmcommit mem s
  | .remapAdded mem => Sys2Proof.Machine.execRemapAdded mem s
  | .eccInjectArm mem => Sys2Proof.Machine.execEccInjectArm mem s
  | .spdPgctlPowerDown mem banks => Sys2Proof.Machine.execSpdPgctlPowerDown mem banks s
  | .spdPgctlPowerUp mem banks => Sys2Proof.Machine.execSpdPgctlPowerUp mem banks s
  | .bankOff mem bank => Sys2Proof.Machine.execBankOff mem bank s
  | .bankPdAbort mem bank => Sys2Proof.Machine.execBankPdAbort mem bank s
  | .bankWakeDone mem bank => Sys2Proof.Machine.execBankWakeDone mem bank s
  | .dmaChctlGo cluster chan didx => Sys2Proof.Machine.execDmaChctlGo cluster chan didx s
  | .dmaChctlStop cluster chan => Sys2Proof.Machine.execDmaChctlStop cluster chan s
  | .dmaChctlResume cluster chan => Sys2Proof.Machine.execDmaChctlResume cluster chan s
  | .dmaChctlSkip cluster chan => Sys2Proof.Machine.execDmaChctlSkip cluster chan s
  | .dmaChctlClear cluster chan => Sys2Proof.Machine.execDmaChctlClear cluster chan s
  | .dmaNop cluster chan => Sys2Proof.Machine.execDmaNop cluster chan s
  | .dmaCopy cluster chan => Sys2Proof.Machine.execDmaCopy cluster chan s
  | .dmaFill cluster chan => Sys2Proof.Machine.execDmaFill cluster chan s
  | .dmaSignal cluster chan => Sys2Proof.Machine.execDmaSignal cluster chan s
  | .dmaWait cluster chan => Sys2Proof.Machine.execDmaWait cluster chan s
  | .dmaWaitMet cluster chan => Sys2Proof.Machine.execDmaWaitMet cluster chan s
  | .dmaReset cluster chan => Sys2Proof.Machine.execDmaReset cluster chan s
  | .dmaDescriptorComplete cluster chan => Sys2Proof.Machine.execDmaDescriptorComplete cluster chan s
  | .dmaWatchdogExpiry cluster chan => Sys2Proof.Machine.execDmaWatchdogExpiry cluster chan s
  | .lpddr6RequestComplete unit write partialWord => Sys2Proof.Machine.execLpddr6RequestComplete unit write partialWord s
  | .lpddr6ZqLatch => Sys2Proof.Machine.execLpddr6ZqLatch s
  | .lpddr6OscRead drift => Sys2Proof.Machine.execLpddr6OscRead drift s
  | .lpddr6TempRead chan mult => Sys2Proof.Machine.execLpddr6TempRead chan mult s
  | .lpddr6PowerDownEntry chan => Sys2Proof.Machine.execLpddr6PowerDownEntry chan s
  | .ethLink port up => Sys2Proof.Machine.execEthLink port up s
  | .ethCommit port => Sys2Proof.Machine.execEthCommit port s
  | .ethGroupApply port => Sys2Proof.Machine.execEthGroupApply port s
  | .ethFrame rx => Sys2Proof.Machine.execEthFrame rx s
  | .pauseFrame rx => Sys2Proof.Machine.execPauseFrame rx s
  | .meas rx => Sys2Proof.Machine.execMeas rx s
  | .measPlacementDone ctx job => Sys2Proof.Machine.execMeasPlacementDone ctx job s
  | .rd rx => Sys2Proof.Machine.execRd rx s
  | .wr rx => Sys2Proof.Machine.execWr rx s
  | .wrComplete txn => Sys2Proof.Machine.execWrComplete txn s
  | .ack rx => Sys2Proof.Machine.execAck rx s
  | .nak rx => Sys2Proof.Machine.execNak rx s
  | .phase rx => Sys2Proof.Machine.execPhase rx s
  | .hello rx => Sys2Proof.Machine.execHello rx s
  | .helloSendTimer peer => Sys2Proof.Machine.execHelloSendTimer peer s
  | .attest rx => Sys2Proof.Machine.execAttest rx s
  | .carrRequestTimeout peer seq => Sys2Proof.Machine.execCarrRequestTimeout peer seq s
  | .carrCommitParse => Sys2Proof.Machine.execCarrCommitParse s
  | .carrOutputCommit part slot pos => Sys2Proof.Machine.execCarrOutputCommit part slot pos s
  | .launchSelect port => Sys2Proof.Machine.execLaunchSelect port s
  | .frameTransmitted port rawRef => Sys2Proof.Machine.execFrameTransmitted port rawRef s
  | .hostTxRingPoll => Sys2Proof.Machine.execHostTxRingPoll s
  | .mirLane lane up => Sys2Proof.Machine.execMirLane lane up s
  | .hb rx => Sys2Proof.Machine.execHb rx s
  | .heartbeatMiss => Sys2Proof.Machine.execHeartbeatMiss s
  | .digest rx => Sys2Proof.Machine.execDigest rx s
  | .cmpwinExpiry ctx job => Sys2Proof.Machine.execCmpwinExpiry ctx job s
  | .mirrorFrameSend sub => Sys2Proof.Machine.execMirrorFrameSend sub s
  | .inote rx => Sys2Proof.Machine.execInote rx s
  | .forwardWaitExpiry ctx job seq => Sys2Proof.Machine.execForwardWaitExpiry ctx job seq s
  | .fwdreq rx => Sys2Proof.Machine.execFwdreq rx s
  | .fwd rx => Sys2Proof.Machine.execFwd rx s
  | .fwdFragmentTimeout lane => Sys2Proof.Machine.execFwdFragmentTimeout lane s
  | .mirrorRd rx => Sys2Proof.Machine.execMirrorRd rx s
  | .mirCtlHandover => Sys2Proof.Machine.execMirCtlHandover s
  | .mirCtlTake => Sys2Proof.Machine.execMirCtlTake s
  | .mirCtlYield => Sys2Proof.Machine.execMirCtlYield s
  | .mirCommit => Sys2Proof.Machine.execMirCommit s
  | .mirGroupApply => Sys2Proof.Machine.execMirGroupApply s
  | .mirDivclr => Sys2Proof.Machine.execMirDivclr s
  | .reg64LowRead off => Sys2Proof.Machine.execReg64LowRead off s
  | .rcRegisterRead off => Sys2Proof.Machine.execRcRegisterRead off s
  | .registerWrite off value be => Sys2Proof.Machine.execRegisterWrite off value be s
  | .bar2Read off len => Sys2Proof.Machine.execBar2Read off len s
  | .bar2Write off data ep => Sys2Proof.Machine.execBar2Write off data ep s
  | .inboundWaitExpiry isRead => Sys2Proof.Machine.execInboundWaitExpiry isRead s
  | .pcieFlr => Sys2Proof.Machine.execPcieFlr s
  | .pcieHotReset => Sys2Proof.Machine.execPcieHotReset s
  | .pcieLink up speed width => Sys2Proof.Machine.execPcieLink up speed width s
  | .outboundCompletion tag status data => Sys2Proof.Machine.execOutboundCompletion tag status data s
  | .outboundCompletionTimeout tag => Sys2Proof.Machine.execOutboundCompletionTimeout tag s
  | .logRecordWrite => Sys2Proof.Machine.execLogRecordWrite s
  | .logCoalesceExpiry => Sys2Proof.Machine.execLogCoalesceExpiry s
  | .glbCommitLog => Sys2Proof.Machine.execGlbCommitLog s
  | .logGroupApply => Sys2Proof.Machine.execLogGroupApply s
  | .glbEscclr value => Sys2Proof.Machine.execGlbEscclr value s
  | .glbHosthb => Sys2Proof.Machine.execGlbHosthb s
  | .hostSilent => Sys2Proof.Machine.execHostSilent s
  | .reg64HighRead off => Sys2Proof.Machine.execReg64HighRead off s
  | .pcieConfigRequest req => Sys2Proof.Machine.execPcieConfigRequest req s
  | .dmaInstancePositionStart part slot pos => Sys2Proof.Machine.execDmaInstancePositionStart part slot pos s
  | .unkTypeFrame rx => Sys2Proof.Machine.execUnkTypeFrame rx s
  | .linkCheckerLock lane => Sys2Proof.Machine.execLinkCheckerLock lane s

end Sys2Proof.Machine
end

