-- ==== Sys2Proof/Machine/Tick.lean ====
section
/-! DEFINITION. One cycle of 5 ns, which passes when no command waits (log entry 8): the arrays and
stores of the cores, the scrubbers' laps, the clocks, the Reedbed walks, and the commit lanes. -/

namespace Sys2Proof.Machine

/-- One cycle: what is left of it ends, the clocks move, and what the next one begins with takes effect. -/
def State.tick (s : State) : State :=
  let s := s.tickCores.tickDma.tickLaps.tickClaims.tickCal
  ((s.tickTime.calWritten s.cyc.cal.close).tickBanks).tickWalks.tickLanes

end Sys2Proof.Machine
end

