-- ==== Sys2Proof/Safety.lean ====
section
/-! DEFINITION. What counts as a safe state, and the frames that claims are stated in: what a command may have changed. -/

namespace Sys2Proof.Machine

/-- The memory lists rising addresses. -/
def Memory.wf (m : List Host.Cell) : Bool := FMap.rising m

/-- A pod buffer of core n in order (R244): at most four entries with slots and rows of their own, the rows in the core's scratchpad, and
in each the words of its row at most once. -/
structure PodOk (n : Nat) (pod : List PodEntry) : Prop where
  slots : (pod.map (·.slot)).Nodup ∧ ∀ e ∈ pod, e.slot < 4
  rows  : (pod.map (·.row)).Nodup ∧ ∀ e ∈ pod, e.row % 128 = 0 ∧ memBase n ≤ e.row ∧ e.row < memBase n + 0x100000
  words : ∀ e ∈ pod, FMap.rising e.words = true ∧ ∀ x ∈ e.words, x.1 < 16

/-- The state's tables are in canonical form, the event queue holds at most 64 records (R423), and the pod buffers are in order. -/
structure State.Inv (s : State) : Prop where
  mem   : Memory.wf s.mem = true
  syn   : FMap.rising s.syn = true
  regs  : FMap.rising s.regs = true
  queue : s.log.queue.length ≤ 64
  pods  : ∀ n, PodOk n (s.core n).pod

/-! ## Frames -/

/-- The registers that an event record can write: its sequence number, the drop count, the last records and the pending bits of
vectors (R408, R422, R423). -/
def eventReg (o : Nat) : Prop :=
  o = R.GLB_LOGSEQ ∨ o = R.GLB_LOGDROP ∨ (R.GLB_LOGLAST 0 ≤ o ∧ o < R.GLB_LOGLAST 512) ∨ (R.PCI_PBA 0 ≤ o ∧ o < R.PCI_PBA 2)

/-- The registers that event records and escalations can write (R422, R423, R426). -/
def escReg (o : Nat) : Prop := eventReg o ∨ o = R.GLB_ESCSTAT ∨ o = R.GLB_ESCLAST

/-- The flags and counts that a cycle has noted (R20), taken from another record of it. -/
def Cycle.flags (c d : Cycle) : Cycle := { c with sets := d.sets, incs := d.incs }

/-- From s to t nothing but event records, and the escalation of a unit, has happened. -/
structure State.Logged (s t : State) : Prop where
  rest : t = { s with regs := t.regs, log := t.log, out := t.out, esc := t.esc, cyc := s.cyc.flags t.cyc }
  regs : ∀ o, ¬ escReg o → t.rd o = s.rd o

/-- From s to t nothing but registers has changed, and of them only those of `c`, event records and escalations aside. -/
structure State.Regs (c : Nat → Prop) (s t : State) : Prop where
  rest : t = { s with regs := t.regs, log := t.log, out := t.out, esc := t.esc, cyc := s.cyc.flags t.cyc }
  regs : ∀ o, ¬ c o → ¬ escReg o → t.rd o = s.rd o

/-- Registers outside those of `c` read as before, event records and escalations aside. -/
def State.RegsBut (c : Nat → Prop) (s t : State) : Prop := ∀ o, ¬ c o → ¬ escReg o → t.rd o = s.rd o

/-- Every byte of memory reads as before. -/
def State.SameMem (s t : State) : Prop := ∀ a, t.byteAt a = s.byteAt a

/-- The registers of the error-correction block (R268 to R300). -/
def eccReg (o : Nat) : Prop := 0x700000 ≤ o ∧ o < 0x800000

/-- From s to t nothing but reads of memory has happened: errors found are counted, logged and corrected (R274 to R277). -/
structure State.OnlyRead (s t : State) : Prop where
  rest  : t = { s with
    regs := t.regs, log := t.log, out := t.out, esc := t.esc, mem := t.mem, syn := t.syn, cores := t.cores, integ := t.integ
    cyc := s.cyc.flags t.cyc }
  cores : ∀ n, t.core n = { s.core n with pod := (t.core n).pod }
  regs  : ∀ o, ¬ eccReg o → ¬ escReg o → t.rd o = s.rd o

/-- One step that neither faults nor is refused. -/
def State.Goes (s t : State) : Prop := step s = .next t

end Sys2Proof.Machine
end

