-- ==== Sys2Proof/Certificates/Slice0/Obligations.lean ====
section
/-! DEFINITION. The statements about the model, from the spec's rules. The helpers of the first part say what a core's instruction
may change; each obligation after them is a proposition of its own. -/

namespace Sys2Proof.Claims

open Sys2Proof Sys2Proof.Machine

/-! ## Frames of core instructions -/

/-- Word `w` is fetched by core n of state s, which leaves state v with the core's command running (R115, R283). -/
def Fetches (s : State) (n : Nat) (w : Word) (v : State) : Prop :=
  s.canIssue n = true ∧ s.fetch n = .ok v ∧ (v.core n).run = true ∧ Isa.reserved w = false

/-- Core n of state v waits until the scoreboard lets its word issue, in cycle k of state u (R117): what its arrays and stores do in
these cycles is done by then, and where they have nothing to do the state stays. -/
structure Waits (v u : State) (n k : Nat) : Prop where
  board : ∃ p, State.await (v.coreRt n) n p ((v.core n).work + 1) v = (u, k)
  after : (u.core n).now ≤ k
  idle  : (v.core n).nextAt = none → u = v

/-- The word has issued in cycle k of state u and is counted: of state x nothing else has changed. -/
structure Counted (u x : State) (n k : Nat) : Prop where
  rest   : x = { u with
    cores := x.cores, regs := x.regs, cyc := { u.cyc.flags x.cyc with when := some ((u.core n).begRaw + BitVec.ofNat 64 (5 * k)) } }
  core   : x.core n = { u.core n with last := (u.core n).pc, issAt := k }
  others : ∀ m, m ≠ n → x.core m = u.core m
  regs   : ∀ o, o ≠ R.COR_ISSUE n → o ≠ R.COR_STALLC n → x.rd o = u.rd o
  count  : x.rd (R.COR_ISSUE n) = satAdd (u.rd (R.COR_ISSUE n)) 1

/-- Instruction i of core n, fetched in state v, issues: P holds of the counted state, the cycle of the issue and the state after the
instruction. A core that is torn down while it waits issues nothing. -/
def Issues (i : Instr) (s v : State) (n : Nat) (P : State → Nat → State → Prop) : Prop :=
  ∃ t u k, exec i s = .next t ∧ Waits v u n k ∧ ((u.core n).run = false → t = u.timedAt none) ∧
    ((u.core n).run = true → ∃ x, Counted u x n k ∧ P x k t)

/-- Of core c nothing but its registers, its place in the program and its scoreboard has changed; its tile ends where the next begins (R96). -/
def Quiet (c d : Core) : Prop :=
  d = { c with
    g := d.g, f := d.f, v := d.v, pc := d.pc, last := d.last, loops := d.loops, now := d.now, ready := d.ready
    mulFree := d.mulFree, divFree := d.divFree, fpFree := d.fpFree, late := d.late, doneAt := d.doneAt
    ended := d.ended, tileEnd := d.tileEnd } ∧
  if c.ended = false ∧ c.tileAt = some d.pc then d.ended = true ∧ d.tileEnd = true else d.ended = c.ended ∧ d.tileEnd = c.tileEnd

/-- What an instruction writes. -/
inductive Dest where
  /-- g[i], or an even-odd pair from g[i] (R133), or f[i], or the lanes of v[i], or nothing. -/
  | g (i : Nat) (v : Word) | pair (i : Nat) (v : Dword) | f (i : Nat) (v : Dword) | v (i : Nat) (lane : Nat → Word) | none

/-- The registers of d are those of c but for the destination; g0 reads zero and takes no write (R121). -/
def Writes (c d : Core) : Dest → Prop
  | .g i v => (d.gr 0 = 0 ∧ ∀ k, k ≠ 0 → d.gr k = if k = i then v else c.gr k) ∧ d.f = c.f ∧ d.v = c.v
  | .pair i v =>
    (d.gr 0 = 0 ∧ ∀ k, k ≠ 0 → d.gr k = if k = i then lo32 v else if k = i + 1 then hi32 v else c.gr k) ∧ d.f = c.f ∧ d.v = c.v
  | .f i v => (∀ k, d.fr k = if k = i then v else c.fr k) ∧ d.g = c.g ∧ d.v = c.v
  | .v i lane => (∀ k l, l < 16 → d.lane k l = if k = i then lane l else c.lane k l) ∧ d.g = c.g ∧ d.f = c.f
  | .none => d.g = c.g ∧ d.f = c.f ∧ d.v = c.v

/-- The core goes on at an index, with the loops still running, after the cycle of its issue (R151). -/
def MovesOn (c d : Core) (k : Nat) (nx : Nat × List HwLoop) : Prop :=
  d.last = c.pc ∧ d.pc = nx.1 % 2 ^ 14 ∧ d.loops = nx.2 ∧ k < d.now

/-- The next index, as R151 gives it after an instruction that does not jump. -/
def onward (c : Core) : Nat × List HwLoop := loopNext c.loops c.pc

/-- The flags an instruction raised are still to be set, in XFLAGS, and no others (R124). -/
def Raises (c d : Core) (k flags : Nat) : Prop :=
  if flags = 0 then d.late = c.late else ∃ j, k < j ∧ d.late = c.late ++ [(j, flags, 0)]

/-- The exception of cause k (R152) is among the flags raised, or a tiny result for the underflow trap (R135), and enabled in FCTL
(R123: the enables of causes 1 to 9 are FCTL[12:4]). -/
def Caused (c : Core) (flags k : Nat) : Prop :=
  c.fctl.getLsbD (k + 3) = true ∧ (flags.testBit (if k ≤ 5 then k - 1 else k + 2) = true ∨ (k = 4 ∧ flags.testBit 16 = true))

/-- The instruction traps (R139, R140): the partition is best-effort, and an exception that it can raise is raised and enabled. -/
def Traps (x : State) (n flags : Nat) (can : List Nat) : Prop := x.coreRt n = false ∧ ∃ k ∈ can, Caused (x.core n) flags k

/-- What an instruction writes, the flags it raises, and the causes of the exceptions that it can raise (R141). -/
structure Result where
  dest  : Dest
  flags : Nat := 0
  can   : List Nat := []

/-- From y to t core n goes on after its instruction issued in cycle k: it has changed by g, and its registers, flags and place in the
program as R151 and the result say; nothing else has. -/
def Ran (y t : State) (n k : Nat) (g : Core → Core) (nx : Core → Nat × List HwLoop) (r : Result) : Prop :=
  t = { y with cores := t.cores, cyc := { y.cyc with when := none } } ∧ (∀ m, m ≠ n → t.core m = y.core m) ∧
    Quiet (g (y.core n)) (t.core n) ∧ MovesOn (y.core n) (t.core n) k (nx (y.core n)) ∧ Writes (g (y.core n)) (t.core n) r.dest ∧
    Raises (g (y.core n)) (t.core n) k (Nat.land r.flags 0x3F1F)

/-- An instruction of core n, whenever it issues and does not trap, writes its result and nothing else. -/
def Completes (mk : Nat → IsaFields → Instr) (op : Nat) (res : Core → Word → Result) : Prop :=
  ∀ n f s v, Fetches s n (isaWord op f) v → Issues (mk n f) s v n fun x k t =>
    let r := res (x.core n) (isaWord op f)
    ¬ Traps x n r.flags r.can → Ran x t n k id onward r

/-- An instruction without exceptions that writes `val` to g[rd]. -/
def WritesG (mk : Nat → IsaFields → Instr) (op : Nat) (val : Core → Word → Word) : Prop :=
  Completes mk op fun c w => { dest := .g (Isa.rd w) (val c w) }

/-- The operands of a register form. -/
def rsA (c : Core) (w : Word) : Word := c.gr (Isa.rs1 w)
def rsB (c : Core) (w : Word) : Word := c.gr (Isa.rs2 w)

/-- The immediate, sign-extended (R125). -/
def imm (w : Word) : Word := BitVec.ofInt 32 (Isa.imm w)

end Sys2Proof.Claims

open Sys2Proof Sys2Proof.Machine Sys2Proof.Claims

/-! ## The core instruction set -/

/-- R128, R130: the immediate forms write g[rs1] combined with the sign-extended immediate to g[rd]. -/
def Sys2Proof.Claims.ImmediateResults : Prop :=
  WritesG .addi 0x02 (fun c w => rsA c w + imm w) ∧
  WritesG .andi 0x03 (fun c w => rsA c w &&& imm w) ∧
  WritesG .ori 0x04 (fun c w => rsA c w ||| imm w) ∧
  WritesG .xori 0x05 (fun c w => rsA c w ^^^ imm w) ∧
  WritesG .slti 0x07 (fun c w => if (rsA c w).toInt < (imm w).toInt then 1 else 0) ∧
  WritesG .sltiu 0x08 (fun c w => if (rsA c w).toNat < (imm w).toNat then 1 else 0) ∧
  WritesG .shi 0x06 (fun c w =>
    let k := fld w 0 5
    match fld w 13 2 with
    | 0 => rsA c w <<< k
    | 1 => rsA c w >>> k
    | _ => (rsA c w).sshiftRight k) ∧
  WritesG .lih 0x09 (fun _ w => BitVec.ofNat 32 (fld w 0 20 * 4096))

/-- R128, R130: ALU by its func, CSEL, and MUL with the high halves of signed, unsigned and mixed products. -/
def Sys2Proof.Claims.RegisterResults : Prop :=
  WritesG .alu 0x01 (fun c w =>
    let a := rsA c w
    let b := rsB c w
    match fld w 0 4 with
    | 0 => a + b
    | 1 => a - b
    | 2 => a &&& b
    | 3 => a ||| b
    | 4 => a ^^^ b
    | 5 => a <<< (b.toNat % 32)
    | 6 => a >>> (b.toNat % 32)
    | 7 => a.sshiftRight (b.toNat % 32)
    | 8 => if a.toInt < b.toInt then 1 else 0
    | 9 => if a.toNat < b.toNat then 1 else 0
    | 10 => if a.toInt ≤ b.toInt then a else b
    | 11 => if a.toInt ≤ b.toInt then b else a
    | 12 => if a.toNat ≤ b.toNat then a else b
    | _ => if a.toNat ≤ b.toNat then b else a) ∧
  WritesG .csel 0x0A (fun c w => if c.gr (Isa.r3 w) = 0 then rsB c w else rsA c w) ∧
  WritesG .mul 0x0B (fun c w =>
    let a := rsA c w
    let b := rsB c w
    match fld w 0 2 with
    | 0 => BitVec.ofNat 32 (a.toNat * b.toNat)
    | 1 => BitVec.ofInt 32 (a.toInt * b.toInt / 4294967296)
    | 2 => BitVec.ofNat 32 (a.toNat * b.toNat / 4294967296)
    | _ => BitVec.ofInt 32 (a.toInt * (b.toNat : Int) / 4294967296))

/-- R132: DIV by its func, with its special cases, its flags DZ and OVF, and no trap while they are not enabled. -/
def Sys2Proof.Claims.DivideResults : Prop :=
  Completes .div 0x0C fun c w =>
    let a := rsA c w
    let b := rsB c w
    let q := fld w 0 2
    { dest := .g (Isa.rd w) (
        if b = 0 then (if q ≤ 1 then 0xFFFFFFFF else a)
        else if a = 0x80000000 ∧ b = 0xFFFFFFFF then (if q = 0 ∨ q = 3 then 0x80000000 else 0)
        else match q with
          | 0 => BitVec.ofInt 32 (Int.tdiv a.toInt b.toInt)
          | 1 => BitVec.ofNat 32 (a.toNat / b.toNat)
          | 2 => BitVec.ofInt 32 (Int.tmod a.toInt b.toInt)
          | _ => BitVec.ofNat 32 (a.toNat % b.toNat))
      flags := if b = 0 then 0x200 else if q = 0 ∧ a = 0x80000000 ∧ b = 0xFFFFFFFF then 0x100 else 0
      can := if q = 0 then [6, 7] else [7] }

namespace Sys2Proof.Claims

open Sys2Proof Sys2Proof.Machine

/-- Digit i of a packed-decimal pair, and its sign nibble (R133). -/
def bcdDigit (d : Dword) (i : Nat) : Nat := d.toNat / 16 ^ i % 16

/-- A legal packed-decimal pair: fifteen digits and a sign of 0x0 or 0xF (R133, R134). -/
def bcdLegal (d : Dword) : Prop := (∀ i, i < 15 → bcdDigit d i ≤ 9) ∧ (bcdDigit d 15 = 0 ∨ bcdDigit d 15 = 15)

/-- The magnitude and the value that a pair spells. -/
def bcdSize (d : Dword) : Nat := (List.range 15).foldr (fun i v => bcdDigit d i * 10 ^ i + v) 0

def bcdValue (d : Dword) : Int := if bcdDigit d 15 = 15 then -(bcdSize d : Int) else bcdSize d

/-- The even-odd pair of g[i] and g[i + 1] (R133). -/
def pairOf (c : Core) (i : Nat) : Dword := join64 (c.gr i) (c.gr (i + 1))

end Sys2Proof.Claims

/-- R133, R134: DADD and DSUB write a legal pair with the low fifteen digits of the exact result and its sign, a zero with sign plus; an
illegal operand gives +0 and DIGIT, more than fifteen digits DOVF. -/
def Sys2Proof.Claims.DecimalResults : Prop :=
  ∀ n f s v, Fetches s n (isaWord 0x0D f) v → Issues (.dec n f) s v n fun y k t =>
    let w := isaWord 0x0D f
    let a := pairOf (y.core n) (Isa.rs1 w)
    let b := pairOf (y.core n) (Isa.rs2 w)
    let x := if w.getLsbD 0 then bcdValue a - bcdValue b else bcdValue a + bcdValue b
    ∀ flags, (bcdLegal a ∧ bcdLegal b → flags = if 10 ^ 15 ≤ x.natAbs then 0x800 else 0) →
      (¬ (bcdLegal a ∧ bcdLegal b) → flags = 0x400) → ¬ Traps y n flags [8, 9] →
      ∃ v, Ran y t n k id onward { dest := .pair (Isa.rd w) v, flags := flags } ∧
        (bcdLegal a ∧ bcdLegal b → bcdLegal v ∧ bcdSize v = x.natAbs % 10 ^ 15 ∧
          (bcdDigit v 15 = 15 ↔ x < 0 ∧ bcdSize v ≠ 0)) ∧
        (¬ (bcdLegal a ∧ bcdLegal b) → v = 0)

namespace Sys2Proof.Claims

open Sys2Proof Sys2Proof.Machine

/-- The format of a fmt bit, and a floating operand in it: binary32 ignores the high half (R121, R125). -/
def fmtBit (b : Nat) : Fmt := if b = 0 then b32 else b64

def fop (c : Core) (fmt i : Nat) : Nat := if fmt = 0 then (lo32 (c.fr i)).toNat else (c.fr i).toNat

/-- The rounding direction: 5 takes FCTL.RM (R125). -/
def rounding (c : Core) (rm : Nat) : Nat := if rm = 5 then fld c.fctl 0 3 else rm

/-- A result of the scalar unit in f[rd], or in g[rd], with the causes it can raise. -/
def toF (w : Word) (can : List Nat) (r : FRes) : Result :=
  { dest := .f (Isa.rd w) (BitVec.ofNat 64 r.bits), flags := r.flags, can := can }

def toG (w : Word) (r : FRes) : Result := { dest := .g (Isa.rd w) (BitVec.ofNat 32 r.bits), flags := r.flags, can := [1, 5] }

/-- The causes that FOP can raise, by its selector (R135): FADD, FSUB and FMUL 1, 3, 4 and 5, FDIV also 2, FSQRT 1 and 5, FMIN and FMAX 1. -/
def fopCan (sel : Nat) : List Nat :=
  match sel with
  | 0 | 1 | 2 => [1, 3, 4, 5]
  | 3 => [1, 2, 3, 4, 5]
  | 4 => [1, 5]
  | 5 | 6 => [1]
  | _ => []

/-- FOP by its selector: the arithmetic of R135 to R138, and the sign operations, which raise nothing. -/
def fopResult (c : Core) (w : Word) : Result :=
  let m := fmtBit (Isa.fmtR w)
  let rm := rounding c (Isa.rmR w)
  let x := fop c (Isa.fmtR w) (Isa.rs1 w)
  let y := fop c (Isa.fmtR w) (Isa.rs2 w)
  let signed := fun sg : Nat => ({ bits := x % m.sgn + sg % 2 * m.sgn, flags := 0 } : FRes)
  toF w (fopCan (Isa.sel w)) (match Isa.sel w with
    | 0 => m.add rm false x y
    | 1 => m.add rm true x y
    | 2 => m.mul rm x y
    | 3 => m.div rm x y
    | 4 => m.sqrt rm x
    | 5 => m.minmax false x y
    | 6 => m.minmax true x y
    | 7 => signed (y / m.sgn)
    | 8 => signed (y / m.sgn + 1)
    | _ => signed (x / m.sgn + y / m.sgn))

/-- A fused multiply-add of a product and an addend, each inverted or not. -/
def fmaResult (np nc : Bool) (c : Core) (w : Word) : Result :=
  let k := Isa.fmt4 w
  toF w [1, 3, 4, 5] ((fmtBit k).fma (rounding c (Isa.rm4 w)) np nc (fop c k (Isa.rs1 w)) (fop c k (Isa.rs2 w)) (fop c k (Isa.r3 w)))

/-- FCMP: 1 or 0, and NV for a signalling NaN, or for LT and LE any NaN (R138). -/
def fcmpResult (c : Core) (w : Word) : Result :=
  let m := fmtBit (Isa.fmtR w)
  let a := m.decode (fop c (Isa.fmtR w) (Isa.rs1 w))
  let b := m.decode (fop c (Isa.fmtR w) (Isa.rs2 w))
  let nan := a.isNaN || b.isNaN
  let sig := a.isSNaN || b.isSNaN
  let o := a.cmp b
  let holds : Bool := match Isa.sel w with
    | 0 => !nan && o == .eq
    | 1 => !nan && o == .lt
    | 2 => !nan && (o == .lt || o == .eq)
    | _ => nan
  let nv : Bool := if Isa.sel w = 1 ∨ Isa.sel w = 2 then nan else sig
  { dest := .g (Isa.rd w) (if holds then 1 else 0), flags := if nv then 1 else 0, can := [1] }

/-- FCVT by its selector (R128, R137): the source is f[rs1], or g[rs1] for selectors 2 to 5; the destination is g[rd] from selector 6 on. -/
def fcvtResult (c : Core) (w : Word) : Result :=
  let rm := rounding c (Isa.rmR w)
  let x := c.fr (Isa.rs1 w)
  let g := rsA c w
  match Isa.sel w with
  | 0 => toF w [1, 3, 4, 5] (b64.convert b32 rm x.toNat)
  | 1 => toF w [1] (b32.convert b64 rm (lo32 x).toNat)
  | 2 => toF w [5] (b32.ofInt rm g.toInt)
  | 3 => toF w [5] (b32.ofInt rm g.toNat)
  | 4 => toF w [] (b64.ofInt rm g.toInt)
  | 5 => toF w [] (b64.ofInt rm g.toNat)
  | 6 => toG w (b32.toInt rm (-2147483648) 2147483647 (lo32 x).toNat)
  | 7 => toG w (b32.toInt rm 0 4294967295 (lo32 x).toNat)
  | 8 => toG w (b64.toInt rm (-2147483648) 2147483647 x.toNat)
  | _ => toG w (b64.toInt rm 0 4294967295 x.toNat)

end Sys2Proof.Claims

/-- R135 to R138: the scalar floating-point instructions write the result of their operation, rounded by rm, and raise its flags.
Where a clause rests on a choice of the model and not on a rule, the choice is that of log entries 22 and 88. -/
def Obligations.FloatResults : Prop :=
  Completes .fop 0x30 fopResult ∧
  Completes .fmadd 0x31 (fmaResult false false) ∧
  Completes .fmsub 0x32 (fmaResult false true) ∧
  Completes .fnmadd 0x33 (fmaResult true true) ∧
  Completes .fnmsub 0x34 (fmaResult true false) ∧
  Completes .fcmp 0x35 fcmpResult ∧
  Completes .fcvt 0x36 fcvtResult

/-- R128, R138: FMV and FCLS move and classify without a flag; FSEL selects by a general register. -/
def Sys2Proof.Claims.MoveResults : Prop :=
  Completes .fmv 0x37 (fun c w =>
    let g := rsA c w
    let x := c.fr (Isa.rs1 w)
    { dest := match Isa.sel w with
        | 0 => .g (Isa.rd w) (lo32 x)
        | 1 => .f (Isa.rd w) (BitVec.ofNat 64 g.toNat)
        | 2 => .g (Isa.rd w) (hi32 x)
        | 3 => .f (Isa.rd w) (join64 (lo32 (c.fr (Isa.rd w))) g)
        | 4 => .g (Isa.rd w) (BitVec.ofNat 32 (b32.classify (lo32 x).toNat))
        | _ => .g (Isa.rd w) (BitVec.ofNat 32 (b64.classify x.toNat)) }) ∧
  Completes .fsel 0x38 (fun c w =>
    { dest := .f (Isa.rd w) (if c.gr (Isa.r3 w) = 0 then c.fr (Isa.rs2 w) else c.fr (Isa.rs1 w)) })

/-- R137: what a conversion to a 32-bit integer gives: a NaN 0 with NV, a rounded value out of range the nearer end with NV, and else
the rounded value, with NX where it is not the operand. -/
def Sys2Proof.Claims.IntegerConversion : Prop :=
  ∀ (m : Fmt) (rm : Nat) (lo hi : Int) (x : Nat), lo ≤ hi →
    let r := m.toInt rm lo hi x
    match m.decode x with
    | .nan .. => r = ⟨0, 1⟩
    | .inf neg => r = ⟨((if neg then lo else hi) % 2 ^ 32).toNat, 1⟩
    | .fin neg k e =>
      let v := (roundInteger rm neg k e).1
      if v < lo then r = ⟨(lo % 2 ^ 32).toNat, 1⟩
      else if hi < v then r = ⟨(hi % 2 ^ 32).toNat, 1⟩
      else r.bits = (v % 2 ^ 32).toNat ∧ (r.flags = 0 ∨ r.flags = 16)

namespace Sys2Proof.Claims

open Sys2Proof Sys2Proof.Machine

/-- In cycle k of state x core n traps with a cause and an ETVAL (R143): it saves its index, writes no destination and sets no flag of its
own. With TVEC set and no trap in service it goes on at TVEC 4 cycles later; else its arrays and stores complete, the command halts and is
kept after those halted before, and CORE_TRAP is logged. -/
def Trapped (x t : State) (n k cause : Nat) (etval : Word) : Prop :=
  let c := { x.core n with epc := BitVec.ofNat 32 (x.core n).pc, ecause := BitVec.ofNat 32 cause, etval := etval }
  (c.tvec ≠ 0 ∧ c.inTrap = false →
    t = { x with cores := t.cores, cyc := { x.cyc with when := none } } ∧ (∀ m, m ≠ n → t.core m = x.core m) ∧
      t.core n = { c with pc := fld c.tvec 0 14, now := k + 4, inTrap := true }) ∧
  (¬ (c.tvec ≠ 0 ∧ c.inTrap = false) →
    let d := ((x.setCore n c).coreFlush n).core n
    (t.core n).run = false ∧ (t.core n).halted = d.halted ++ [⟨d.jclass, cause, d.pc, etval⟩] ∧
    (t.core n).epc = d.epc ∧ (t.core n).ecause = d.ecause ∧ (t.core n).etval = d.etval ∧
    ∃ y : State, t = (y.event 0x0402 (BitVec.ofNat 32 (n + d.jclass * 2 ^ 8 + cause * 2 ^ 16)) d.ctx).timedAt none)

/-- An instruction whose exceptions are enabled traps with the lowest of their causes (R140, R143), and ETVAL as R484 gives it. -/
def TrapsLowest (mk : Nat → IsaFields → Instr) (op : Nat) (res : Core → Word → Result) (etval : Nat → Core → Word → Word) : Prop :=
  ∀ n f s v, Fetches s n (isaWord op f) v → Issues (mk n f) s v n fun x k t =>
    let r := res (x.core n) (isaWord op f)
    Traps x n r.flags r.can →
      ∃ c, c ∈ r.can ∧ Caused (x.core n) r.flags c ∧ (∀ j, j ∈ r.can → j < c → ¬ Caused (x.core n) r.flags j) ∧
        Trapped x t n k c (etval c (x.core n) (isaWord op f))

/-- The low word of f[rs1]. -/
def lowF (_ : Nat) (c : Core) (w : Word) : Word := lo32 (c.fr (Isa.rs1 w))

end Sys2Proof.Claims

/-- R140, R143, R484: in a best-effort partition an enabled floating-point exception traps precisely. -/
def Sys2Proof.Claims.FloatTraps : Prop :=
  TrapsLowest .fop 0x30 fopResult lowF ∧
  TrapsLowest .fmadd 0x31 (fmaResult false false) lowF ∧
  TrapsLowest .fmsub 0x32 (fmaResult false true) lowF ∧
  TrapsLowest .fnmadd 0x33 (fmaResult true true) lowF ∧
  TrapsLowest .fnmsub 0x34 (fmaResult true false) lowF ∧
  TrapsLowest .fcmp 0x35 fcmpResult lowF ∧
  TrapsLowest .fcvt 0x36 fcvtResult (fun _ c w => if 2 ≤ Isa.sel w ∧ Isa.sel w ≤ 5 then rsA c w else lo32 (c.fr (Isa.rs1 w)))

namespace Sys2Proof.Claims

open Sys2Proof Sys2Proof.Machine

/-- The word at the program counter of core n, fetched in state v, is found reserved at once (R127): in cycle k it is counted, and traps with
cause 0x0A and the word, or in a real-time partition takes one cycle, sets ILL and is counted as such. -/
def Reserved (v t : State) (n : Nat) (w : Word) : Prop :=
  let k := (v.core n).now
  ∃ x, Counted v x n k ∧
    if v.coreRt n then
      ∃ y : State, y = { x with cores := y.cores, regs := y.regs, cyc := { x.cyc.flags y.cyc with when := x.cyc.when } } ∧
        (∀ m, y.core m = x.core m) ∧ (∀ o, o ≠ R.COR_ILL n → y.rd o = x.rd o) ∧ y.rd (R.COR_ILL n) = satAdd (x.rd (R.COR_ILL n)) 1 ∧
        Ran y t n k id onward { dest := .none, flags := 0x1000 } ∧ (t.core n).now = k + 1
    else Trapped x t n k 0x0A w

end Sys2Proof.Claims

/-- R127, R140, R143: BRK and a reserved encoding trap in a best-effort partition with the instruction word; in a real-time
partition BRK does nothing, and a reserved encoding costs a cycle, sets ILL and is counted. -/
def Sys2Proof.Claims.BreakAndReserved : Prop :=
  (∀ n f s v, Fetches s n (isaWord 0x2F f) v → Issues (.brk n f) s v n fun x k t =>
    if x.coreRt n then Ran x t n k id onward { dest := .none } else Trapped x t n k 0x0E (isaWord 0x2F f)) ∧
  (∀ n w s v, s.canIssue n = true → s.fetch n = .ok v → (v.core n).run = true → Isa.reserved w = true →
    ∃ t, exec (.reservedEncoding n w) s = .next t ∧ Reserved v t n w)

namespace Sys2Proof.Claims

open Sys2Proof Sys2Proof.Machine

/-- An access of core n in cycle k of state x is not made (R14, R126): a trap with its address, `dt` cycles later, or in a real-time
partition a teardown of the running context with cause 0x04, after which a core that still runs goes on. -/
def Denies (x t : State) (n k dt cause : Nat) (a : Word) : Prop :=
  if x.coreRt n then
    let y := x.coreTeardown n 4 false
    if (y.core n).run then Ran y t n k id onward { dest := .none } else t = y.timedAt none
  else Trapped x t n (k + dt) cause a

end Sys2Proof.Claims

namespace Sys2Proof.Claims

open Sys2Proof Sys2Proof.Machine

/-- The address of a narrow access: g[rs1] + imm as 32 bits (R126). -/
def narrowAddr (c : Core) (w : Word) : Nat := (rsA c w + imm w).toNat

/-- The stored word that a narrow access at `a` meets in place p. -/
def wordAt (u : State) (p : Place) (a : Nat) : Stored := u.stored ⟨p.mem, p.off / 8 * 8⟩ (a / 8 * 8)

/-- Once an access has left state u, a core that still runs goes on with the result of its instruction; one torn down stays as u has it. -/
def GoesOn (u t : State) (n k : Nat) (g : Core → Core) (r : Result) : Prop :=
  if (u.core n).run then Ran u t n k g onward r else t = u.timedAt none

/-- A load of `size` bytes from an address it reaches: the bytes, corrected, as an unsigned number go where `dest` says. They are those that
stand there in the cycle after the issue; errors found on the way are counted, logged and corrected, and with none nothing else happens; an
uncorrectable word sets the latch, and tears down the context in a real-time partition (R241, R282). -/
def Loads (mk : Nat → IsaFields → Instr) (op size : Nat) (dest : Word → Dword → Dest) : Prop :=
  ∀ n f s v, Fetches s n (isaWord op f) v → Issues (mk n f) s v n fun x k t =>
    let w := isaWord op f
    let a := narrowAddr (x.core n) w
    ∀ p, a % size = 0 → x.reach n a size = some p →
      let z := (x.coreTo n (k + 2)).timed n (k + 1)
      let q := wordAt z p a
      ∃ y, z.OnlyRead y ∧ (q.syn = 0 → y = z) ∧
        GoesOn (if (eccDecode q.syn).bad then y.seqUe n else y) t n k id
          { dest := dest w (BitVec.ofNat 64 ((eccDeliver (eccDecode q.syn) q.data).toNat / 2 ^ (8 * (a % 8)) % 2 ^ (8 * size))) }

/-- One byte as a core's access would see it: the pod buffer before the bank, corrected. -/
def seen (s : State) (a : Nat) : List Byte := s.peek a 1

/-- An injection is armed for the word at offset o of memory m (R296). -/
def armed (s : State) (m o : Nat) : Prop :=
  (s.rd R.ECC_INJCTL).getLsbD 31 = true ∧ s.field R.ECC_INJCTL 0 8 = m ∧ (s.rd64 R.ECC_INJOFF).toNat = o

/-- What a word that core n places may change: its core's pod buffer and open digest layer, memory, and what errors found change. -/
structure StoreFrame (z y : State) (n : Nat) : Prop where
  rest : y = { z with
    regs := y.regs, mem := y.mem, syn := y.syn, cores := y.cores, integ := y.integ, cyc := z.cyc.flags y.cyc }
  others : ∀ m, m ≠ n → y.core m = z.core m
  own  : y.core n = { z.core n with pod := (y.core n).pod, podAt := (y.core n).podAt, dS := (y.core n).dS }
  regs : ∀ o, ¬ eccReg o → o ≠ R.SPD_PODFORCE n → y.rd o = z.rd o

/-- From z to y core n has placed a word at wa (R241, R243, R244): its bytes read as the data, every other byte as before; of a write that R84
suppresses nothing is made. -/
def Places (z y : State) (n : Nat) (p : Place) (wa : Nat) (d : Dword) : Prop :=
  if z.suppressed n wa then y = z
  else
    StoreFrame z y n ∧ (¬ armed z p.mem p.off → PodOk n (z.core n).pod →
      (∀ i, i < 8 → seen y (wa + i) = [BitVec.ofNat 8 (d.toNat / 256 ^ i)]) ∧ (∀ o, o < wa ∨ wa + 8 ≤ o → seen y o = seen z o))

/-- A store of a whole word to an address it reaches is placed in the cycle after its issue, once the core's arrays have written in it. -/
def StoresWord (mk : Nat → IsaFields → Instr) (op : Nat) (data : Core → Word → Dword) : Prop :=
  ∀ n f s v, Fetches s n (isaWord op f) v → Issues (mk n f) s v n fun x k t =>
    let w := isaWord op f
    let a := narrowAddr (x.core n) w
    ∀ p, a % 8 = 0 → x.reach n a 8 = some p →
      let g := x.coreTo n (k + 1)
      let z := ((forEach (g.placeClaims n p.mem a) g fun s c => s.coreGrant n (k + 1) c.1 [c.2]).coreWrites n (k + 1)).timed n (k + 1)
      ∃ y, Places z y n p a (data (x.core n) w) ∧ GoesOn y t n k id { dest := .none }

/-- A store of the `size` low bytes of `data`, part of a word, to an address it reaches (R279): the word is read in the cycle after the issue, and
waits to be placed two cycles later with those bytes in it. Of a word that is uncorrectable nothing is placed (R281, R282). -/
def StoresPart (mk : Nat → IsaFields → Instr) (op size : Nat) (data : Core → Word → Nat) : Prop :=
  ∀ n f s v, Fetches s n (isaWord op f) v → Issues (mk n f) s v n fun x k t =>
    let w := isaWord op f
    let a := narrowAddr (x.core n) w
    ∀ p, a % size = 0 → x.reach n a size = some p →
      let z := (x.coreTo n (k + 2)).timed n (k + 1)
      let q := wordAt z p a
      ∃ y, z.OnlyRead y ∧ (q.syn = 0 → y = z) ∧
        if (eccDecode q.syn).bad then GoesOn (y.seqUe n) t n k id { dest := .none }
        else
          ∃ d : Dword,
            (∀ i, i < 8 → d.toNat / 256 ^ i % 256 =
              if a % 8 ≤ i ∧ i < a % 8 + size then data (x.core n) w / 256 ^ (i - a % 8) % 256
              else (eccDeliver (eccDecode q.syn) q.data).toNat / 256 ^ i % 256) ∧
            GoesOn (y.modCore n fun c => { c with merge := some ⟨k + 3, a / 8 * 8, d⟩ }) t n k id { dest := .none }

/-- The word that waits is placed when its cycle comes (R247, R279). -/
def MergesPlaced : Prop :=
  ∀ (s : State) n k m p, (s.core n).merge = some m → m.next = k → s.place m.addr = some p → (p.mem = n ∨ p.mem = 128 + n / 8) → m.addr % 8 = 0 →
    ∃ z : State, z = { s with cores := z.cores } ∧ (∀ j, j ≠ n → z.core j = s.core j) ∧
      z.core n = { s.core n with merge := none, claims := (z.core n).claims } ∧ Places z (s.mergeCycle n k) n p m.addr m.data

/-- A narrow access that is misaligned or reaches no memory of the core is not made. -/
def AccessFails (mk : Nat → IsaFields → Instr) (op size : Nat) : Prop :=
  ∀ n f s v, Fetches s n (isaWord op f) v → Issues (mk n f) s v n fun x k t =>
    let a := narrowAddr (x.core n) (isaWord op f)
    (a % size ≠ 0 → Denies x t n k 0 0x0B (BitVec.ofNat 32 a)) ∧
    (a % size = 0 → x.reach n a size = none → Denies x t n k 0 0x0C (BitVec.ofNat 32 a))

end Sys2Proof.Claims

/-- R126, R128, R241: the loads. -/
def Sys2Proof.Claims.LoadResults : Prop :=
  Loads .lb 0x10 1 (fun w d => .g (Isa.rd w) (BitVec.ofInt 32 (lo32 d |>.setWidth 8).toInt)) ∧
  Loads .lbu 0x11 1 (fun w d => .g (Isa.rd w) (lo32 d)) ∧
  Loads .lh 0x12 2 (fun w d => .g (Isa.rd w) (BitVec.ofInt 32 (lo32 d |>.setWidth 16).toInt)) ∧
  Loads .lhu 0x13 2 (fun w d => .g (Isa.rd w) (lo32 d)) ∧
  Loads .lw 0x14 4 (fun w d => .g (Isa.rd w) (lo32 d)) ∧
  Loads .lwp 0x15 8 (fun w d => .pair (Isa.rd w) d) ∧
  Loads .flw 0x16 4 (fun w d => .f (Isa.rd w) d) ∧
  Loads .fld 0x17 8 (fun w d => .f (Isa.rd w) d)

/-- R126, R128, R241, R244, R279: the stores, through the pod buffer or to the cluster memory; part of a word waits for its place.
Where a clause rests on a choice of the model and not on a rule, the choice is that of log entries 19 and 90. -/
def Obligations.StoreResults : Prop :=
  StoresPart .sb 0x18 1 (fun c w => (c.gr (Isa.rd w)).toNat) ∧
  StoresPart .sh 0x19 2 (fun c w => (c.gr (Isa.rd w)).toNat) ∧
  StoresPart .sw 0x1A 4 (fun c w => (c.gr (Isa.rd w)).toNat) ∧
  StoresWord .swp 0x1B (fun c w => pairOf c (Isa.rd w)) ∧
  StoresPart .fsw 0x1C 4 (fun c w => (c.fr (Isa.rd w)).toNat) ∧
  StoresWord .fsd 0x1D (fun c w => c.fr (Isa.rd w)) ∧
  MergesPlaced

/-- R14, R126: a misaligned narrow access, and one that reaches no memory of its core, are not made: in a best-effort partition they
trap with causes 0x0B and 0x0C and the address. -/
def Sys2Proof.Claims.AccessFailures : Prop :=
  AccessFails .lb 0x10 1 ∧ AccessFails .lbu 0x11 1 ∧ AccessFails .lh 0x12 2 ∧ AccessFails .lhu 0x13 2 ∧ AccessFails .lw 0x14 4 ∧
  AccessFails .lwp 0x15 8 ∧ AccessFails .flw 0x16 4 ∧ AccessFails .fld 0x17 8 ∧ AccessFails .sb 0x18 1 ∧ AccessFails .sh 0x19 2 ∧
  AccessFails .sw 0x1A 4 ∧ AccessFails .swp 0x1B 8 ∧ AccessFails .fsw 0x1C 4 ∧ AccessFails .fsd 0x1D 8

namespace Sys2Proof.Claims

open Sys2Proof Sys2Proof.Machine

/-- Index pc plus an offset, in 14 bits (R119). -/
def indexPlus (c : Core) (k : Int) : Nat := (((c.pc : Int) + k) % 2 ^ 14).toNat

/-- A conditional branch: one that leaves the innermost loop's body is reserved (R151); any other, when it is taken, goes on at the index plus
imm, two cycles later at the least. -/
def Branches (mk : Nat → IsaFields → Instr) (op : Nat) (test : Word → Word → Bool) : Prop :=
  ∀ n f s v, Fetches s n (isaWord op f) v →
    let w := isaWord op f
    let to_ := indexPlus (v.core n) (Isa.imm w)
    ((v.core n).leavesLoop to_ = true → ∃ t, exec (mk n f) s = .next t ∧ Reserved v t n w) ∧
    ((v.core n).leavesLoop to_ = false → Issues (mk n f) s v n fun x k t => k + 2 ≤ (t.core n).now ∧
      Ran x t n k id (fun c => if test (c.gr (Isa.rd w)) (c.gr (Isa.rs1 w)) then (indexPlus c (Isa.imm w), c.loops) else onward c)
        { dest := .none })

/-- An instruction that goes on at an index and writes the index after its own to g[rd]. -/
def Calls (mk : Nat → IsaFields → Instr) (op : Nat) (target : Core → Word → Nat) : Prop :=
  ∀ n f s v, Fetches s n (isaWord op f) v → Issues (mk n f) s v n fun x k t =>
    let w := isaWord op f
    k + 2 ≤ (t.core n).now ∧
      Ran x t n k id (fun c => (target c w, c.loops)) { dest := .g (Isa.rd w) (BitVec.ofNat 32 ((x.core n).pc + 1)) }

/-- An instruction that takes the counted state to `e` of it and its core by `g` of its issue cycle, costs at least `cost` cycles, and writes no register. -/
def Does (mk : Nat → IsaFields → Instr) (op : Nat) (cost : Word → Nat) (e : Nat → Word → State → State) (g : Core → Nat → Core → Core) :
    Prop :=
  ∀ n f s v, Fetches s n (isaWord op f) v → Issues (mk n f) s v n fun x k t =>
    k + cost (isaWord op f) ≤ (t.core n).now ∧ Ran (e n (isaWord op f) x) t n k (g (x.core n) k) onward { dest := .none }

end Sys2Proof.Claims

/-- R119, R128, R151: the conditional branches. -/
def Sys2Proof.Claims.BranchResults : Prop :=
  Branches .brEq 0x20 (fun a b => a == b) ∧
  Branches .brNe 0x21 (fun a b => !(a == b)) ∧
  Branches .brLt 0x22 (fun a b => decide (a.toInt < b.toInt)) ∧
  Branches .brGe 0x23 (fun a b => decide (b.toInt ≤ a.toInt)) ∧
  Branches .brLtu 0x24 (fun a b => decide (a.toNat < b.toNat)) ∧
  Branches .brGeu 0x25 (fun a b => decide (b.toNat ≤ a.toNat))

/-- R119, R128: CALL and CALLR. -/
def Sys2Proof.Claims.CallResults : Prop :=
  Calls .call 0x26 (fun c w => indexPlus c (Isa.imm20 w)) ∧
  Calls .callr 0x27 (fun c w => (rsA c w + imm w).toNat % 2 ^ 14)

/-- R151: LOOP runs its body as often as its count says; a count of 0 goes on after the body, and a third level is reserved. -/
def Sys2Proof.Claims.LoopResults : Prop :=
  ∀ n f s v, Fetches s n (isaWord 0x28 f) v →
    let w := isaWord 0x28 f
    (2 ≤ (v.core n).loops.length → ∃ t, exec (.loop n f) s = .next t ∧ Reserved v t n w) ∧
    ((v.core n).loops.length < 2 → Issues (.loop n f) s v n fun x k t =>
      let c := x.core n
      let count := if Isa.rs1 w = 0 then fld w 0 10 + 1 else (rsA c w).toNat
      let last := c.pc + fld w 10 5 + 1
      k + (if count = 0 then 2 else 1) ≤ (t.core n).now ∧
        Ran x t n k id
          (fun c => if count = 0 then loopNext c.loops last else loopNext (⟨c.pc + 1, last, count⟩ :: c.loops) c.pc) { dest := .none })

/-- R120, R128, R142: END ends the issue, IDLE waits, NOP does nothing, and FBAR takes the bits of earlier instructions as its
snapshot, due 20 cycles after its issue. -/
def Sys2Proof.Claims.SequencerControl : Prop :=
  Does .seqEnd 0x29 (fun _ => 1) (fun _ _ x => x) (fun _ _ c => { c with ended := true }) ∧
  Does .idle 0x2A (fun w => fld w 0 15 + 1) (fun _ _ x => x) (fun _ _ c => c) ∧
  Does .nop 0x2B (fun _ => 1) (fun _ _ x => x) (fun _ _ c => c) ∧
  Does .fbar 0x2C (fun _ => 1) (fun _ _ x => x) (fun c k d =>
    let bits := fun (part : Nat × Nat × Nat → Nat) (now : Word) => c.late.foldl (fun a x => Nat.lor a (part x)) now.toNat
    { d with snapAt := k + 20, snaps := d.snaps ++ [(k + 20, bits (·.2.1) c.xflags, bits (·.2.2) c.tflags)] })

namespace Sys2Proof.Claims

open Sys2Proof Sys2Proof.Machine

/-- The value of CSR k at cycle j (R123, R124). -/
def csrValue (u : State) (n k j : Nat) : Word :=
  let c := u.core n
  let due := fun (part : Nat × Nat × Nat → Nat) (now : Word) =>
    BitVec.ofNat 32 ((c.late.filter fun x => decide (x.1 ≤ j)).foldl (fun a x => Nat.lor a (part x)) now.toNat)
  let readback := fun i => match c.ctx with
    | some x => u.rd (R.SCH_RB x i)
    | none => 0
  match k with
  | 0 => due (·.2.1) c.xflags
  | 1 => if u.coreRt n then (c.fctl &&& 0x7) ||| 0x10000 else c.fctl
  | 2 => c.tvec
  | 3 => c.epc
  | 4 => c.ecause
  | 5 => c.etval
  | 6 => BitVec.ofNat 32 j
  | 7 => BitVec.ofNat 32 n
  | 8 => c.frep
  | 9 => due (·.2.2) c.tflags
  | 10 => readback 0
  | 11 => readback 1
  | 12 => readback 4
  | 13 => readback 5
  | _ => FMap.get 0 c.qmask (k - 14)

/-- What a write of v to CSR k at cycle j does to the core (R123): the writable bits, RM only as 0 to 4, the trap enables and FIXLAT
only in a best-effort partition; a write of XFLAGS or TFLAGS merges first what is due. -/
def csrPut (rt : Bool) (k j : Nat) (v : Word) (c : Core) : Core :=
  match k with
  | 0 => { c.flush j with xflags := v &&& 0x3F1F }
  | 1 =>
    let kept := if rt then c.fctl else v &&& 0x11FF0
    { c with fctl := (kept &&& ~~~ 0x7) ||| (if fld v 0 3 ≤ 4 then v &&& 0x7 else c.fctl &&& 0x7) }
  | 2 => { c with tvec := v &&& 0x3FFF }
  | 3 => { c with epc := v &&& 0x3FFF }
  | 9 => { c.flush j with tflags := v &&& 0x3F }
  | _ => c

end Sys2Proof.Claims

/-- R123, R124, R128: CSR writes the register's value to g[rd], and where its func names a write, a set or a clear, the register from
g[rs1]; the read-only registers keep their value. -/
def Sys2Proof.Claims.CsrResults : Prop :=
  ∀ n f s v, Fetches s n (isaWord 0x2D f) v → Issues (.csr n f) s v n fun y k t =>
    let w := isaWord 0x2D f
    let i := fld w 0 5
    let old := csrValue y n i k
    let x := rsA (y.core n) w
    Ran y t n k
      (fun c => match fld w 13 2 with
        | 0 => c
        | 1 => csrPut (y.coreRt n) i k x c
        | 2 => csrPut (y.coreRt n) i k (old ||| x) c
        | _ => csrPut (y.coreRt n) i k (old &&& ~~~ x) c)
      onward { dest := .g (Isa.rd w) old }

/-- R143: ERET goes on at EPC, two cycles later at the least, with no trap in service; COR_TRAP_CLR discards the oldest halted command
of a core while the device runs. -/
def Sys2Proof.Claims.TrapReturns : Prop :=
  (∀ n f s v, Fetches s n (isaWord 0x2E f) v → Issues (.eret n f) s v n fun x k t => k + 2 ≤ (t.core n).now ∧
    Ran x t n k (fun c => { c with inTrap := false }) (fun c => (c.epc.toNat % 2 ^ 14, c.loops)) { dest := .none }) ∧
  (∀ n s, s.running = true → s.host.d3hot = false → n < s.nCores →
    ∃ t, exec (.corTrapClr n) s = .next t ∧ t = { s with cores := t.cores } ∧ (∀ m, m ≠ n → t.core m = s.core m) ∧
      t.core n = { s.core n with halted := (s.core n).halted.drop 1 })

/-- R142: the oldest snapshot of a core is taken: bits FREP does not show are added to it, counted and posted with CORE_FPREP, once. -/
def Sys2Proof.Claims.SnapshotResults : Prop :=
  ∀ n s k fx ft rest, (s.core n).snaps = (k, fx, ft) :: rest →
    let c := s.core n
    let nx := Nat.land fx (2 ^ 14 - 1 - c.frep.toNat % 2 ^ 14)
    let nt := Nat.land ft (63 - c.frep.toNat / 2 ^ 16 % 64)
    (nx = 0 → nt = 0 → ∃ t, exec (.fbarSnapshot n) s = .next t ∧ t = s.setCore n { c.flush k with snaps := rest }) ∧
    (¬ (nx = 0 ∧ nt = 0) → ∃ t v, exec (.fbarSnapshot n) s = .next t ∧
      t = State.event v 0x0401 (BitVec.ofNat 32 (c.ctx.getD 0 + nx * 2 ^ 16 + (if nt = 0 then 0 else 2 ^ 31))) c.ctx ∧
      v = { s with cores := v.cores, regs := v.regs, cyc := s.cyc.flags v.cyc } ∧ (∀ m, m ≠ n → v.core m = s.core m) ∧
      v.core n = { c.flush k with snaps := rest, frep := BitVec.ofNat 32 (Nat.lor c.frep.toNat (nx + nt * 2 ^ 16)) } ∧
      (∀ o, o ≠ R.COR_FPREP n → v.rd o = s.rd o) ∧ v.rd (R.COR_FPREP n) = satAdd (s.rd (R.COR_FPREP n)) 1)

/-- R96, R115, R120, R142, R284, R375: once everything a core issued before END has completed, its FBAR snapshots and WAITs included, its command
is over: its registers, pod buffer and the other cores stay as they are once its arrays and stores have done what they began. A command that
has come to its next tile waits for it, paused; any other leaves the engine. Until then nothing happens. -/
def Sys2Proof.Claims.EndResults : Prop :=
  ∀ n s, let done := (s.core n).run = true ∧ (s.core n).ended = true ∧ (s.core n).snaps = [] ∧ ∀ o ∈ s.syncOps, ∀ k, o.kind ≠ .waitSeq n k
    let u := s.coreFlush n
    (¬ done → exec (.endComplete n) s = .next s) ∧
    (done → (u.core n).run = false → exec (.endComplete n) s = .next u) ∧
    (done → (u.core n).run = true → ∃ t v : State, exec (.endComplete n) s = .next t ∧ v.mem = u.mem ∧ (∀ m, m ≠ n → v.core m = u.core m) ∧
      ((v.core n).run = false ∧ (v.core n).ended = false ∧ (v.core n).poison = false ∧ (v.core n).loops = [] ∧ (v.core n).dS = none ∧
        (v.core n).late = [] ∧ ∀ i, ((v.core n).arr i).runs = []) ∧
      ((v.core n).g = (u.core n).g ∧ (v.core n).f = (u.core n).f ∧ (v.core n).v = (u.core n).v ∧ (v.core n).pod = (u.core n).pod) ∧
      match v.cmdOn (.seq n) with
      | none => t = v
      | some r =>
        if (s.core n).tileEnd then
          t = v.addCmd { r with pos := r.pos + 1, paused := true, held := r.held + cyclesBetween r.start v.tb.raw }
        else t = v.completeCmd r)

namespace Sys2Proof.Claims

open Sys2Proof Sys2Proof.Machine

/-- Cycles from core n to an object (R38): 2 in its own cluster, else 8. -/
def reachSync (n obj : Nat) : Nat := if obj / 1024 = n / 8 then 2 else 8

/-- An object of the partition that core n works for (R31). -/
def ownObject (u : State) (n obj : Nat) : Prop := u.hasCluster (u.core n).part (obj / 1024) = true

/-- The state with an operation on its way to an object. -/
def posted (x : State) (obj cycles : Nat) (k : SyncKind) : State :=
  { x with syncOps := x.syncOps ++ [⟨obj, x.rawNow + BitVec.ofNat 64 (5 * cycles), k⟩] }

/-- An instruction on an object of the core's partition posts an operation; on another it is as an unmapped access. -/
def PostsTo (mk : Nat → IsaFields → Instr) (op : Nat) (kind : Core → Word → SyncKind) (g : State → Nat → Word → Core → Core) : Prop :=
  ∀ n f s v, Fetches s n (isaWord op f) v → Issues (mk n f) s v n fun x k t =>
    let w := isaWord op f
    let o := Isa.obj w
    (ownObject x n o → Ran (posted x o (reachSync n o) (kind (x.core n) w)) t n k (g x n w) onward { dest := .none }) ∧
    (¬ ownObject x n o → Denies x t n k 0 0x0C (BitVec.ofNat 32 o))

end Sys2Proof.Claims

/-- R31, R37, R38, R149: SIG, SRST and WAIT post their operation, 2 or 8 cycles away; a best-effort WAIT holds the issue. An object of
another partition is as an unmapped access. -/
def Sys2Proof.Claims.SyncResults : Prop :=
  PostsTo .sig 0x59 (fun _ w => .signal (Isa.amount w)) (fun _ _ _ c => c) ∧
  PostsTo .srst 0x5B (fun _ _ => .reset) (fun _ _ _ c => c) ∧
  (∀ n f s v, Fetches s n (isaWord 0x5A f) v → Issues (.wait n f) s v n fun x k t =>
    let w := isaWord 0x5A f
    let o := Isa.obj w
    let l := reachSync n o
    let goal := (x.core n).gr (Isa.rd w)
    (ownObject x n o → Ran (posted x o l (.waitSeq n goal)) t n k
      (fun c => if s.coreRt n then c else { c with waitOn := some ⟨o, goal, x.rawNow + BitVec.ofNat 64 (5 * l)⟩, waitMet := false })
      onward { dest := .none }) ∧
    (¬ ownObject x n o → Denies x t n k 0 0x0C (BitVec.ofNat 32 o)))

/-- R148, R150, R312, R375: DMAGO starts a chain on an idle channel of its cluster, marked as this core's, or raises DBUSY; DLAYER closes the
core's layer. -/
def Sys2Proof.Claims.StartResults : Prop :=
  (∀ n f s v, Fetches s n (isaWord 0x58 f) v → Issues (.dmago n f) s v n fun x k t =>
    let w := isaWord 0x58 f
    let j := n / 8 * 8 + Isa.ch w
    ((x.dmaOf j).st = .idle →
      let y := x.dmaStart j (Isa.didx w) false (x.core n).ctx (x.core n).part none
      Ran (y.setDma j { y.dmaOf j with go := some (n, (x.core n).slot, y.tb.raw + 5) }) t n k id onward { dest := .none }) ∧
    ((x.dmaOf j).st ≠ .idle → Ran x t n k id onward { dest := .none, flags := 0x2000 })) ∧
  Does .dlayer 0x5C (fun _ => 1) (fun n w x => x.closeS n (Isa.layer w) true true) (fun _ _ c => c)

/-- R37, R39: the operations that arrive first at an object take effect together: the amounts of the SIGNALs are added to its count,
WAITs of cores and channels are evaluated against the count before them, and a RESET then leaves it 0; each operation is gone. -/
def Obligations.ObjectArrival : Prop :=
  ∀ obj s k, (∃ o ∈ s.syncOps, o.obj = obj ∧ o.raw = k) → (∀ o ∈ s.syncOps, o.obj = obj → k.toNat ≤ o.raw.toNat) →
    let now := s.syncOps.filter fun o => o.obj == obj && o.raw == k
    let after := if ∃ o ∈ now, o.kind = .reset then 0 else
      s.count obj + BitVec.ofNat 32 (now.foldl (fun a o => match o.kind with | .signal m => a + m | _ => a) 0)
    ∃ t u : State, exec (.syncObjectArrival obj) s = .next t ∧
      u = { s with syncOps := s.syncOps.filter (fun o => !(o.obj == obj && o.raw == k)), counts := u.counts } ∧
      (∀ j, u.count j = if j = obj then after else s.count j) ∧
      t = (now.foldl (fun v o => match o.kind with
        | .waitSeq c g => State.evalWait v obj c g (s.count obj)
        | .waitDma c g => State.evalDmaWait v obj c g (s.count obj)
        | _ => v) u).evalStalled obj

/-- R40, R149: a stalled WAIT whose evaluation was met ends: the core issues again two cycles later at the least. -/
def Sys2Proof.Claims.WaitEnds : Prop :=
  ∀ n s x, (s.core n).waitOn = some x → (s.core n).waitMet = true →
    ∃ t, exec (.seqWaitMet n) s = .next t ∧ t = { s with cores := t.cores } ∧ (∀ m, m ≠ n → t.core m = s.core m) ∧
      (s.core n).now + 2 ≤ (t.core n).now ∧ t.core n = { s.core n with waitOn := none, waitMet := false, now := (t.core n).now }

namespace Sys2Proof.Claims

open Sys2Proof Sys2Proof.Machine

/-- The address of VLD and VST: g[rs1] + 64 × imm (R144). -/
def wideAddr (c : Core) (w : Word) : Nat := (rsA c w + BitVec.ofInt 32 (64 * Isa.imm10 w)).toNat

/-- The word at wa can be corrected. -/
def sound (u : State) (wa : Nat) : Prop := ∀ p, u.place wa = some p → (eccDecode (u.stored p wa).syn).bad = false

/-- Lane l of what stands from a on. -/
def laneAt (u : State) (a l : Nat) : Word := BitVec.ofNat 32 (u.peekLe (a + 4 * l) 4)

/-- A wide access of core n at a reaches 64 bytes of its own scratchpad (R144). -/
def wideOk (u : State) (n a : Nat) : Prop := a % 64 = 0 ∧ ∃ p, u.reach n a 64 = some p ∧ p.mem = n

/-- `Completes` for the words that have a property. -/
def CompletesFor (ok : Word → Prop) (mk : Nat → IsaFields → Instr) (op : Nat) (res : Core → Word → Result) : Prop :=
  ∀ n f s v, Fetches s n (isaWord op f) v → ok (isaWord op f) → Issues (mk n f) s v n fun x k t =>
    Ran x t n k id onward (res (x.core n) (isaWord op f))

/-- The sixteen lanes of a lanewise operation and its flags: the OR of the lanes' flags (R144). -/
def lanewise (w : Word) (lane : Nat → FRes) : Result :=
  { dest := .v (Isa.vd w) (fun l => BitVec.ofNat 32 (lane l).bits)
    flags := (List.range 16).foldl (fun f l => Nat.lor f (lane l).flags) 0 }

/-- The value as an operand of the row unit. -/
def laneNat (c : Core) (i l : Nat) : Nat := (c.lane i l).toNat

/-- A tree of pairwise sums or maxima over 16 values with the flags of every operation (R145). -/
def treeOf (op : Nat → Nat → FRes) : Nat → (Nat → FRes) → FRes
  | 0, x => x 0
  | k + 1, x => treeOf op k fun i =>
    let r := op (x (2 * i)).bits (x (2 * i + 1)).bits
    ⟨r.bits, Nat.lor r.flags (Nat.lor (x (2 * i)).flags (x (2 * i + 1)).flags)⟩

end Sys2Proof.Claims

/-- R144, R239, R282: in the cycle after their issue VLD and VST move the 16 lanes of a row register and 64 bytes of the own scratchpad; of words
that R84 suppresses nothing is written, and no other byte changes; an uncorrectable word of a VLD sets the latch, and tears down the context in a
real-time partition. A misaligned address, or one outside the own scratchpad, is not accessed. -/
def Sys2Proof.Claims.RowAccess : Prop :=
  (∀ n f s v, Fetches s n (isaWord 0x40 f) v → Issues (.vld n f) s v n fun x k t =>
    let w := isaWord 0x40 f
    let a := wideAddr (x.core n) w
    let z := ((x.coreTo n (k + 1)).coreGrant n (k + 1) ordSeq (x.claimAt false a)).coreCycle n (k + 1)
    (wideOk x n a → (∀ i, i < 8 → sound z (a + 8 * i)) → GoesOn z t n k id { dest := .v (Isa.vd w) (laneAt z a) }) ∧
    (wideOk x n a → ¬ (∀ i, i < 8 → sound z (a + 8 * i)) → GoesOn (z.seqUe n) t n k id { dest := .v (Isa.vd w) (laneAt z a) }) ∧
    (¬ wideOk x n a → Denies x t n k 0 (if a % 64 = 0 then 0x0C else 0x0B) (BitVec.ofNat 32 a))) ∧
  (∀ n f s v, Fetches s n (isaWord 0x41 f) v → Issues (.vst n f) s v n fun x k t =>
    let w := isaWord 0x41 f
    let a := wideAddr (x.core n) w
    let z := ((x.coreTo n (k + 1)).coreGrant n (k + 1) ordSeq (x.claimAt true a)).timed n (k + 1)
    (wideOk x n a → ∃ y, StoreFrame z y n ∧ GoesOn y t n k id { dest := .none } ∧
      ((∀ i, i < 8 → ¬ armed z n (a - memBase n + 8 * i)) →
        (∀ i, i < 64 → seen y (a + i) = if z.suppressed n (a + i / 8 * 8) then seen z (a + i)
          else [BitVec.ofNat 8 (laneNat (x.core n) (Isa.vd w) (i / 4) / 256 ^ (i % 4))]) ∧
        (∀ o, o < a ∨ a + 64 ≤ o → seen y o = seen z o))) ∧
    (¬ wideOk x n a → Denies x t n k 0 (if a % 64 = 0 then 0x0C else 0x0B) (BitVec.ofNat 32 a)))

/-- R128, R144, R145: the lanewise operations VOP and VFMA, the reductions VRED and the broadcast.
Where a clause rests on a choice of the model and not on a rule, the choice is that of log entries 80 and 99. -/
def Obligations.RowResults : Prop :=
  CompletesFor (fun w => Isa.sel w ≤ 11) .vop 0x42 (fun c w =>
    let x := fun l => laneNat c (Isa.va w) l
    let y := fun l => laneNat c (Isa.vb w) l
    match Isa.sel w with
    | 0 => lanewise w fun l => b32.add 0 false (x l) (y l)
    | 1 => lanewise w fun l => b32.add 0 true (x l) (y l)
    | 2 => lanewise w fun l => b32.mul 0 (x l) (y l)
    | 3 => lanewise w fun l => b32.minmax false (x l) (y l)
    | 4 => lanewise w fun l => b32.minmax true (x l) (y l)
    | 5 => lanewise w fun l => ⟨x l % 2 ^ 31, 0⟩
    | 6 => lanewise w fun l => ⟨Nat.xor (x l) (2 ^ 31), 0⟩
    | 7 => lanewise w fun l => b32.minmax true (x l) 0
    | 8 => lanewise w fun l =>
      let v := b32.decode (x l)
      if v.isNaN then ⟨0, if v.isSNaN then 1 else 0⟩ else ⟨if v.cmp (.fin false 0 0) == .gt then 0x3F800000 else 0, 0⟩
    | 9 => lanewise w fun l => b32.ofInt 0 (c.lane (Isa.va w) l).toInt
    | 10 => lanewise w fun l => b32.toInt 0 (-2147483648) 2147483647 (x l)
    | _ => { dest := .v (Isa.vd w) fun _ => lo32 (c.fr (Isa.rs2 w)) }) ∧
  Completes .vfma 0x43 (fun c w => lanewise w fun l =>
    b32.fma 0 false false (laneNat c (Isa.va w) l) (laneNat c (Isa.vb w) l) (laneNat c (Isa.vd w) l)) ∧
  Completes .vred 0x44 (fun c w =>
    let r := treeOf (if w.getLsbD 0 then b32.minmax true else b32.add 0 false) 4 fun l => ⟨laneNat c (Isa.va w) l, 0⟩
    { dest := .f (Isa.rs2 w) (BitVec.ofNat 64 (r.bits % 2 ^ 32)), flags := r.flags })

namespace Sys2Proof.Claims

open Sys2Proof Sys2Proof.Machine

/-- One lane's code of VQ8 (R190, R191), whether it is clipped, and NV: round to nearest even of the product of x and the reciprocal,
plus Z, held in the range of the output format; a NaN gives Z, or 0 for a signed format, clipped, with NV. -/
def vq8Code (int4 sgn : Bool) (z : Nat) (x r : Nat) : Int × Bool × Bool :=
  let lo : Int := if sgn then (if int4 then -7 else -127) else 0
  let hi : Int := if sgn then (if int4 then 7 else 127) else if int4 then 15 else 255
  let zero : Int := if sgn then 0 else z
  match b32.decode (b32.mul 0 x r).bits with
  | .nan .. => (zero, true, true)
  | .inf neg => (if neg then lo else hi, true, false)
  | .fin neg m e =>
    let v := (roundInteger 0 neg m e).1 + zero
    if v < lo then (lo, true, false) else if hi < v then (hi, true, false) else (v, false, false)

end Sys2Proof.Claims

/-- R189 to R193: VQ8 converts the lanes of va by the parameters in vb, and places the codes in the bytes of position P of vd, or in their
nibbles H; every other bit of vd stays. The lanes that LMASK names, and those of them that are clipped, are counted for this cycle in the enabled
entry, unless NOCNT is set; nothing else happens.
Where a clause rests on a choice of the model and not on a rule, the choice is that of log entry 80. -/
def Obligations.QuantiseResults : Prop :=
  ∀ n f s v, Fetches s n (isaWord 0x42 f) v → Isa.sel (isaWord 0x42 f) = 12 → Issues (.vq8 n f) s v n fun x k t =>
    let w := isaWord 0x42 f
    let c := x.core n
    let int4 := w.getLsbD 8
    let q := c.lane (Isa.vb w) 1
    let l2 := c.lane (Isa.vb w) 2
    let code := fun l => vq8Code int4 (q.getLsbD 31) (fld q 0 (if int4 then 4 else 8)) (laneNat c (Isa.va w) l)
      (laneNat c (Isa.vb w) 0)
    let shown := (List.range 16).filter fun l => (c.lane (Isa.vb w) 3).getLsbD l
    let entry := n / 8 * 32 + fld l2 0 5
    ∃ y lane, y = { x with cyc := { x.cyc with cal := { x.cyc.cal with counts := y.cyc.cal.counts } } } ∧
      (∀ j, FMap.get (0, 0) y.cyc.cal.counts j =
        let old := FMap.get (0, 0) x.cyc.cal.counts j
        if j = entry ∧ l2.getLsbD 31 = false ∧ (x.act (R.CLU_CALCFG (n / 8) (fld l2 0 5))).getLsbD 31 = true then
          (old.1 + shown.length, old.2 + (shown.filter fun l => (code l).2.1).length)
        else old) ∧
      Ran y t n k id onward { dest := .v (Isa.vd w) lane, flags := if (List.range 16).any fun l => (code l).2.2 then 1 else 0 } ∧
      (∀ b, b < 64 →
        let old := fld (c.lane (Isa.vd w) (b / 4)) (8 * (b % 4)) 8
        fld (lane (b / 4)) (8 * (b % 4)) 8 =
          if b / 16 = fld w 6 2 then
            let k := ((code (b % 16)).1 % (if int4 then 16 else 256)).toNat
            if int4 then (if w.getLsbD 9 then old % 16 + 16 * k else old / 16 * 16 + k) else k
          else old)

namespace Sys2Proof.Claims

open Sys2Proof Sys2Proof.Machine

/-- mix(z) of R202, and the 32 bits r of lane l from key k, counter c, stream n and domain d. -/
def mixed (z : Dword) : Dword :=
  let a := (z ^^^ (z >>> 32)) * 0xD6E8FEB86659FD93
  let b := (a ^^^ (a >>> 29)) * 0xA3B195A354E52F6B
  b ^^^ (b >>> 32)

def drawn (k c : Dword) (n : Word) (d l : Nat) : Nat :=
  let w : Dword := BitVec.ofNat 64 (n.toNat * 2 ^ 32 + d * 2 ^ 8 + l)
  (mixed (mixed (c ^^^ k) ^^^ w ^^^ k.rotateLeft 32)).toNat / 2 ^ 32

end Sys2Proof.Claims

/-- R202: VRAND fills its row from the generator by its mode: the bits, a fraction from 0 to below 1, or 1.0 where they reach the lane's threshold. -/
def Obligations.RandomResults : Prop :=
  Completes .vrand 0x45 fun c w =>
    { dest := .v (Isa.vd w) fun l =>
        let r := drawn (c.fr (Isa.rs2 w)) (c.fr (Isa.rs2 w + 1)) (c.gr (Isa.rs1 w)) (fld w 2 8) l
        match fld w 0 2 with
        | 0 => BitVec.ofNat 32 r
        | 1 => BitVec.ofNat 32 (b32.roundInt 0 (r / 256 : Nat) (-24) false).bits
        | _ => if (c.lane (Isa.vd w) l).toNat ≤ r then 0x3F800000 else 0 }

namespace Sys2Proof.Claims

open Sys2Proof Sys2Proof.Machine

/-- The descriptor at a, as its words stand corrected (R154). -/
def descAt (u : State) (a : Nat) : ArrDesc := ArrDesc.ofDwords ((List.range 4).map fun i => BitVec.ofNat 64 (u.peekLe (a + 8 * i) 8))

/-- Core n holds `len` bytes at a in its own scratchpad, in banks that answer. -/
def ownRowAt (u : State) (n a len : Nat) : Prop := ∃ p, u.reach n a len = some p ∧ p.mem = n

/-- The descriptor at a can be read, and every operand row of the arrays named is in the own scratchpad and can be read. -/
structure AmmReady (u : State) (n a amask : Nat) : Prop where
  addr  : a % 32 = 0 ∧ ownRowAt u n a 32
  words : ∀ i, i < 4 → sound u (a + 8 * i)
  legal : (descAt u a).bad = false
  rows  : ∀ i k, i < 8 → amask.testBit i = true → k < (descAt u a).rows → ∀ x ∈ (descAt u a).rowsAt i k,
    ownRowAt u n x.1 x.2 ∧ ∀ w ∈ wordsOf x.1 x.2, sound u w

end Sys2Proof.Claims

/-- R146, R154 to R159, R284: an AMM whose operands are there begins on each array named: its first rows are presented two cycles after the
issue, and the array takes its next command once the last step has begun. One that starts the accumulators clears the array's latch. The other
arrays stay. -/
def Sys2Proof.Claims.MultiplyResults : Prop :=
  ∀ n f s v, Fetches s n (isaWord 0x50 f) v → Issues (.amm n f) s v n fun x k t =>
    let w := isaWord 0x50 f
    let a := ((x.core n).gr (Isa.rsA w)).toNat
    let z := (x.coreTo n (k + 2)).timed n (k + 1)
    let d := descAt z a
    let named := fun i => i < 8 ∧ (Isa.amask w).testBit i = true
    ((z.core n).run = false → t = z.timedAt none) ∧
    ((z.core n).run = true → AmmReady z n a (Isa.amask w) → ∃ y u : State, z.OnlyRead y ∧ u = { y with cores := u.cores } ∧
      (∀ m, m ≠ n → u.core m = y.core m) ∧ u.core n = { y.core n with arrs := (u.core n).arrs } ∧
      (∀ i, named i → let o := (y.core n).arr i
        (u.core n).arr i = { o with
          runs := o.runs ++ [⟨d.w0, d.w1, [d.aaddr, d.baddr, d.taddr, d.strides, d.tan, d.arrs], w.getLsbD 0, k, d.rows, 0, k + 2,
            d.rowsAt i 0, [], [], []⟩]
          free := k + d.rows * amCost d.w0
          poison := o.poison && (w.getLsbD 0 && (arrClass o).1 == decide (amFmt d.w0 = 2) && (arrClass o).2 == amNtan d.w0) }) ∧
      (∀ i, ¬ named i → (u.core n).arr i = (y.core n).arr i) ∧
      Ran u t n k id onward { dest := .none })

/-- R157, R158: once the rows of a step have been read in cycle t, its products begin three cycles later, one step after another; its next
rows, if it has more steps, are presented when these products have taken their cycles. Until then the array takes no step. -/
def Sys2Proof.Claims.StepsRead : Prop :=
  ∀ (r : AmmRun) a t got, (∀ p ∈ r.left, ∃ g ∈ got, g.1 = p) →
    let c := amCost r.w0
    r.took a t got = { r with
      got := [], left := if r.steps.length + 1 < r.need then r.desc.rowsAt a (r.steps.length + 1) else []
      steps := r.steps ++ [r.desc.stepOf (r.got ++ got) a r.steps.length], prods := r.prods ++ [(t + 2, t + 1 + c)], next := t + c }

/-- R126, R127, R146, R155: in the cycle after its issue an AMM whose descriptor is misaligned or lies outside the own scratchpad is not made; one
with a reserved descriptor is an illegal encoding, and one with operand rows outside the own scratchpad is not made. -/
def Sys2Proof.Claims.MultiplyFailures : Prop :=
  ∀ n f s v, Fetches s n (isaWord 0x50 f) v → Issues (.amm n f) s v n fun x k t =>
    let w := isaWord 0x50 f
    let a := ((x.core n).gr (Isa.rsA w)).toNat
    let z := (x.coreTo n (k + 2)).timed n (k + 1)
    (z.core n).run = true →
    (a % 32 ≠ 0 → Denies z t n k 1 0x0B (BitVec.ofNat 32 a)) ∧
    (a % 32 = 0 → ¬ ownRowAt z n a 32 → Denies z t n k 1 0x0C (BitVec.ofNat 32 a)) ∧
    (a % 32 = 0 → ownRowAt z n a 32 → (∀ i, i < 4 → sound z (a + 8 * i)) → ∃ y : State, z.OnlyRead y ∧
      ((descAt z a).bad = true →
        if y.coreRt n then Ran (y.bump (R.COR_ILL n)) t n k id onward { dest := .none, flags := 0x1000 } else Trapped y t n (k + 1) 0x0A w) ∧
      ((descAt z a).bad = false → ∀ r, y.badRow n (descAt z a) (Isa.amask w) = some r → Denies y t n k 1 0x0C (BitVec.ofNat 32 r)))

/-- R157, R159, R161: the oldest AMM of an array completes once it has read every step: each of its steps in turn updates the accumulators, which
it starts from zero when ACC is 0 or its class differs; the AMM is gone. -/
def Sys2Proof.Claims.AccumulatorsComplete : Prop :=
  ∀ n i (s : State), n < s.nCores → i < 8 →
    match ((s.core n).arr i).runs with
    | [] => exec (.accumulatorsComplete n i) s = .next s
    | r :: _ =>
      let u := s.coreTo n (runDone r)
      let x := (u.core n).arr i
      ∃ t, exec (.accumulatorsComplete n i) s = .next t ∧
        match x.runs with
        | [] => t = u
        | q :: rest =>
          if q.steps.length = q.need then
            let flt := decide (amFmt q.w0 = 2)
            let same := x.flt == flt && x.ntan == amNtan q.w0
            let start := if q.acc && same then x
              else { x with cells := [], flt := flt, ntan := amNtan q.w0, sticky := if q.acc then 32 else 0 }
            t = u.modCore n fun c => c.setArr i { (if q.steps = [] then x else q.steps.foldl (arrStep q.w0 q.w1) start) with runs := rest }
          else t = u

/-- R163: an integer step adds the product and saturates at the ends of 32 bits, with ASAT. -/
def Sys2Proof.Claims.IntegerStep : Prop :=
  ∀ w0 w1 st i j c, amFmt w0 ≠ 2 → i < 16 → j < 16 →
    let p := intProduct w0 w1 (st.a.getD i 0) (st.b.getD j 0)
    let r := cellStep w0 w1 st i j c
    let v := c.ival + p
    r.1.fval = c.fval ∧
    (v < -2147483648 → r.1.ival = -2147483648 ∧ r.2.testBit 0 = true) ∧
    (2147483647 < v → r.1.ival = 2147483647 ∧ r.2.testBit 0 = true) ∧
    (-2147483648 ≤ v → v ≤ 2147483647 → r.1.ival = v) ∧
    (amNtan w0 = 0 → r.1.t0 = c.t0 ∧ r.1.t1 = c.t1 ∧ r.1.t2 = c.t2 ∧ r.1.t3 = c.t3)

/-- R147, R160, R170, R242: AST ends what the arrays named had in progress, and each of them drains from its own address in the 8 cycles that
follow, taking its next command after them; TFLAGS takes their bits and those of the conversion 10 cycles later. In its cycle each row, that of
drain cycle d plus the array's number, is written from the accumulators, unless the write is held, which moves the drain by a cycle (R251).
Where a clause rests on a choice of the model and not on a rule, the choice is that of log entries 1, 24 and 77. -/
def Obligations.DrainResults : Prop :=
  (∀ n f s v, Fetches s n (isaWord 0x51 f) v → Issues (.ast n f) s v n fun x k t =>
    let w := isaWord 0x51 f
    let base := ((x.core n).gr (Isa.rsA w)).toNat
    let named := fun i => i < 8 ∧ (Isa.amask w).testBit i = true
    let after := fun i =>
      let o := arrSettle ((x.core n).arr i)
      { o with
        sticky := (List.range 256).foldl (fun f k => Nat.lor f (cellOut o (Isa.func w % 8) k).2) o.sticky
        free := k + 8, drain := some ⟨base, Isa.func w % 8, o.poison, 0, k + 1⟩ }
    let fl := ((List.range 8).filter fun i => (Isa.amask w).testBit i).foldl (fun m i => Nat.lor m (after i).sticky) 0
    (base % 128 ≠ 0 → Denies x t n k 0 0x0B (BitVec.ofNat 32 base)) ∧
    (base % 128 = 0 → ∀ a, x.badDrain n base (Isa.amask w) = some a → Denies x t n k 0 0x0C (BitVec.ofNat 32 a)) ∧
    (base % 128 = 0 → (∀ i r, named i → r < 8 → ownRowAt x n (base + 1024 * i + 128 * r) 128) → ∃ y : State,
      y = { x with cores := y.cores } ∧ (∀ m, m ≠ n → y.core m = x.core m) ∧ y.core n = { x.core n with arrs := (y.core n).arrs } ∧
      (∀ i, named i → (y.core n).arr i = after i) ∧ (∀ i, ¬ named i → (y.core n).arr i = (x.core n).arr i) ∧
      Ran y t n k (fun c => if fl = 0 then c else { c with late := c.late ++ [(k + 10, 0, fl)] }) onward { dest := .none })) ∧
  (∀ (s : State) n k held i d, ((s.core n).arr i).drain = some d → d.next = k →
    let x := (s.core n).arr i
    let r := (d.d + i) % 8
    let row := d.base + 1024 * i + 128 * r
    ((∃ c ∈ s.claimAt true row, (ordDrain i, c) ∈ held) →
      s.drainCycle n k held i = s.modCore n fun c => c.setArr i { x with drain := some { d with next := k + 1 }, free := x.free + 1 }) ∧
    ((∀ c ∈ s.claimAt true row, (ordDrain i, c) ∉ held) → ∃ y u : State, StoreFrame s y n ∧ s.drainCycle n k held i = u ∧
      u = { y with cores := u.cores } ∧ (∀ m, m ≠ n → u.core m = y.core m) ∧ ((u.core n).arr i).drain = d.on ∧
      u.core n = { y.core n with arrs := (u.core n).arrs, claims := (u.core n).claims } ∧
      ((∀ o, ¬ armed s n o) → ownRowAt s n row 128 → row % 128 = 0 →
        (∀ j, j < 32 → let o := row + 4 * j
          y.peekLe o 4 = if s.suppressed n (o / 8 * 8) then s.peekLe o 4 else (cellOut x d.set (32 * r + j)).1 % 2 ^ 32) ∧
        (∀ o, o < row ∨ row + 128 ≤ o → seen y o = seen s o))))

namespace Sys2Proof.Claims

open Sys2Proof Sys2Proof.Machine

/-- The command answers a next state, and what that state holds. -/
def Answers (c : Instr) (s : State) (post : State → Prop) : Prop := ∃ t, exec c s = .next t ∧ post t

end Sys2Proof.Claims

open Sys2Proof Sys2Proof.Machine Sys2Proof.Claims

/-! ## Reset, boot, security, test and power -/

namespace Sys2Proof.Claims

open Sys2Proof Sys2Proof.Machine

/-- A reset source holds the device (R434, R435, R437): every register outside the retained windows reads as after reset, memory keeps what was
written but for words that a run-time remap entry had moved, the fuses stay, and nothing runs. -/
structure IsReset (s t : State) (src : RstSrc) : Prop where
  held  : t.boot.held = if src ∈ s.boot.held then s.boot.held else s.boot.held ++ [src]
  still : t.running = false ∧ t.boot.state = .fuse ∧ t.cores = [] ∧ t.fen = [] ∧ t.dma = [] ∧ t.syncOps = [] ∧ t.counts = []
  regs  : ∀ o, t.rd o = if keptOff o then s.rd o else RegMap.resetValue o
  mem   : ∀ a, (∀ w ∈ s.lostSpares, ¬ (w ≤ a ∧ a < w + 8)) → memFind t.mem a = memFind s.mem a
  fuses : t.fuses = s.fuses

end Sys2Proof.Claims

/-- R475, R476, R478: a PORST_N pulse of 10 µs or more resets the device and ends the hold of a thermal trip, one below 1 µs does nothing; so do
the two writes of a chip reset within 1 ms, a brown-out of more than 2 µs, and a TAP instruction that stops the device. -/
def Sys2Proof.Claims.ResetSources : Prop :=
  (∀ s ns, s.Inv → 10000 ≤ ns → Answers (.porstN ns) s fun t =>
    t.boot.tripped = false ∧ IsReset s t .porst) ∧
  (∀ s ns, ns < 1000 → exec (.porstN ns) s = .next s) ∧
  (∀ s t0, s.Inv → s.hostOn = true → s.boot.rst1 = some t0 → (s.tb.raw - t0).toNat ≤ 1000000 →
    Answers (.chipReset 0x1E4C) s fun t => IsReset s t .chiprst) ∧
  (∀ s v, s.hostOn = true → (v ≠ 0x1E4C ∨ s.boot.rst1 = none) → exec (.chipReset v) s =
    .next { s with boot := { s.boot with rst1 := if v = 0xC4E1 then some s.tb.raw else none } }) ∧
  (∀ s ns, s.Inv → s.boot.held = [] → 2000 < ns → Answers (.brownout ns) s fun t => IsReset s t .brownout) ∧
  (∀ s ns, ns ≤ 2000 → exec (.brownout ns) s = .next s) ∧
  (∀ s ir, s.Inv → ir ≠ .bypass → ir ≠ .idcode → ¬ (ir = .privateInstr ∧ s.fuses.debugClose = true) →
    Answers (.tapInstruction ir) s fun t => IsReset s t .tap ∧ t.boot.tapIr = ir ∧ t.boot.tapHold = true) ∧
  (∀ s ir, ir = .bypass ∨ ir = .idcode → exec (.tapInstruction ir) s = .next { s with boot := { s.boot with tapIr := ir } }) ∧
  (∀ s, exec .tapTestLogicReset s = .next { s with boot := { s.boot with tapIr := .idcode, tapHold := false } })

/-- R435, R436, R476: when no source holds the device longer the straps are taken, GLB_RSTCAUSE shows one cause by its precedence, and the
boot stands in FUSE. -/
def Obligations.ResetRelease : Prop :=
  ∀ s role src, s.Inv → s.boot.held ≠ [] → s.boot.tripped = false → s.boot.tapHold = false →
    Answers (.resetRelease role src) s fun t =>
      t.boot.held = [] ∧ t.boot.state = .fuse ∧ t.boot.pairRole = role ∧ t.boot.bootSrc = src ∧ t.fuses = s.fuses ∧
      (t.rd R.MIR_STAT).getLsbD 31 = role ∧ (t.rd R.SEC_BOOTSTAT).getLsbD 6 = src ∧
      (t.rd R.GLB_RSTCAUSE).toNat = (if RstSrc.thermtrip ∈ s.boot.held then 8 else if RstSrc.brownout ∈ s.boot.held then 4
        else if RstSrc.porst ∈ s.boot.held then 1 else if RstSrc.tap ∈ s.boot.held then 16 else 2) ∧
      ∀ o, o ≠ R.MIR_STAT → o ≠ R.SEC_BOOTSTAT → o ≠ R.GLB_RSTCAUSE → t.rd o = if keptOff o then s.rd o else RegMap.resetValue o

/-- R477, R478: a reading below +125 °C is shown, raises GLB_TMAX when it is higher, and warns once at the limit; one at +125 °C trips
the device. -/
def Sys2Proof.Claims.Temperature : Prop :=
  ∀ s temps, s.boot.held = [] → temps ≠ [] → temps.length ≤ 17 →
    let old := (BitVec.ofNat 16 (s.field R.GLB_TMAX 0 16)).toInt
    let limit := (BitVec.ofNat 16 (s.field R.GLB_TWARN 0 16)).toInt
    ((∀ x ∈ temps, x.toInt < 500) → Answers (.temperatureSensorRead temps) s fun t =>
      let new := (BitVec.ofNat 16 (t.field R.GLB_TMAX 0 16)).toInt
      (∀ i, i < temps.length → (t.rd (R.GLB_TEMP i)).toNat = (temps.getD i 0).toNat) ∧
      (old ≤ new ∧ (∀ x ∈ temps, x.toInt ≤ new) ∧ (new = old ∨ ∃ x ∈ temps, x.toInt = new)) ∧
      ((∃ x ∈ temps, limit ≤ x.toInt) → t.boot.warned = true ∧
        t.rd R.GLB_LOGSEQ = s.rd R.GLB_LOGSEQ + (if s.boot.warned then 0 else 1)) ∧
      ((∀ x ∈ temps, x.toInt ≤ limit - 8) → t.boot.warned = false ∧ t.rd R.GLB_LOGSEQ = s.rd R.GLB_LOGSEQ) ∧
      s.SameMem t ∧ t.cores = s.cores) ∧
    ((∃ x ∈ temps, 500 ≤ x.toInt) → Answers (.temperatureSensorRead temps) s fun t =>
      t.boot.held = [.thermtrip] ∧ t.boot.tripped = true ∧ t.running = false ∧ t.out.getLast? = some (.thermtrip false))

/-- R436 to R446: each boot state's work leads to the next: the fuses load and M0 takes the ROM's hash, the header is read, the verdict on the
image is recorded, the configuration is measured and applied. -/
def Sys2Proof.Claims.BootStates : Prop :=
  (∀ s, s.boot.state = .fuse → s.boot.held = [] → Answers .bootFuseDone s fun t =>
    t.boot.state = .load ∧ t.field R.SEC_BOOTSTAT 28 4 = 1 ∧ t.fuses.arbNorm = s.fuses.arbNorm ||| s.fuses.arbHigh ∧
    t.fuses.arbHigh = s.fuses.arbNorm ||| s.fuses.arbHigh ∧ t.boot.svn = arbCount (s.fuses.arbNorm ||| s.fuses.arbHigh) ∧
    (s.fuses.remap = [] → t.measured 0 = leBytes 48 (Config.sha3_384 (s.measured 0 ++ leBytes 48 s.fuses.romHash.toNat)).toNat)) ∧
  (∀ s flash, s.boot.state = .load → s.boot.held = [] → s.boot.bootSrc = false → s.boot.hostImg = false →
    Answers (.bootImageLoad flash) s fun t => t.boot = { s.boot with state := .verify, unread := false, image := t.boot.image } ∧
      t.boot.image.length = imgHeader ∧ (∀ i, i < imgHeader → i < flash.length → t.boot.image.getD i 0 = flash.getD i 0) ∧
      t.field R.SEC_BOOTSTAT 28 4 = 2) ∧
  (∀ s, s.hostOn = true → s.boot.hostImg = false → (s.boot.state = .load ∧ s.boot.bootSrc = true ∨ s.boot.state = .halt) →
    Answers .secBootctlGo s fun t => t.boot.state = .load ∧ t.boot.hostImg = true ∧ t.boot.copyB = false) ∧
  (∀ s, s.boot.state = .load → s.boot.held = [] → s.boot.hostImg = true →
    ∀ flash, Answers (.bootImageLoad flash) s fun t => t.boot.state = .verify ∧ t.field R.SEC_BOOTSTAT 28 4 = 2 ∧
      t.boot.unread = (s.secRead hostImage imgHeader).2.isNone ∧ t.boot.image = (s.secRead hostImage imgHeader).2.getD []) ∧
  (∀ s payload, s.boot.state = .verify → s.boot.held = [] → s.boot.hostImg = false →
    let b := s.boot
    let code := if b.unread then 9
      else s.imageCode b.image 1 fwRoom (some (if imgPlen b.image ≤ payload.length then payload.take (imgPlen b.image) else payload)) fwValid
    Answers (.bootVerifyDone payload) s fun t =>
      t.field R.SEC_BOOTSTAT (if b.copyB then 8 else 16) 8 = code % 256 ∧
      t.boot.state = (if code = 0 then .config else if b.copyB then .halt else .load) ∧
      (code = 0 → t.boot.fwSvn = imgSvn b.image ∧ t.boot.fwSlot = imgSlot b.image ∧ (t.rd R.SEC_BOOTSTAT).getLsbD 7 = b.copyB) ∧
      (code ≠ 0 → b.copyB = false → t.boot.copyB = true)) ∧
  (∀ s, s.boot.state = .config → s.boot.held = [] → Answers .bootConfig s fun t =>
    t.boot.state = .train ∧ t.field R.SEC_BOOTSTAT 28 4 = 4 ∧
    let mask := leAt (s.boot.image.drop imgHeader) 16 1 % 16
    ∀ k, k < 4 → t.fuses.revoked.testBit k = (s.fuses.revoked.testBit k || (mask.testBit k && k != s.boot.fwSlot)))

/-- R301, R304, R436: training ends in RUN with BOOT_DONE logged: the memory's size is shown when every channel passes, and reads 0 when
one fails. -/
def Sys2Proof.Claims.TrainingEnds : Prop :=
  ∀ s fit, s.boot.state = .train → s.boot.held = [] → Answers (.lpddr6Training fit) s fun t =>
    t.boot.state = .run ∧ t.field R.SEC_BOOTSTAT 28 4 = 5 ∧
    (∃ v : State, t = v.event 0x0E01 (BitVec.ofNat 32 (s.field R.SEC_BOOTSTAT 16 8 * 2 ^ 16 + s.field R.SEC_BOOTSTAT 6 1 * 2 ^ 9 +
      s.field R.SEC_BOOTSTAT 7 1 * 2 ^ 8 + s.boot.svn)) none) ∧
    (s.trainFails fit = [] → (t.rd R.GLB_MEM).toNat = 4 * fit.chGib ∧ (t.rd R.MEM_STAT).getLsbD 31 = true) ∧
    (s.trainFails fit ≠ [] → t.rd R.GLB_MEM = 0 ∧ (t.rd R.MEM_FLAGS).getLsbD 0 = true ∧ (t.rd R.MEM_STAT).getLsbD 31 = false)

/-- R429, R443, R451: a raise of the rollback counter begins when the controller is free and the target, limited to the firmware's number and
64, is above the counter; done, the fuses below it are blown. A controller at work answers 0x0B, and one past 500 ms restarts. -/
def Sys2Proof.Claims.RollbackRaises : Prop :=
  (∀ s target, s.hostOn = true → s.secBusy = false →
    let goal := min (min target.toNat s.boot.fwSvn) 64
    Answers (.arbRaiseRequest target) s fun t =>
      if goal ≤ s.boot.svn then t.field R.SEC_ARBSTAT 0 8 = 0 ∧ t.boot = s.boot
      else t.boot = { s.boot with secOp := some (.arb goal), secRaw := s.tb.raw, secTime := s.time } ∧ (t.rd R.SEC_ARBSTAT).getLsbD 31 = true) ∧
  (∀ s target, s.hostOn = true → s.secBusy = true → Answers (.arbRaiseRequest target) s fun t =>
    t.field R.SEC_ARBSTAT 0 8 = 0x0B ∧ t.boot = s.boot) ∧
  (∀ s goal, s.boot.secOp = some (.arb goal) → Answers .arbRaised s fun t =>
    t.boot.secOp = none ∧ t.rd R.SEC_ARBSTAT = 0 ∧
    (∀ i, i < 64 → t.fuses.arbNorm.getLsbD i = (s.fuses.arbNorm.getLsbD i || decide (i < goal)) ∧
      t.fuses.arbHigh.getLsbD i = (s.fuses.arbHigh.getLsbD i || decide (i < goal))) ∧
    t.boot.svn = arbCount t.fuses.arbNorm ∧ t.rd R.GLB_LOGSEQ = s.rd R.GLB_LOGSEQ + 1) ∧
  (∀ s op, s.boot.secOp = some op → 500000000 < (s.tb.raw - s.boot.secRaw).toNat → Answers .securityWatchdogExpiry s fun t =>
    t.boot.secOp = none ∧ (t.escOf (escKey 7 0 0)).run = (if (s.escOf (escKey 7 0 0)).run < 3 then (s.escOf (escKey 7 0 0)).run + 1 else 3)) ∧
  (∀ s op, s.boot.secOp = some op → (s.tb.raw - s.boot.secRaw).toNat ≤ 500000000 → exec .securityWatchdogExpiry s = .next s)

/-- R447, R448: a verification is refused while the controller is at work; done, it gives code 0 and the artifact's measurement, lock and
manifest address, or a code and VERIFY_FAIL with none of them. SEC_UNLOCK ends locks. -/
def Sys2Proof.Claims.ArtifactVerification : Prop :=
  (∀ s p, s.hostOn = true → p < 8 → s.secBusy = false → s.loadPending p = false → Answers (.artifactVerify p) s fun t =>
    t.boot = { s.boot with secOp := some (.verify p), secRaw := s.tb.raw, secTime := s.time } ∧
    (t.rd R.SEC_VSTAT).toNat = 2 ^ 31 + p * 2 ^ 8) ∧
  (∀ s p, s.hostOn = true → p < 8 → (s.secBusy = true ∨ s.loadPending p = true) → Answers (.artifactVerify p) s fun t =>
    t.boot = s.boot ∧ t.field R.SEC_VSTAT 0 8 = 0x0B ∧ t.field R.SEC_VSTAT 8 3 = p ∧ (t.rd R.SEC_FLAGS).getLsbD 0 = true ∧
    ∃ v : State, t = v.event 0x0E02 (BitVec.ofNat 32 (p + 0x0B * 2 ^ 8)) none) ∧
  (∀ s p, p < 8 → s.boot.secOp = some (.verify p) → Answers .artifactVerifyDone s fun t =>
    t.boot.secOp = none ∧ t.field R.SEC_VSTAT 8 3 = p ∧ (t.rd R.SEC_VSTAT).getLsbD 31 = false ∧
    if t.field R.SEC_VSTAT 0 8 = 0 then
      (∃ l, FMap.find t.boot.locks p = some l) ∧ t.rd64 (R.SCH_MAN p) = s.rd64 R.SEC_VADDR + 0x1580 ∧
        ∀ i, i < 12 → i ≠ 4 + p → t.measured i = s.measured i
    else t.boot.locks = s.boot.locks ∧ t.rd64 (R.SCH_MAN p) = s.rd64 (R.SCH_MAN p) ∧ (∀ i, i < 12 → t.measured i = s.measured i) ∧
      (t.rd R.SEC_FLAGS).getLsbD 0 = true) ∧
  (∀ s parts, s.hostOn = true → Answers (.secUnlock parts) s fun t =>
    (∀ p, p < 8 → parts.getLsbD p = true → FMap.find t.boot.locks p = none) ∧ s.SameMem t ∧ t.cores = s.cores)

/-- R449 to R451: a report is made of the nonce that the request gives, written at SEC_AADDR where that is open memory, or sent in five frames. -/
def Sys2Proof.Claims.Attestation : Prop :=
  (∀ s, s.hostOn = true → s.secBusy = false → s.escalated 7 0 0 = false → Answers .attestReportRequest s fun t =>
    t.boot = { s.boot with
      secOp := some (.report none ((List.range 8).flatMap fun w => leBytes 4 (s.rd (R.SEC_NONCE w)).toNat)), secRaw := s.tb.raw, secTime := s.time } ∧
    (t.rd R.SEC_ASTAT).getLsbD 31 = true) ∧
  (∀ s, s.hostOn = true → (s.secBusy = true ∨ s.escalated 7 0 0 = true) → Answers .attestReportRequest s fun t =>
    t.boot = s.boot ∧ t.field R.SEC_ASTAT 0 8 = 0x0B) ∧
  (∀ s nonce, s.boot.secOp = some (.report none nonce) → Answers .attestReportDone s fun t =>
    t.boot.secOp = none ∧
    if s.openRange (s.rd64 R.SEC_AADDR).toNat (s.report nonce).length then
      t.rd R.SEC_ASTAT = 0 ∧ ∃ v : State, t = ((v.writeBytes (s.rd64 R.SEC_AADDR).toNat (s.report nonce) 0xC none false).st).wr R.SEC_ASTAT 0 ∧
        v.mem = s.mem ∧ v.cores = s.cores
    else t.rd R.SEC_ASTAT = 9 ∧ t.mem = s.mem) ∧
  (∀ s who nonce, s.boot.secOp = some (.report (some who) nonce) → Answers .attestReportDone s fun t =>
    t.boot.secOp = none ∧ t.mem = s.mem ∧ t.cores = s.cores) ∧
  (∀ (s : State) nonce, (s.report nonce).length = 6093)

/-- R455, R460, R456: a memory BIST runs only on free banks that are on, and leaves them undefined with its failures shown; LPDDR6 out of
service reads 0 GiB until it is trained again; a link checker reports its lock. -/
def Sys2Proof.Claims.TestUnits : Prop :=
  (∀ s m banks, s.hostWrites = true → s.boot.bist = none → m < 144 → s.hasMem m = true →
    (∀ b, b < 16 → banks.getLsbD b = true → s.bankBusy m b = false ∧ covered (s.guards m) (b * bankSize m) (bankSize m) = false) →
    Answers (.memoryBistStart m banks) s fun t => t.boot = { s.boot with bist := some (m, banks.toNat) } ∧
      (t.rd R.TST_MBSTAT).getLsbD 31 = true ∧ ∀ i, i < 8 → t.rd (R.TST_MBFAIL i) = 0) ∧
  (∀ s m banks b, s.hostWrites = true → s.boot.bist = none → b < 16 → banks.getLsbD b = true →
    (s.bankBusy m b = true ∨ covered (s.guards m) (b * bankSize m) (bankSize m) = true) →
    Answers (.memoryBistStart m banks) s fun t => t = s.wr R.TST_MBSTAT 1) ∧
  (∀ s m banks fails, s.Inv → s.boot.bist = some (m, banks) → Answers (.memoryBistDone fails) s fun t =>
    t.boot = { s.boot with bist := none } ∧ (t.rd R.TST_MBSTAT).getLsbD 31 = false ∧
    (∀ b o, b < 16 → banks.testBit b = true → o < bankSize m → memFind t.mem (memBase m + b * bankSize m + o) = none) ∧
    (∀ a, (∀ b, b < 16 → banks.testBit b = true → ¬ (memBase m + b * bankSize m ≤ a ∧ a < memBase m + b * bankSize m + bankSize m)) →
      memFind t.mem a = memFind s.mem a)) ∧
  (∀ s, s.hostWrites = true → s.memOn = true → s.anyTable = false → s.logOn = false → (∀ c ∈ s.dma, c.2.st ≠ .run) →
    Answers .tstMemctlOff s fun t => t.rd R.GLB_MEM = 0 ∧ (t.rd R.MEM_STAT).getLsbD 30 = true ∧ s.RegsBut (fun o => o = R.GLB_MEM ∨ o = R.MEM_STAT) t ∧
      t = { s with regs := t.regs, cyc := s.cyc.flags t.cyc }) ∧
  (∀ s fit, s.hostWrites = true → s.quiet = false → (s.rd R.MEM_STAT).getLsbD 31 = true → (s.rd R.MEM_STAT).getLsbD 30 = true →
    s.field R.GLB_MEM 0 8 = 0 → s.trainFails fit = [] →
    Answers (.tstMemctlOn fit) s fun t => (t.rd R.GLB_MEM).toNat = 4 * fit.chGib ∧ (t.rd R.MEM_STAT).getLsbD 31 = true) ∧
  (∀ s lane, s.running = true → lane < 6 → (s.rd (R.TST_LCHK lane)).getLsbD 31 = true →
    Answers (.linkCheckerLock lane) s fun t => (t.rd (R.TST_LSTAT lane)).getLsbD 31 = true ∧
      (∀ o, o ≠ R.TST_LSTAT lane → t.rd o = s.rd o) ∧ t = { s with regs := t.regs, cyc := s.cyc.flags t.cyc })

/-- R479, R480: a request for a power state is taken when nothing bars it, or answered with the lowest code that does; the transition, once its
time has passed, ends in the state asked for, and FENCED holds clusters 4 to 15 out. -/
def Sys2Proof.Claims.PowerStates : Prop :=
  (∀ s req, (req = .run ∨ req = .fenced ∨ req = .quiesce) → s.hostWrites = true →
    let cmd : Instr := match req with
      | .run => .pwrReqRun
      | .fenced => .pwrReqFenced
      | .quiesce => .pwrReqQuiesce
    Answers cmd s fun t =>
      t.field R.GLB_PWRSTAT 0 8 = s.pwrCode req % 256 ∧
      (s.pwrCode req = 0 → ¬ (s.boot.toPower = none ∧ s.boot.power = req) →
        t.boot = { s.boot with toPower := some req, powerRaw := s.tb.raw, fenced := s.boot.fenced || req == Power.fenced } ∧
        (t.rd R.GLB_PWRSTAT).getLsbD 31 = true) ∧
      (s.pwrCode req ≠ 0 → t.boot = s.boot)) ∧
  (∀ s dst, s.boot.toPower = some dst → s.pwrTime dst ≤ (s.tb.raw - s.boot.powerRaw).toNat → Answers .pwrState s fun t =>
    t.boot.power = dst ∧ t.boot.toPower = none ∧ t.boot.fenced = (dst == Power.fenced) ∧ (t.rd R.GLB_PWRSTAT).getLsbD 31 = false ∧
    t.field R.GLB_PWRSTAT 8 2 = dst.num ∧ (∃ v : State, t = v.event 0x0106 (BitVec.ofNat 32 dst.num) none) ∧
    (dst = .fenced → ∀ n, 32 ≤ n → t.core n = Core.reset)) ∧
  (∀ s dst, s.boot.toPower = some dst → (s.tb.raw - s.boot.powerRaw).toNat < s.pwrTime dst → exec .pwrState s = .next s)

/-! ## Time and phase -/

namespace Sys2Proof.Claims

open Sys2Proof Sys2Proof.Machine

/-- A timebase commit of a group (R19, R74, R75): ignored and counted while the group is pending; else its code stands in TB_CSTAT, a code
of 0 makes the group pending, and another is logged. -/
def TimeCommit (c : Instr) (pend codeAt group : Nat) (code : State → Nat × Nat) : Prop :=
  ∀ s, s.hostWrites = true →
    ((s.rd R.TB_CSTAT).getLsbD pend = true → Answers c s fun t =>
      t = { s with regs := t.regs, cyc := s.cyc.flags t.cyc } ∧ t.rd R.GLB_STGIGN = satAdd (s.rd R.GLB_STGIGN) 1 ∧ ∀ o, o ≠ R.GLB_STGIGN → t.rd o = s.rd o) ∧
    ((s.rd R.TB_CSTAT).getLsbD pend = false → Answers c s fun t =>
      t.field R.TB_CSTAT codeAt 8 = (code s).1 % 256 ∧
      ((code s).1 = 0 → (t.rd R.TB_CSTAT).getLsbD pend = true ∧ (∀ o, o ≠ R.TB_CSTAT → t.rd o = s.rd o) ∧
        t = { s with regs := t.regs, cyc := s.cyc.flags t.cyc, tb := t.tb }) ∧
      ((code s).1 ≠ 0 → (t.rd R.TB_CSTAT).getLsbD pend = false ∧
        ∃ v : State, t = v.event 0x0206 (BitVec.ofNat 32 (group + (code s).1 * 2 ^ 8 + (code s).2 * 2 ^ 16)) none ∧
          v = { s with regs := v.regs, cyc := s.cyc.flags v.cyc } ∧ ∀ o, o ≠ R.TB_CSTAT → v.rd o = s.rd o))

end Sys2Proof.Claims

/-- R50, R58, R62, R65, R66, R74: the three commits of the timebase and what their codes say; a list takes effect in a wrap cycle that is not
its commit's, with W at 0. -/
def Sys2Proof.Claims.TimebaseCommits : Prop :=
  TimeCommit .tbCommitTime 24 0 1 (fun s =>
    (if (s.rd64 R.TB_RATE).toNat < 0x80000000 ∨ 0x180000000 < (s.rd64 R.TB_RATE).toNat then 1 else 0, 0)) ∧
  TimeCommit .tbCommitPh 25 8 2 (fun s =>
    let cfg := s.rd R.TB_PH_CFG
    let nom := (s.rd64 R.TB_PH_NOM).toNat % 2 ^ 48
    let off := fun k => ¬ (k < 4 ∧ (s.rd (R.TB_PIN_CFG k)).getLsbD 31 = true)
    (if (fld cfg 0 3 ≠ 4 ∧ off (fld cfg 0 3)) ∨ (cfg.getLsbD 7 = true ∧ off (fld cfg 4 3)) then 2
      else if nom < 1407375 ∨ 1407374883553 < nom ∨ fld cfg 16 4 = 0 then 3
      else if fld cfg 8 8 = 0 then 4 else 0, 0)) ∧
  TimeCommit .tbCommitEvt 26 16 4 State.evtCode ∧
  (∀ (s : State) i, i < 64 → (s.evtShadow i).en = true → (s.evtShadow i).bad = true → s.evtCode.1 = 5 ∧ s.evtCode.2 ≤ i) ∧
  (∀ s, s.running = true → (s.rd R.TB_CSTAT).getLsbD 26 = true → s.tb.inWrap = true → s.tb.evtNow = false →
    Answers .eventListTakesEffect s fun t =>
      (∀ i, i < 64 → t.evt i = s.evtShadow i) ∧ (t.rd R.TB_CSTAT).getLsbD 26 = false ∧
      t = { s with regs := t.regs, cyc := s.cyc.flags t.cyc, tb := { s.tb with w := 0, wrapDue := false, wCounted := false, wZero := true, evtNext := [] } })

/-- R49, R51, R53, R55, R63, R72: a snapshot shows the three clocks of its cycle; a wrap is counted in W; a level comes to its ball; the end of
coasting is asked for partitions that coast, and comes, with the cycle, when no anchor lies between the two clocks. -/
def Sys2Proof.Claims.ClockEffects : Prop :=
  (∀ s, s.hostWrites = true → Answers .tbSnapTake s fun t =>
    t.rd64 R.TB_SNAP_RAW = s.tb.raw ∧ t.rd64 R.TB_SNAP_TIME = s.time ∧ t.rd R.TB_SNAP_PHASE = phaseOf s.tb.acc ∧
    t = { s with regs := t.regs, cyc := s.cyc.flags t.cyc } ∧ ∀ o, (o < R.TB_SNAP_RAW ∨ R.TB_SNAP_PHASE < o) → t.rd o = s.rd o) ∧
  (∀ s, s.tb.wrapDue = true → exec .phaseWrap s = .next { s with tb := { s.tb with w := s.tb.w + 1, wrapDue := false, wCounted := true } }) ∧
  (∀ s k level, k < 4 → Answers (.phaseInEdge k level) s fun t =>
    (∀ j, t.pin j = if j = k then { s.pin k with ball := level } else s.pin j) ∧ t = { s with tb := { s.tb with pins := t.tb.pins } }) ∧
  (∀ s parts, s.hostWrites = true → exec (.tbCoastEnd parts) s = .next { s with tb := { s.tb with
    coastEnd := Nat.lor s.tb.coastEnd (Nat.land parts.toNat (s.rd R.TB_COAST).toNat) } }) ∧
  (∀ s p c, p < 8 → s.running = true → FMap.find s.tb.coast p = some c → c.ending = false → s.tb.coastEnd.testBit p = true →
    s.clearBetween p c.acc s.tb.acc = true → Answers (.phaseCoastEnd p) s fun t =>
      FMap.find t.tb.coast p = some { c with ending := true } ∧ (t.rd R.TB_COAST).getLsbD p = false ∧ t.tb.coastEnd.testBit p = false ∧
      (∀ q, q ≠ p → FMap.find t.tb.coast q = FMap.find s.tb.coast q) ∧
      ∃ v : State, t = v.event 0x0205 (BitVec.ofNat 32 (p * 2 ^ 8)) none)

/-- R55 to R58: an edge of an input that is not the active source is only cleared; of the active source in LOCKED it is rejected and counted
outside the window, and otherwise stamped with its error; a miss is counted, and the third bad edge in a row loses lock. -/
def Sys2Proof.Claims.PhaseLoopEdges : Prop :=
  (∀ s k, s.running = true → k < 4 → (s.pin k).cand = true → s.tb.src ≠ k → Answers (.candidateEdge k) s fun t =>
    (∀ j, t.pin j = if j = k then { s.pin k with cand := false } else s.pin j) ∧ t = { s with tb := { s.tb with pins := t.tb.pins } }) ∧
  (∀ s k, s.running = true → k < 4 → (s.pin k).cand = true → s.tb.src = k → (s.act (R.TB_PIN_CFG k)).getLsbD 31 = true →
    s.tb.state = .locked →
    let comp := 3 + fld (s.act (R.TB_PIN_CFG k)) 0 8
    let err := phaseOf (s.tb.acc - BitVec.ofNat 48 (comp * s.tb.inc.toNat)) - s.act (R.TB_PIN_OFFS k)
    Answers (.candidateEdge k) s fun t =>
      if fld (s.act R.TB_PH_WIN) 0 16 * 2 ^ 16 < err.toInt.natAbs then
        t.field (R.TB_PIN_CNT k) 16 16 = (if s.field (R.TB_PIN_CNT k) 16 16 < 65535 then s.field (R.TB_PIN_CNT k) 16 16 + 1 else 65535) ∧
        t.tb.chained = false ∧ t.tb.acc = s.tb.acc ∧ (2 ≤ s.tb.badRun → t.tb.state ≠ .locked) ∧ (s.tb.badRun < 2 → t.tb.state = .locked)
      else
        t.rd R.TB_PH_ERR = err ∧ t.rd64 (R.TB_PIN_STAMP k) = s.tb.raw - BitVec.ofNat 64 (5 * comp) ∧ t.tb.state = .locked ∧
        t.tb.badRun = 0 ∧ t.tb.chained = true ∧ t.tb.acc = s.tb.acc ∧ t.tb.lastEdge = s.tb.raw - BitVec.ofNat 64 (5 * comp)) ∧
  (∀ s, s.running = true → s.tb.missDue = true → s.tb.src < 4 → Answers .phaseMiss s fun t =>
    t.field (R.TB_PIN_CNT s.tb.src) 0 16 =
      (if s.field (R.TB_PIN_CNT s.tb.src) 0 16 < 65535 then s.field (R.TB_PIN_CNT s.tb.src) 0 16 + 1 else 65535) ∧
    t.tb.missDue = false ∧ t.tb.chained = false ∧
    (s.tb.badRun < 2 → t.tb.badRun = s.tb.badRun + 1 ∧ t.tb.state = s.tb.state) ∧
    (2 ≤ s.tb.badRun → t.tb.state = .holdover ∨ t.tb.state = .acquire))

/-- R54, R57: whatever the loop asks for, the increment it takes lies in the supported range. -/
def Sys2Proof.Claims.IncrementRange : Prop :=
  ∀ (s : State) (x : Int), 1407375 ≤ (s.clampInc x).toNat ∧ (s.clampInc x).toNat ≤ 1407374883553

namespace Sys2Proof.Claims

open Sys2Proof Sys2Proof.Machine

/-- What an entry of the event list does when it fires (R65). -/
def Fires (s t : State) (e : Evt) (phase : Word) : Prop :=
  (e.action = 1 → t = s.trueAnchor e.part e.group e.hp phase) ∧
  (e.action = 2 → t = { s with syncOps := s.syncOps ++ [⟨e.obj, s.tb.raw + 10, .signal e.amount⟩] }) ∧
  (e.action = 3 → t = { s with tb := { s.tb with pulses := s.tb.pulses ++ [(4, e.width)] } }) ∧
  (e.action = 4 → t = s.announce (fld e.w1 0 2)) ∧
  (e.action = 5 → t.rd64 R.TB_SNAP_RAW = s.tb.raw ∧ t.rd64 R.TB_SNAP_TIME = s.time ∧ t.rd R.TB_SNAP_PHASE = phaseOf s.tb.acc ∧
    t = { s with regs := t.regs, cyc := s.cyc.flags t.cyc }) ∧
  (e.action = 0 → t = s)

end Sys2Proof.Claims

/-- R63, R64, R65: an enabled entry fires at the first trigger its clock has reached and that has not fired in this cycle, or at the latest
instant reached, those passed over counted; what it then does is its action's. A pulse that is over ends. -/
def Sys2Proof.Claims.Triggers : Prop :=
  (∀ s i j, s.running = true → i < 64 → s.evtDue = false → let e := s.evt i
    let clk := s.clockOf e
    let hit := fun k => passed clk.1 clk.2.1 (BitVec.ofNat 48 ((e.trigger k).toNat * 2 ^ 16)) = true ∧ (i * 256 + k) ∉ s.tb.fired
    e.en = true → e.kind = 0 → clk.2.2.toNat % (e.pdiv + 1) = e.psel → j ≤ e.subdiv → hit j → (∀ k, k < j → ¬ hit k) →
    Answers (.phaseTrigger i) s fun t => Fires { s with tb := { s.tb with fired := s.tb.fired ++ [i * 256 + j] } } t e (e.trigger j)) ∧
  (∀ s i, s.running = true → i < 64 → s.evtDue = false → let e := s.evt i
    let m := FMap.get 0 s.tb.evtNext i
    let k := if e.interval = 0 then 0 else (s.time.toNat - e.start) / e.interval
    e.en = true → e.kind = 1 → m ≠ 2 ^ 64 → e.start + m * e.interval ≤ s.time.toNat →
    Answers (.timeTrigger i) s fun t => ∃ v : State, Fires v t e (phaseOf s.tb.acc) ∧ v = { s with regs := v.regs, cyc := s.cyc.flags v.cyc, tb := v.tb } ∧
      FMap.get 0 v.tb.evtNext i = (if e.interval = 0 then 2 ^ 64 else k + 1) ∧
      v.rd R.TB_EVT_SKIP = (if m < k then satAdd (s.rd R.TB_EVT_SKIP) (k - m) else s.rd R.TB_EVT_SKIP) ∧
      (m < k → (v.rd R.TB_FLAGS).getLsbD 5 = true)) ∧
  (∀ s, (0, 0) ∈ s.tb.pulses → Answers .pulseEnd s fun t =>
    t.tb.pulses = s.tb.pulses.filter (fun p => p ≠ (0, 0)) ∧ t.tb.pps = (s.tb.pps && t.tb.pulses.any fun p => p.1 == 0) ∧
    t = { s with tb := t.tb, out := t.out })

/-- R68, R70, R71, R93: a frame begins in the first cycle in which no atomic command of its group runs: its slip is counted, and above the
limit it is flagged; until then, and again until the next true anchor, nothing happens.
Where a clause rests on a choice of the model and not on a rule, the choice is that of log entries 33, 34, 39 and 62. -/
def Obligations.FrameBegins : Prop :=
  (∀ s p g f, s.running = true → s.partOn p = true → p < 8 → g < 3 → FMap.find s.sch.frames (4 * p + g) = some f → f.effRaw = none →
    (∀ r ∈ s.sch.running, r.part = p → r.group = g → r.atomic = true → r.paused = true) →
    let slip := cyclesBetween f.trueRaw s.tb.raw
    Answers (.effectiveAnchor p g) s fun t =>
      (t.frame p g).effRaw = some s.tb.raw ∧ t.rd (R.TB_SLIP_CYC p g) = satAdd (s.rd (R.TB_SLIP_CYC p g)) slip ∧
      (fld (s.act (R.TB_SLIP_LIM p)) (10 * g) 10 < slip → (t.rd R.TB_FLAGS).getLsbD 2 = true)) ∧
  (∀ s p g, (¬ (s.running = true ∧ s.partOn p = true ∧ g < 3) ∨
      (∃ r ∈ s.sch.running, r.part = p ∧ r.group = g ∧ r.atomic = true ∧ r.paused = false)) → exec (.effectiveAnchor p g) s = .next s)

/-! ## Schedule -/

/-- R83, R86, R92: a slot's first cycle starts it in its frame; the commit lane and the poll then begin their work. Its end is recorded, and
without a command on its engines nothing else happens. -/
def Sys2Proof.Claims.SlotCommands : Prop :=
  (∀ s p i, s.lcSlot p i = true → s.slotBegun p i = false → s.atSlotStart p i (s.slot p i) = true →
    Answers (.slotStart p i) s fun t => ∃ v : State,
      v = s.setFrame p (s.slot p i).group { s.frame p (s.slot p i).group with started := (s.frame p (s.slot p i).group).started ++ [i] } ∧
      v.slotBegun p i = true ∧
      t = match (s.slot p i).kind with
        | 3 => { v with sch := { v.sch with lanes := s.sch.lanes ++ [(p, i)] } }.carrPos p i 0 (s.slot p i)
        | 4 => v.poll (s.slot p i).unit (s.slot p i).len (v.rd64 (R.SCH_FC p 2))
        | _ => v) ∧
  (∀ s p i, s.slotBegun p i = true ∨ s.atSlotStart p i (s.slot p i) = false → exec (.slotStart p i) s = .next s) ∧
  (∀ s p i, s.lcSlot p i = true → s.slotBegun p i = true → i ∉ (s.frame p (s.slot p i).group).ended → s.atSlotEnd p i (s.slot p i) = true →
    (∀ r ∈ s.sch.running, r.part = p → r.slot = i → r.paused = true) →
    Answers (.slotEnd p i) s fun t => ∃ v : State,
      v = s.setFrame p (s.slot p i).group { s.frame p (s.slot p i).group with ended := (s.frame p (s.slot p i).group).ended ++ [i] } ∧
      t = { v with sch := { v.sch with lanes := s.sch.lanes.filter fun x => x != (p, i) } }) ∧
  (∀ s p i, s.slotBegun p i = false ∨ s.atSlotEnd p i (s.slot p i) = false → exec (.slotEnd p i) s = .next s)

/-- R84, R94, R115, R122, R123: at a position's cycle the core begins the command of the context there: it runs from the slot's entry, with g28 to
g31 and the mask written and the status registers at their start values; its other registers stay. A batch has a mask bit for each context that
qualifies. Without a context, nothing begins. -/
def Sys2Proof.Claims.PositionBegins : Prop :=
  (∀ s n p i pos ctx u code, (s.slot p i).kind = 0 → (s.slot p i).batch = false → s.posDue p i pos (s.slot p i) (.seq n) = true →
    s.cmdOn (.seq n) = none → s.atPos p i (s.slot p i) (.seq n) pos = some (ctx, u) →
    s.classHeld (s.slot p i).jclass (.seq n) = false → s.isTorn ctx = false → s.codeOf p (s.slot p i).jclass n = some code →
    Answers (.seqInstanceStart n p i pos) s fun t =>
      let c := t.core n
      c.run = true ∧ c.pc = (s.slot p i).entry % 2 ^ 14 ∧ c.code = code ∧ c.ctx = some ctx ∧ c.jclass = (s.slot p i).jclass ∧
      c.begRaw = s.tb.raw ∧ c.now = 0 ∧
      c.gr 28 = BitVec.ofNat 32 (s.ctxArea ctx) ∧ c.gr 29 = BitVec.ofNat 32 (s.ctxIndex ctx) ∧ c.gr 30 = BitVec.ofNat 32 u ∧ c.gr 31 = 0 ∧
      (∀ k, k < 28 → c.gr k = (s.core n).gr k) ∧ c.f = (s.core n).f ∧ c.v = (s.core n).v ∧
      c.pod.map PodEntry.words = (s.core n).pod.map PodEntry.words ∧
      (c.xflags = 0 ∧ c.fctl = 0x10000 ∧ c.tvec = 0 ∧ c.epc = 0 ∧ c.ecause = 0 ∧ c.etval = 0 ∧ c.frep = 0 ∧ c.tflags = 0 ∧ c.loops = []) ∧
      (∀ m, m ≠ n → t.core m = s.core m) ∧
      s.newCmd p i pos (s.slot p i) (.seq n) (some ctx) ∈ t.sch.running ∧ t = { s with cores := t.cores, sch := t.sch }) ∧
  (∀ s n p i code, (s.slot p i).kind = 0 → (s.slot p i).batch = true → s.posDue p i 0 (s.slot p i) (.seq n) = true →
    s.cmdOn (.seq n) = none → s.classHeld (s.slot p i).jclass (.seq n) = false → s.codeOf p (s.slot p i).jclass n = some code →
    Answers (.seqInstanceStart n p i 0) s fun t =>
      let c := t.core n
      c.run = true ∧ c.batch = true ∧ c.pc = (s.slot p i).entry % 2 ^ 14 ∧ c.code = code ∧ c.gr 31 = FMap.get 0 c.qmask 0 ∧
      (∀ k j, k < 8 → j < 32 → (FMap.get 0 c.qmask k).getLsbD j =
        (s.qualifying p i (.seq n)).any fun x => s.ctxIndex x.1 == (s.slot p i).first + 32 * k + j) ∧
      t = { s with cores := t.cores, sch := t.sch }) ∧
  (∀ s n p i pos, (s.slot p i).batch = false → s.cmdOn (.seq n) = none → s.atPos p i (s.slot p i) (.seq n) pos = none →
    exec (.seqInstanceStart n p i pos) s = .next s)

/-- R80, R87, R95, R96, R98, R312: the first group B class in turn whose next tile fits the gap begins on a free engine, and the turn passes on;
none begins on an engine that runs a command or that a latency-critical slot covers. A slot's position starts an idle channel, in place of a
DMAGO whose start would come in the same cycle; on a channel that is not idle it is refused and counted. -/
def Sys2Proof.Claims.TileBegins : Prop :=
  (∀ s p i n gap r ctx code, s.running = true → s.partOn p = true → p < 8 → s.cmdOn (.seq n) = none →
    (s.groupBOrder p (.seq n)).find? (fun k => (s.groupBReady p k (.seq n)).isSome) = some i →
    s.groupBReady p i (.seq n) = some r → r.ctx = some ctx → s.codeOf p (s.slot p i).jclass n = some code →
    Answers (.groupBTileStart p i (.seq n) gap) s fun t =>
      (t.core n).run = true ∧ (t.core n).ctx = some ctx ∧
      (t.core n).pc = (if r.pos = 0 then (s.slot p i).entry
        else ((s.tilesOf p (s.slot p i).jclass).getD r.pos ((s.slot p i).entry, 0)).1) % 2 ^ 14 ∧
      (∀ g, s.gap p (.seq n) = some g → s.groupBLen p i (s.slot p i) r ≤ g ∧ 0 < g) ∧
      r ∈ t.sch.running ∧ FMap.find t.sch.turns (engKey (.seq n)) = some (i + 1) ∧
      FMap.find t.sch.turns (rrKey (.seq n) (s.slot p i).jclass) = some (s.ctxIndex ctx + 1)) ∧
  (∀ s p i e gap r, s.running = true → s.partOn p = true → p < 8 → s.cmdOn e = none →
    (s.groupBOrder p e).find? (fun k => (s.groupBReady p k e).isSome) = some i → s.groupBReady p i e = some r →
    Answers (.groupBTileStart p i e gap) s fun t => ∃ v : State, t = v.groupBBegin p i (s.slot p i) r ∧
      v = { s with sch := { s.sch with turns := v.sch.turns } } ∧ r.eng = e ∧ r.part = p) ∧
  (∀ s p i e gap, (s.cmdOn e).isSome = true ∨ s.gap p e = some 0 → exec (.groupBTileStart p i e gap) s = .next s) ∧
  (∀ s p i pos k ctx u, (s.slot p i).kind = 2 → (s.slot p i).batch = false → s.slotEngines p (s.slot p i) = [.dma k] →
    s.posDue p i pos (s.slot p i) (.dma k) = true → s.atPos p i (s.slot p i) (.dma k) pos = some (ctx, u) → s.isTorn ctx = false →
    Answers (.dmaInstancePositionStart p i pos) s fun t =>
      ((s.dmaOf k).st = .idle ∨ (∃ m j raw, (s.dmaOf k).go = some (m, j, raw) ∧ s.tb.raw.toNat ≤ raw.toNat) →
        (t.dmaOf k).st = .run ∧ (t.dmaOf k).didx = (s.slot p i).entry % 4096 ∧ (t.dmaOf k).ctx = some ctx ∧ (t.dmaOf k).slot = some i ∧
          (∀ j, j ≠ k → t.dmaOf j = s.dmaOf j)) ∧
      (∀ m j raw, (s.dmaOf k).go = some (m, j, raw) → s.tb.raw.toNat ≤ raw.toNat →
        (t.core m).xflags = (s.core m).xflags ||| BitVec.ofNat 32 (2 ^ 13)) ∧
      ((s.dmaOf k).st ≠ .idle → (∀ m j raw, (s.dmaOf k).go = some (m, j, raw) → raw.toNat < s.tb.raw.toNat) →
        t.rd (R.DMA_BUSYST (k / 8)) = satAdd (s.rd (R.DMA_BUSYST (k / 8))) 1 ∧ t = { s with regs := t.regs, cyc := s.cyc.flags t.cyc }))

/-- R101, R113: a teardown request makes the context inactive with its cause and count, and is counted and flagged; of a context already
torn down it does nothing.
Where a clause rests on a choice of the model and not on a rule, the choice is that of log entry 82. -/
def Obligations.TeardownRequests : Prop :=
  (∀ s (value : Word), s.hostWrites = true → value.getLsbD 31 = true → s.isTorn (fld value 0 12) = false →
    let ctx := fld value 0 12
    Answers (.schTdreqWrite value) s fun t =>
      t.isTorn ctx = true ∧ (t.rd (R.SCH_RB ctx 6)).getLsbD 31 = false ∧ t.field (R.SCH_RB ctx 8) 16 8 = 6 ∧
      t.field (R.SCH_RB ctx 8) 0 16 = (if s.field (R.SCH_RB ctx 8) 0 16 < 65535 then s.field (R.SCH_RB ctx 8) 0 16 + 1 else 65535) ∧
      t.rd R.SCH_TDCNT = satAdd (s.rd R.SCH_TDCNT) 1 ∧ (t.rd R.SCH_FLAGS).getLsbD 1 = true) ∧
  (∀ s (value : Word), s.isTorn (fld value 0 12) = true ∨ value.getLsbD 31 = false → exec (.schTdreqWrite value) s = .next s) ∧
  (∀ s e r ctx, s.cmdOn e = some r → r.kind ≤ 1 → r.ctx = some ctx → s.isTorn ctx = false →
    2 * s.compiledLen r ≤ r.held + cyclesBetween r.start s.tb.raw →
    Answers (.commandWatchdogExpiry e) s fun t => t.isTorn ctx = true ∧
      (t.escOf (escKey 1 r.jclass (engEsc e))).run = (if (s.escOf (escKey 1 r.jclass (engEsc e))).run < 3
        then (s.escOf (escKey 1 r.jclass (engEsc e))).run + 1 else 3)) ∧
  (∀ s e r, s.cmdOn e = some r → r.held + cyclesBetween r.start s.tb.raw < 2 * s.compiledLen r →
    exec (.commandWatchdogExpiry e) s = .next s)

/-- R15, R89, R90, R426: a whole-word write reaches a word of an inactive entry in its writable bits; of an active entry only ACTIVE, and what it
does not reach is counted; an escalated context stays inactive. A partial write, and one while the host may not write, changes nothing. -/
def Sys2Proof.Claims.ReedbedWrites : Prop :=
  (∀ s ctx w value, s.hostWrites = true → ctx < 4096 → w < 16 →
    let off := R.SCH_RB ctx w
    let reach : Word := if w < 6 then 0xFFFFFFFF else if w = 6 then 0xFFC00000 else if w = 7 then 0xFFFFFF7F
      else if 10 ≤ w ∧ w < 14 then 0xFFFFFF80 else 0
    let new := (s.rd off &&& ~~~ reach) ||| (value &&& reach)
    ((s.rd (R.SCH_RB ctx 6)).getLsbD 31 = false → ¬ (w = 6 ∧ value.getLsbD 31 = true ∧ s.escalated 2 ctx 0 = true) →
      Answers (.reedbedWrite ctx w value 0xF) s fun t => t.rd off = new ∧ (∀ o, o ≠ off → t.rd o = s.rd o) ∧
        t = { s with regs := t.regs, cyc := { s.cyc.flags t.cyc with rb := t.cyc.rb }, sch := t.sch, net := t.net }) ∧
    ((s.rd (R.SCH_RB ctx 6)).getLsbD 31 = true →
      Answers (.reedbedWrite ctx w value 0xF) s fun t =>
        t.rd off = (if w = 6 then (s.rd off &&& 0x7FFFFFFF) ||| (value &&& 0x80000000) else s.rd off) ∧
        t.rd R.SCH_IGNCNT = (if (w = 6 ∧ new ≠ t.rd off) ∨ (w ≠ 6 ∧ reach ≠ 0) then satAdd (s.rd R.SCH_IGNCNT) 1 else s.rd R.SCH_IGNCNT) ∧
        ∀ o, o ≠ off → o ≠ R.SCH_IGNCNT → t.rd o = s.rd o) ∧
    (w = 6 → value.getLsbD 31 = true → (s.rd off).getLsbD 31 = false → s.escalated 2 ctx 0 = true →
      Answers (.reedbedWrite ctx w value 0xF) s fun t => t.rd off = new &&& 0x7FFFFFFF ∧ t.rd R.SCH_IGNCNT = satAdd (s.rd R.SCH_IGNCNT) 1)) ∧
  (∀ s ctx w value be, be ≠ 0xF ∨ s.hostWrites = false → exec (.reedbedWrite ctx w value be) s = .next s)

/-- R104, R105, R108: a commit begins the checks of the lowest partition named; a refused load leaves its code, detail and event, and an
accepted one waits; removals are asked for partitions that have a table. -/
def Sys2Proof.Claims.LoadsAndChecks : Prop :=
  (∀ s (parts : BitVec 8) man p, s.hostWrites = true → p < 8 → parts.getLsbD p = true → (∀ q, q < p → parts.getLsbD q = false) →
    s.sch.checking = none → (s.fuses.artsig = true → (FMap.find s.boot.locks p).isSome = true) →
    Answers (.schCommitLoad parts man) s fun t =>
      if s.loadPending p then t.rd R.GLB_STGIGN = satAdd (s.rd R.GLB_STGIGN) 1 ∧ t = { s with regs := t.regs, cyc := s.cyc.flags t.cyc }
      else t.sch.checking = some ⟨p, man⟩ ∧ (t.rd R.SCH_LSTAT).getLsbD 31 = true ∧ (∀ o, o ≠ R.SCH_LSTAT → t.rd o = s.rd o)) ∧
  (∀ s c, s.sch.checking = some c → c.part < 8 →
    let r := s.checkLoad (s.loadOf c.part c.man)
    Answers .admissionDone s fun t =>
      t.sch.checking = none ∧ (t.rd R.SCH_LSTAT).getLsbD 31 = false ∧ t.field R.SCH_LSTAT 16 8 = r.1 % 256 ∧
      t.field R.SCH_LSTAT 24 3 = c.part ∧
      (r.1 = 0 → t.loadPending c.part = true ∧ FMap.find t.sch.pendMan c.part = some c.man) ∧
      (r.1 ≠ 0 → t.loadPending c.part = s.loadPending c.part ∧ (t.rd R.SCH_FLAGS).getLsbD 0 = true ∧ t.mem = s.mem ∧ t.cores = s.cores ∧
        t.sch.running = s.sch.running ∧ ∃ v : State, t = v.event 0x0301 (BitVec.ofNat 32 (c.part * 2 ^ 24 + r.1 * 2 ^ 16)) none)) ∧
  (∀ s (parts : BitVec 8), s.hostWrites = true → Answers (.schCommitUnload parts) s fun t =>
    (∀ p, p ∈ t.sch.unload ↔ p ∈ s.sch.unload ∨ (p < 8 ∧ parts.getLsbD p = true ∧ s.partOn p = true)) ∧
    t = { s with sch := { s.sch with unload := t.sch.unload } })

namespace Sys2Proof.Claims

open Sys2Proof Sys2Proof.Machine

/-- Partition p's pending table has become active (R107): its configuration, its image and its handles; its load waits no longer. -/
structure Applied (s t : State) (p : Nat) : Prop where
  config  : t.act (R.SCH_PCFG p) = s.rd (R.SCH_PCFG p)
  image   : ∀ w, w < 8192 → t.rd (R.SCH_AIMG p w) = s.rd (R.SCH_PIMG p w)
  handles : ∀ w, w < 1024 → t.rd (R.SPD_AHND p w) = s.rd (R.SPD_PHND p w)
  waits   : t.loadPending p = false ∧ FMap.find t.sch.pendMan p = none ∧ FMap.find t.sch.actMan p = FMap.find s.sch.pendMan p
  fresh   : s.partOn p = false → ∀ g, g < 3 → t.rd64 (R.SCH_FC p g) = 0
  logged  : ∃ v : State, t = v.event 0x0302 (BitVec.ofNat 32 (p * 2 ^ 24)) none

end Sys2Proof.Claims

/-- R79, R107: a real-time partition's table takes effect at an HP anchor, a best-effort one's when no atomic or privileged command of it runs;
R108, R260: a removed partition has no table, no active context and no handle that is not retained. -/
def Sys2Proof.Claims.TablesTakeEffect : Prop :=
  (∀ s p, s.Inv → p < 8 → s.loadPending p = true → (s.rd (R.SCH_PCFG p)).getLsbD 30 = true → s.hpNow p true = true →
    Answers (.tableApplied p) s fun t => Applied s t p) ∧
  (∀ s p, s.Inv → p < 8 → s.loadPending p = true → (s.rd (R.SCH_PCFG p)).getLsbD 30 = false → s.holdsTable p = false →
    Answers (.bestEffortTableApply p) s fun t => Applied s t p) ∧
  (∀ s p, s.loadPending p = false → exec (.tableApplied p) s = .next s ∧ exec (.bestEffortTableApply p) s = .next s) ∧
  (∀ s p, p < 8 → p ∈ s.sch.unload → s.hpNow p (s.isRt p) = true → (s.isRt p = false → s.holdsTable p = false) →
    Answers (.partitionUnload p) s fun t =>
      t.partOn p = false ∧ p ∉ t.sch.unload ∧ (∀ r ∈ t.sch.running, r.part ≠ p) ∧
      (∀ c, c < 4096 → s.active c = true → s.ctxPart c = some p → t.active c = false) ∧
      (∀ h, h < 256 → (s.rd (R.SPD_AHND p (4 * h))).getLsbD 24 = false → ∀ i, i < 4 → t.rd (R.SPD_AHND p (4 * h + i)) = 0))

/-- R108, R109 to R111, R321: a displaced handle's spill leaves the list when it is moved, and others that are not next stay; a hot-set request is
answered with its code, and a swap goes through its steps at HP anchors. -/
def Sys2Proof.Claims.SpillsAndSwaps : Prop :=
  (∀ s p h u k, s.spillNext (memCluster u) = some (p, h, u, k) → ((s.actHandles p).find? fun x => x.num == h).isSome = true →
    Answers (.spillMoveDone p h u) s fun t => (p, h, u, k) ∉ t.sch.spills ∧ (∀ x ∈ t.sch.spills, x ∈ s.sch.spills) ∧
      (∀ x ∈ s.sch.spills, x.1 ≠ p ∨ x.2.1 ≠ h → x ∈ t.sch.spills)) ∧
  (∀ s p h u, (∀ k, s.spillNext (memCluster u) ≠ some (p, h, u, k)) → exec (.spillMoveDone p h u) s = .next s) ∧
  (∀ s p m, p < 8 → m < 4 → s.hostWrites = true → Answers (.schHotreqGo p m) s fun t =>
    t.field R.SCH_HOTSTAT 16 8 = s.hotCode p m % 256 ∧
    (s.hotCode p m = 0 → t.sch.hot = some ⟨p, m, false, [], [], []⟩ ∧ (t.rd R.SCH_HOTSTAT).getLsbD 31 = true ∧ t.field R.SCH_HOTSTAT 8 3 = p) ∧
    (s.hotCode p m ≠ 0 → t = { s with regs := t.regs, cyc := s.cyc.flags t.cyc })) ∧
  (∀ s p m, s.hostWrites = false → exec (.schHotreqGo p m) s = .next s) ∧
  (∀ s p h, s.sch.hot = some h → h.part = p → h.begun = false → s.hpNow p (s.isRt p) = true → Answers (.hotsetResidentNone p) s fun t =>
    t.sch.hot = some { h with begun := true, left := s.clustersOf p } ∧ (t.rd R.SCH_HOTSTAT).getLsbD 30 = true ∧
    t = { s with sch := { s.sch with hot := t.sch.hot }, regs := t.regs, cyc := s.cyc.flags t.cyc }) ∧
  (∀ s p, (∀ h, s.sch.hot = some h → h.part ≠ p ∨ h.begun = true) → exec (.hotsetResidentNone p) s = .next s) ∧
  (∀ s m h, s.sch.hot = some h → h.begun = true → m ∈ h.left → FMap.get 0 h.tries m = 0 → (s.hotMove h).isSome = true →
    Answers (.hotsetReloadDone m) s fun t =>
      t.sch.hot = some { h with left := h.left.filter fun k => k != m } ∨
      ∃ k, t.sch.hot = some { h with tries := FMap.set 0 h.tries m 1, moved := FMap.set 0 h.moved m (FMap.get 0 h.moved m + k) }) ∧
  (∀ s p h, s.sch.hot = some h → h.part = p → h.begun = true → h.left = [] → s.hpNow p (s.isRt p) = true → h.model < 4 →
    Answers (.hotsetSwapped p) s fun t => t.sch.hot = none ∧ t.field R.SCH_HOTSTAT 0 2 = h.model ∧ (t.rd R.SCH_HOTSTAT).getLsbD 31 = false ∧
      (t.rd R.SCH_HOTSTAT).getLsbD 30 = false ∧ ∃ v : State, t = v.event 0x0309 (BitVec.ofNat 32 (p * 2 ^ 24 + h.model)) none)

/-- R409, R412, R413: without a real-time partition the poll comes every 200,000 cycles; what a poll executed is written back once. The entries
signal, reset, tear down, start chains and write as the host's own commands do. -/
def Sys2Proof.Claims.CommandRings : Prop :=
  (∀ s x, s.running = true → s.allBestEffort = true → s.sch.firstRaw = some x → 200000 ≤ cyclesBetween s.host.pollRaw s.tb.raw →
    Answers .bestEffortPollTimer s fun t => t.host.pollRaw = s.tb.raw ∧ t.rd64 R.GLB_POLLCNT = s.rd64 R.GLB_POLLCNT + 1 ∧
      t.host.pollCl = s.field R.GLB_RINGDIR 28 4) ∧
  (∀ s, cyclesBetween s.host.pollRaw s.tb.raw < 200000 → exec .bestEffortPollTimer s = .next s) ∧
  (∀ s, Answers .ringWriteback s fun t => t.host = { s.host with ringDone := [], ringCons := [], ringVecs := [] } ∧
    (s.host.ringCons = [] → s.host.ringVecs = [] → (∀ r, r < 4 → (s.ringDirNow s.host.pollCl r).en = false) → t = { s with host := t.host })) ∧
  (∀ (s : State) ws at_, let d0 := ws.getD 0 0
    fld (lo32 d0) 16 6 = 0 → fld (hi32 d0) 24 7 = 0 → fld (hi32 d0) 0 16 = 0 →
    let a := lo32 (ws.getD 3 0)
    let r := s.ringOp ws at_
    (fld (lo32 d0) 24 8 = 0 → r.st = s ∧ r.code = 0) ∧
    (fld (lo32 d0) 24 8 = 2 → s.ownedObj (fld a 0 14) = true → fld a 16 8 ≠ 0 →
      r.st = s.post (fld a 0 14) (at_ + 8) (.signal (fld a 16 8)) ∧ r.code = 0) ∧
    (fld (lo32 d0) 24 8 = 3 → s.ownedObj (fld a 0 14) = true → r.st = s.post (fld a 0 14) (at_ + 8) .reset ∧ r.code = 0) ∧
    (fld (lo32 d0) 24 8 = 5 → r.st = s.teardown (fld a 0 12) 6 ∧ r.code = 0) ∧
    (7 ≤ fld (lo32 d0) 24 8 → r.st = s ∧ r.code = 1))

/-- R248, R250, R355, R356, R387: a due output commit of a template launched at once, under no divergence policy, reads its payload and reaches its
commit point: a part that does not drive discards the frame and counts it. While its first read is held, the hold is counted and nothing else. -/
def Sys2Proof.Claims.OutputCommits : Prop :=
  ∀ s p i pos r ctx, s.running = true → s.cmdOn (.carr p) = some r → r.slot = i → r.pos = pos → s.commitDue r = true → r.ctx = some ctx →
    let cs := s.claimsOf false (s.commitRow r ctx) 1
    (s.heldOf ordCommit cs ≠ [] → exec (.carrOutputCommit p i pos) s = .next (s.softHolds (s.heldOf ordCommit cs))) ∧
    (s.heldOf ordCommit cs = [] → s.isTorn ctx = false →
      let entry := (s.slot r.part r.slot).entry % 64
      let m := s.tmpl entry
      let a := s.ctxArea ctx + m.soff
      let step := s.jobStep r.part r.group ctx (s.jobOf ctx r.jclass r.group)
      m.lmode = 2 → fld (s.act (R.MIR_POL entry)) 30 2 = 0 → s.backed a m.plen = true → s.openRange a m.plen = true →
      (∀ w ∈ wordsOf a m.plen, sound s w) →
      Answers (.carrOutputCommit p i pos) s fun t => ∃ v : State, (s.grantBus ordCommit cs).OnlyRead v ∧
        t = (v.commitPoint r m ctx 0 step none (s.peek a m.plen)).laneNext r ∧
        (s.drives = false → v.commitPoint r m ctx 0 step none (s.peek a m.plen) = v.bump R.MIR_SUPPR))

/-! ## The Fennel engines -/

namespace Sys2Proof.Claims

open Sys2Proof Sys2Proof.Machine

/-- Only engine m has changed, beside registers and event records. -/
def OnlyEngine (s t : State) (m : Nat) : Prop :=
  t = { s with fen := t.fen, regs := t.regs, cyc := s.cyc.flags t.cyc, log := t.log, out := t.out, esc := t.esc } ∧ ∀ j, j ≠ m → t.fenOf j = s.fenOf j

/-- Lane l of vector register i of engine m, and element (i, j) of a block register. -/
def vecLane (s : State) (m i l : Nat) : Word := FMap.get 0 (s.fenOf m).v (16 * i + l)
def blkAt (s : State) (m reg i j : Nat) : Word := FMap.get 0 (if reg = 0 then (s.fenOf m).blk0 else (s.fenOf m).blk1) (16 * i + j)

/-- An infinity becomes the largest finite value of its sign (R210). -/
def sat (b : Nat) : Word := if b % 2 ^ 31 = 0x7F800000 then BitVec.ofNat 32 (b - 1) else BitVec.ofNat 32 b

/-- A word written at a whole address. -/
def wordAs (s : State) (a : Nat) (v : Word) : Prop := s.peekLe a 4 = v.toNat

/-- Every word that `len` bytes from a touch can be corrected. -/
def soundRange (s : State) (a len : Nat) : Prop := ∀ w ∈ wordsOf a len, sound s w

/-- A whole-word range that the device backs in banks that perform accesses, with no injection armed for it. -/
def writable (s : State) (a len : Nat) : Prop := a % 8 = 0 ∧ s.openRange a len = true ∧ ∀ m o, ¬ armed s m o

/-- Engine m's requests are granted in this cycle (R250); the state goes on with them on the banks' buses. -/
def Granted (s : State) (m : Nat) (cs : List Claim) : Prop := s.heldOf (ordFen m) cs = []

/-- While one of its requests is held, an op of engine m does nothing but have the holds counted (R251, R253). -/
def HoldsCount (c : Instr) (s : State) (m : Nat) (cs : List Claim) : Prop :=
  s.heldOf (ordFen m) cs ≠ [] → exec c s = .next (s.hardHolds ((s.heldOf (ordFen m) cs).map fun x => (ordFen m, x)))

/-- The numbers that engine m's command, and the digest records kept, name are numbers of partitions, classes and contexts. -/
def Named (s : State) (m : Nat) : Prop :=
  (∀ r, s.cmdOn (.fen m) = some r → r.part < 8 ∧ r.jclass < 64) ∧ (∀ c, (s.fenOf m).ctx = some c → c < 4096) ∧ (s.fenOf m).part < 8 ∧
    ∀ r ∈ s.dig.own, r.part < 8

/-- Lane l of the functions of R214; of VMAXABS the first NaN of its lanes, quietened (R136), or the largest magnitude, in lane 0. -/
def vopLaneOf (fn : Nat) (k : Word) (a b c : Nat → Word) (l : Nat) : Nat :=
  let x := (a l).toNat
  let y := (b l).toNat
  let z := (c l).toNat
  match fn with
  | 0 => (b32.add 0 false x y).bits
  | 1 => (b32.add 0 true x y).bits
  | 2 => (b32.mul 0 x y).bits
  | 3 => (b32.fma 0 false false x y z).bits
  | 4 => (b32.fma 0 false false k.toNat x y).bits
  | 5 => (b32.minmax false x y).bits
  | 6 => (b32.minmax true x y).bits
  | 7 => (b32.minmax false (b32.minmax true x y).bits z).bits
  | 8 =>
    if l ≠ 0 then 0
    else match (List.range 16).find? fun i => decide (0x7F800000 < (a i).toNat % 2 ^ 31) with
      | some i => (a i ||| 0x400000).toNat
      | none => (List.range 16).foldl (fun g i => max g ((a i).toNat % 2 ^ 31)) 0
  | 9 => x
  | 10 => k.toNat
  | _ => if l + k.toNat % 16 ≤ 15 then (a (l + k.toNat % 16)).toNat else x

/-- What becomes of a factor op of an interior-point body, when it is done (R220, R224): it is counted; at the last one of the body a rejected
factor ends the command, and of an accepted one the count of replacements is kept. -/
def FactorRule : Prop :=
  ∀ (s : State) m op, let e := s.fenOf m
    ((e.run && e.ip && e.body && facOp op) = false → s.fenFactor m op = s) ∧
    ((e.run && e.ip && e.body && facOp op) = true →
      (e.facs + 1 ≠ s.bodyFacs m → s.fenFactor m op = s.modFen m fun e => { e with facs := e.facs + 1 }) ∧
      (e.facs + 1 = s.bodyFacs m → Named s m → (e.nanNew = true ∨ fld (e.dw 12) 16 16 < e.pgNew) → ((s.fenFactor m op).fenOf m).run = false ∧
        (m < 16 → (s.fenFactor m op).rd (R.FEN_FREJC m) = satAdd (s.rd (R.FEN_FREJC m)) 1)) ∧
      (e.facs + 1 = s.bodyFacs m → e.nanNew = false → e.pgNew ≤ fld (e.dw 12) 16 16 →
        ((s.fenFactor m op).fenOf m).run = true ∧ FMap.get 0 ((s.fenFactor m op).fenOf m).pgOf e.data = e.pgNew ∧
        s.fenFactor m op = { s with fen := (s.fenFactor m op).fen }))

end Sys2Proof.Claims

/-- R207, R213, R214, R225, R251: VOP writes the lanes of its function to a vector register, infinities saturated; VLD and VST move a vector
register and 64 bytes, once their request is granted. Ops act only on a running engine, and a reserved FN does nothing.
Where a clause rests on a choice of the model and not on a rule, the choice is that of log entries 60, 77 and 100. -/
def Obligations.FennelVectors : Prop :=
  (∀ s m op, s.fenActive m op 3 = true → let fn := fld op.w0 8 6
    fn ≤ 11 → Answers (.fenVop m op) s fun t => OnlyEngine s t m ∧
      (∀ i l, l < 16 → vecLane t m i l = if i = fld op.w0 0 5 then
          sat (vopLaneOf fn op.w2 (vecLane s m (fld op.w1 10 5)) (vecLane s m (fld op.w1 5 5)) (vecLane s m (fld op.w1 0 5)) l)
        else vecLane s m i l) ∧ (t.fenOf m).blk0 = (s.fenOf m).blk0 ∧ (t.fenOf m).blk1 = (s.fenOf m).blk1) ∧
  (∀ s m op, 11 < fld op.w0 8 6 → exec (.fenVop m op) s = .next s) ∧
  (∀ s m op, s.fenActive m op 4 = true → let e := s.fenOf m
    let k := fld op.w0 7 5
    let a := if op.w0.getLsbD 6 && e.cold then e.areaAddr 3 + 128 * (k / 2) + 64 * (k % 2) else e.ref m op.fstream op.w1 + 64 * fld op.w0 5 1
    let cs := s.claimAt false a
    HoldsCount (.fenVld m op) s m cs ∧
    (Granted s m cs → a % 8 = 0 → s.openRange a 64 = true → soundRange s a 64 → Answers (.fenVld m op) s fun t =>
      (∀ i l, l < 16 → vecLane t m i l = if i = fld op.w0 0 5 then laneAt s a l else vecLane s m i l) ∧ (∀ j, j ≠ m → t.fenOf j = s.fenOf j) ∧
      (∃ v, (s.grantBus (ordFen m) cs).OnlyRead v ∧ t = { v with fen := t.fen }))) ∧
  (∀ s m op, s.fenActive m op 5 = true → let e := s.fenOf m
    let a := e.ref m op.fstream op.w1 + 64 * fld op.w0 5 1
    let cs := s.claimAt true (e.ref m op.fstream op.w1)
    HoldsCount (.fenVst m op) s m cs ∧
    (Granted s m cs → writable s a 64 → Answers (.fenVst m op) s fun t =>
      (∀ l, l < 16 → wordAs t (a + 4 * l) (vecLane s m (fld op.w0 0 5) l)) ∧ (∀ o, o < a ∨ a + 64 ≤ o → seen t o = seen s o) ∧
      (∀ j, j ≠ m → t.fenOf j = s.fenOf j) ∧ (∀ i l, l < 16 → vecLane t m i l = vecLane s m i l))) ∧
  (∀ s m op, (s.fenOf m).run = false → exec (.fenVop m op) s = .next s ∧ exec (.fenVld m op) s = .next s ∧ exec (.fenVst m op) s = .next s ∧
    exec (.fenDld m op) s = .next s ∧ exec (.fenDst m op) s = .next s ∧ exec (.fenPiv m op) s = .next s ∧ exec (.fenLinv m op) s = .next s ∧
    exec (.fenBprod m op) s = .next s ∧ exec (.fenBmv m op) s = .next s ∧ exec (.fenRes m op) s = .next s ∧ exec (.fenInf m op) s = .next s ∧
    exec (.fenPub m op) s = .next s ∧ exec (.fenBody m op) s = .next s ∧ exec (.fenNext m op) s = .next s ∧ exec (.fenEnd m op) s = .next s)

/-- R213, R219, R220: DLD and DST move a block register and eight rows, element (i, j) at byte 64 j + 4 i; PIV eliminates a column below its pivot,
and LINV forms a column of the inverse of the unit lower triangle. Each is then counted as a factor op where it is one.
Where a clause rests on a choice of the model and not on a rule, the choice is that of log entries 60, 77 and 100. -/
def Obligations.FennelBlocks : Prop :=
  FactorRule ∧
  (∀ s m op, s.fenActive m op 6 = true → let a := (s.fenOf m).ref m op.fstream op.w1
    let cs := s.claimAt false a
    HoldsCount (.fenDld m op) s m cs ∧
    (Granted s m cs → a % 8 = 0 → s.openRange a 1024 = true → soundRange s a 1024 → Answers (.fenDld m op) s fun t => ∃ u : State,
      t = u.fenFactor m op ∧
      (∀ i j, i < 16 → j < 16 → blkAt u m (fld op.w0 0 1) i j = BitVec.ofNat 32 (s.peekLe (a + 64 * j + 4 * i) 4)) ∧
      (∀ i j, i < 16 → j < 16 → blkAt u m (1 - fld op.w0 0 1) i j = blkAt s m (1 - fld op.w0 0 1) i j) ∧
      (∃ v, (s.grantBus (ordFen m) cs).OnlyRead v ∧ u = { v with fen := u.fen }))) ∧
  (∀ s m op, s.fenActive m op 7 = true → let a := (s.fenOf m).ref m op.fstream op.w1
    let cs := s.claimAt true a
    HoldsCount (.fenDst m op) s m cs ∧
    (Granted s m cs → writable s a 1024 → Answers (.fenDst m op) s fun t => ∃ u : State, t = u.fenFactor m op ∧
      (∀ i j, i < 16 → j < 16 → wordAs u (a + 64 * j + 4 * i) (blkAt s m (fld op.w0 0 1) i j)) ∧
      (∀ o, o < a ∨ a + 1024 ≤ o → seen u o = seen s o))) ∧
  (∀ s m op, s.fenActive m op 8 = true → let e := s.fenOf m
    let j := fld op.w0 0 4
    let d1 := sat (b32.add 0 (op.w0.getLsbD 4) (sat (blkAt s m 0 j j).toNat).toNat (e.dw 5).toNat).bits
    let mag := d1.toNat % 2 ^ 31
    let tau := (e.dw 6).toNat
    let low := mag = 0 ∨ (mag < tau % 2 ^ 31 ∧ mag ≤ 0x7F800000)
    let d := if mag = 0 then e.dw 6 else if low then BitVec.ofNat 32 (d1.toNat / 2 ^ 31 * 2 ^ 31 + tau % 2 ^ 31) else d1
    let b := fun i k => (blkAt s m 0 i k).toNat
    let l := fun i => sat (b32.div 0 (b i j) d.toNat).bits
    Answers (.fenPiv m op) s fun t => ∃ u : State, t = u.fenFactor m op ∧ OnlyEngine s u m ∧
      (∀ i k, i < 16 → k < 16 → blkAt u m 0 i k =
        if i = j ∧ k = j then d
        else if j < i ∧ k = j then l i
        else if j < i ∧ j < k then sat (b32.fma 0 true false (l i).toNat (b k j) (b i k)).bits
        else blkAt s m 0 i k) ∧
      (m < 16 → u.rd (R.FEN_PGC m) = if low then satAdd (s.rd (R.FEN_PGC m)) 1 else s.rd (R.FEN_PGC m))) ∧
  (∀ s m op, s.fenActive m op 9 = true → let j := fld op.w0 0 4
    Answers (.fenLinv m op) s fun t => ∃ u : State, t = u.fenFactor m op ∧ OnlyEngine s u m ∧
      (∀ i k, i < 16 → k < 16 → k ≠ j → blkAt u m 1 i k = blkAt s m 1 i k) ∧
      (∀ i, i < 16 → blkAt u m 1 i j =
        if i < j then 0 else if i = j then 0x3F800000
        else ((List.range i).filter fun k => decide (j ≤ k)).foldl (fun acc k =>
          sat (b32.fma 0 true false (blkAt s m 0 i k).toNat (blkAt u m 1 k j).toNat acc.toNat).bits) 0))

namespace Sys2Proof.Claims

open Sys2Proof Sys2Proof.Machine

/-- Column k of a block of elements that starts at a, as 16 words (R213). -/
def columnAt (s : State) (a k : Nat) : List Word := (List.range 16).map fun i => BitVec.ofNat 32 (s.peekLe (a + 64 * k + 4 * i) 4)

/-- The array after the K steps of a block operation in FLOAT with some passes (R209). -/
def afterSteps (x : Arr) (acc : Bool) (pass k : Nat) (steps : List KStep) : Arr :=
  let w0 : Word := BitVec.ofNat 32 (2 * 2 ^ 30 + pass * 2 ^ 28 + (k - 1))
  steps.foldl (arrStep w0 0) (arrStart x w0 acc)

end Sys2Proof.Claims

/-- R209, R213: BPROD multiplies two blocks on an array of the granted core: its sums stay in the array, or are written as C, or subtracted from
C; BMV multiplies a block by a vector and leaves the first column in a vector register. An array that is not granted, and the reserved mode, do
nothing.
Where a clause rests on a choice of the model and not on a rule, the choice is that of log entries 60, 77 and 100. -/
def Obligations.FennelProducts : Prop :=
  (∀ s m op, s.fenActive m op 1 = true → let e := s.fenOf m
    let a := fld op.w0 11 3
    let k := fld op.w0 0 4 + 1
    let mode := fld op.w3 30 2
    let x := e.ref m op.fstream op.w1
    let y := e.ref m op.fstream op.w2
    let z := e.ref m op.fstream op.w3
    let r := afterSteps ((s.core (e.core m)).arr a) (op.w0.getLsbD 10) (e.passes (op.w0.getLsbD 8)) k
      ((List.range k).map fun i => ⟨columnAt s x i, columnAt s y i, []⟩)
    let cs := s.claimAt false x ++ s.claimAt false y
    (e.amask.testBit a = false ∨ mode = 3 → exec (.fenBprod m op) s = .next s) ∧
    (e.amask.testBit a = true → mode ≠ 3 → HoldsCount (.fenBprod m op) s m cs) ∧
    (e.amask.testBit a = true → mode ≠ 3 → Granted s m cs → x % 8 = 0 → y % 8 = 0 → s.openRange x (64 * k) = true →
    s.openRange y (64 * k) = true → soundRange s x (64 * k) → soundRange s y (64 * k) → (mode ≠ 0 → writable s z 1024 ∧ soundRange s z 1024) →
    Answers (.fenBprod m op) s fun t => ∃ u : State, t = u.fenFactor m op ∧
      ((u.core (e.core m)).arr a).cells = r.cells ∧ (∀ b, b ≠ a → (u.core (e.core m)).arr b = (s.core (e.core m)).arr b) ∧
      (mode = 0 → ∀ o, seen u o = seen s o) ∧
      (mode ≠ 0 → (∀ o, o < z ∨ z + 1024 ≤ o → seen u o = seen s o) ∧ ∀ i j, i < 16 → j < 16 →
        let p := sat (cellOut r 0 (16 * i + j)).1
        wordAs u (z + 64 * j + 4 * i) (if mode = 1 then p else sat (b32.add 0 true (s.peekLe (z + 64 * j + 4 * i) 4) p.toNat).bits)))) ∧
  (∀ s m op, s.fenActive m op 2 = true → let e := s.fenOf m
    let a := fld op.w0 11 3
    let k := fld op.w2 0 4 + 1
    let x := e.ref m op.fstream op.w1
    let r := afterSteps ((s.core (e.core m)).arr a) (op.w0.getLsbD 10) (e.passes (op.w2.getLsbD 4)) k
      ((List.range k).map fun i => ⟨columnAt s x i, List.replicate 16 (vecLane s m (fld op.w0 5 5) i), []⟩)
    let cs := s.claimAt false x
    (e.amask.testBit a = false → exec (.fenBmv m op) s = .next s) ∧ (e.amask.testBit a = true → HoldsCount (.fenBmv m op) s m cs) ∧
    (e.amask.testBit a = true → Granted s m cs → x % 8 = 0 → s.openRange x (64 * k) = true → soundRange s x (64 * k) →
    Answers (.fenBmv m op) s fun t => ∃ u : State, t = u.fenFactor m op ∧
      ((u.core (e.core m)).arr a).cells = r.cells ∧ (∀ o, seen u o = seen s o) ∧
      (∀ i l, l < 16 → vecLane u m i l = if i = fld op.w0 0 5 then sat (cellOut r 0 (16 * l)).1 else vecLane s m i l)))

/-- R215, R216, R220 to R223, R226 to R228: the stream's control: a body begins, residuals are judged, a run of growing ones is counted, iterates
are published to the next area, an iteration is counted, and the F-stream's factor waits or is rejected at its end.
Where a clause rests on a choice of the model and not on a rule, the choice is that of log entries 60, 102 and 103. -/
def Obligations.FennelIterations : Prop :=
  (∀ s m op, s.running = true → (s.fenOf m).run = true → fenOpc op = 0x0D → op.fstream = false → (s.fenOf m).body = false →
    Answers (.fenBody m op) s fun t => OnlyEngine s t m ∧ (t.fenOf m).body = true ∧ (t.fenOf m).nit = (s.fenOf m).nit ∧
      (t.fenOf m).fbody = ((s.fenOf m).frun && !(s.fenOf m).ip)) ∧
  (∀ s m op, s.fenActive m op 0x0A = true → (s.fenOf m).nit ≠ 0 → let e := s.fenOf m
    let pres := vecLane s m (fld op.w0 5 5) 0
    let dres := vecLane s m (fld op.w0 0 5) 0
    Answers (.fenRes m op) s fun t => OnlyEngine s t m ∧ (t.fenOf m).rPres = pres ∧ (t.fenOf m).rDres = dres ∧
      (t.fenOf m).rMeas = BitVec.ofNat 32 (b32.minmax true (sat (b32.mul 0 (e.dw 9).toNat pres.toNat).bits).toNat
        (sat (b32.mul 0 (e.dw 10).toNat dres.toNat).bits).toNat).bits ∧
      ((t.fenOf m).rBest = true → (t.fenOf m).best = (t.fenOf m).rMeas) ∧ ((t.fenOf m).rBest = false → (t.fenOf m).best = e.best)) ∧
  (∀ s m op, s.fenActive m op 0x0B = true → (s.fenOf m).nit ≠ 0 → let e := s.fenOf m
    let n := if (b32.compare 1 (vecLane s m (fld op.w0 0 5) 0).toNat 0).bits = 1 then e.infRun + 1 else 0
    (fld (e.dw 12) 0 8 = 0 ∨ n ≠ fld (e.dw 12) 0 8) →
      Answers (.fenInf m op) s fun t => OnlyEngine s t m ∧ (t.fenOf m).infRun = n ∧ (t.fenOf m).run = true) ∧
  (∀ s m op, s.fenActive m op 0x0C = true → let e := s.fenOf m
    let cs := s.claimAt true (e.areaAddr e.nextArea)
    let iterate := op.w0.getLsbD 10
    (if iterate then e.nit ≠ 0 ∧ (e.rBest = true ∨ e.rConv = true) else e.cold = false) → HoldsCount (.fenPub m op) s m cs ∧
    (Granted s m cs → (iterate = true → e.rConv = false) → e.nvr ≠ 0 → writable s (e.areaAddr e.nextArea) (64 * e.nvr) →
    Answers (.fenPub m op) s fun t =>
      (t.fenOf m).side = e.nextArea ∧ e.nextArea ≠ e.carea ∧ (t.fenOf m).pubs = e.pubs + 1 ∧
      (if iterate then (t.fenOf m).status = (if e.stale then 3 else 1) ∧ (t.fenOf m).iter = e.nit ∧ (t.fenOf m).pres = e.rPres ∧
        (t.fenOf m).dres = e.rDres ∧ (t.fenOf m).meas = e.rMeas else (t.fenOf m).status = 2) ∧
      (∀ r l, r < e.nvr → l < 16 → wordAs t (e.areaAddr e.nextArea + 64 * r + 4 * l) (vecLane s m ((fld op.w0 0 5 + r) % 32) l)) ∧
      (∀ o, o < e.areaAddr e.nextArea ∨ e.areaAddr e.nextArea + 64 * e.nvr ≤ o → seen t o = seen s o)) ∧
    (Granted s m cs → iterate = true → e.rConv = true → m < 16 → Named s m → Answers (.fenPub m op) s fun t =>
      (t.fenOf m).run = false ∧ t.rd (R.FEN_CONV m) = satAdd (s.rd (R.FEN_CONV m)) 1)) ∧
  (∀ s m op, s.running = true → (s.fenOf m).run = true → fenOpc op = 0x0E → op.fstream = true → Answers (.fenNext m op) s fun t =>
    OnlyEngine s t m ∧ (t.fenOf m).fbody = false ∧ (t.fenOf m).nit = (s.fenOf m).nit ∧
    (t.fenOf m).fprog = (s.fenOf m).fprog + (if (s.fenOf m).fbody then 1 else 0)) ∧
  (∀ s m op, m < 16 → Named s m → s.running = true → (s.fenOf m).run = true → fenOpc op = 0x0E → op.fstream = false → (s.fenOf m).body = true →
    let itmax := fld ((s.fenOf m).dw 0) 0 16
    itmax ≠ 0 → (s.fenOf m).nit + 1 = itmax → Answers (.fenNext m op) s fun t =>
      (t.fenOf m).run = false ∧ t.rd (R.FEN_SOLVES m) = satAdd (s.rd (R.FEN_SOLVES m)) 1) ∧
  (∀ s m op, s.running = true → (s.fenOf m).run = true → fenOpc op = 0x0E → op.fstream = false → (s.fenOf m).body = true →
    let itmax := fld ((s.fenOf m).dw 0) 0 16
    (itmax = 0 ∨ (s.fenOf m).nit + 1 ≠ itmax) → Answers (.fenNext m op) s fun t => OnlyEngine s t m ∧ t.regs = s.regs ∧
      (t.fenOf m).nit = (s.fenOf m).nit + 1 ∧ (t.fenOf m).run = true ∧
      (t.fenOf m).fprog = (s.fenOf m).fprog + (if (s.fenOf m).fbody && !(s.fenOf m).ip then 1 else 0)) ∧
  (∀ s m op, op.fstream = false → exec (.fenEnd m op) s = .next s) ∧
  (∀ s m op, s.fenActive m op 0x0F = true → op.fstream = true → let e := (s.fenOf m).endFbody
    let why := e.rejects (FMap.get 0 e.pgOf (pgBack e.data)) (FMap.get 0 e.pgOf (nanBack e.data) != 0)
    (why = none → Answers (.fenEnd m op) s fun t => OnlyEngine s t m ∧ (t.fenOf m).fwait = true ∧ (t.fenOf m).frun = false ∧
      (t.fenOf m).run = true) ∧
    (why ≠ none → e.fvalid = true → Answers (.fenEnd m op) s fun t => OnlyEngine s t m ∧ (t.fenOf m).frejed = true ∧ (t.fenOf m).frun = false ∧
      (t.fenOf m).fwait = e.fwait ∧ (m < 16 → t.rd (R.FEN_FREJC m) = satAdd (s.rd (R.FEN_FREJC m)) 1 ∧ (t.rd (R.FEN_FLAGS m)).getLsbD 0 = true)))

/-- R69, R84, R211, R222, R229 to R234: a solve begins at its position's first cycle with a fresh result, and in the cycle of its deadline commits
the result it has: the eight words of its record in its row and in FEN_LAST, counted, and the engine is free.
Where a clause rests on a choice of the model and not on a rule, the choice is that of log entries 25, 60, 91, 97 and 101. -/
def Obligations.FennelCommands : Prop :=
  (∀ s m p i pos ctx u, m < 16 → s.fenDue m p i pos (s.slot p i) = true → (s.fenOf m).run = false →
    s.atPos p i (s.slot p i) (.fen m) pos = some (ctx, u) → s.classHeld (s.slot p i).jclass (.fen m) = false → s.isTorn ctx = false →
    let prog := (s.slot p i).entry % 256
    let d := (s.act (R.FEN_PTAB m)).toNat / 64 * 64 + 64 * prog
    let data := s.peekLe (d + 4) 4 + (if (s.peekLe d 4).testBit 25 then s.ctxArea ctx else 0)
    s.openRange d 64 = true → soundRange s d 64 → soundRange s (data + 0x100) 8 → soundRange s (data + 0x80) 16 →
    Answers (.fennelCommandStart m p i pos) s fun t =>
      (t.fenOf m).run = true ∧ (t.fenOf m).ctx = some ctx ∧ (t.fenOf m).prog = prog ∧ (t.fenOf m).part = p ∧ (t.fenOf m).slot = i ∧
      (t.fenOf m).pos = pos ∧ (t.fenOf m).data = data ∧ (t.fenOf m).nit = 0 ∧ (t.fenOf m).status = 6 ∧ (t.fenOf m).pubs = 0 ∧
      (∀ r l, l < 16 → vecLane t m r l = vecLane s m r l) ∧ (t.rd (R.FEN_STAT m)).getLsbD 31 = true) ∧
  (∀ s m p i pos, s.fenDue m p i pos (s.slot p i) = false → exec (.fennelCommandStart m p i pos) s = .next s) ∧
  (∀ s m p i pos, m < 16 → s.lcSlot p i = true → (s.slot p i).kind = 1 → (s.slotEngines p (s.slot p i)).contains (.fen m) = true →
    s.untilDead p i (s.slot p i) (.fen m) pos = 0 → let e := s.fenOf m
    e.run = true → e.part = p → e.slot = i → e.pos = pos → Named s m → writable s e.data 32 → s.openRange (e.data + 128) 16 = true →
    Answers (.fennelDeadline m p i pos) s fun t =>
      let record := e.record ⟨e.status, true, false, false⟩ (s.fenStep e)
      (t.fenOf m).run = false ∧ (∀ k, k < 8 → t.rd (R.FEN_LAST m k) = record.getD k 0 ∧ wordAs t (e.data + 4 * k) (record.getD k 0)) ∧
      t.rd (R.FEN_SOLVES m) = satAdd (s.rd (R.FEN_SOLVES m)) 1 ∧ (t.rd (R.FEN_STAT m)).getLsbD 31 = false ∧
      (∀ o, ¬ (e.data ≤ o ∧ o < e.data + 32) → ¬ (e.data + 128 ≤ o ∧ o < e.data + 144) → seen t o = seen s o)) ∧
  (∀ s m p i pos, s.untilDead p i (s.slot p i) (.fen m) pos ≠ 0 → exec (.fennelDeadline m p i pos) s = .next s)

/-! ## Calibration windows -/

namespace Sys2Proof.Claims

open Sys2Proof Sys2Proof.Machine

/-- A commit of a staged group (R19, R418, R419): counted and ignored while the group is pending; else its code is written, and code 0 makes
the group pending. Nothing else but `x` changes. -/
def Commits (c : Instr) (s : State) (status code : Nat) (x : State → State → Prop) : Prop :=
  ((s.rd status).getLsbD 31 = true → Answers c s fun t => t = { s with regs := t.regs, cyc := s.cyc.flags t.cyc } ∧
    t.rd R.GLB_STGIGN = satAdd (s.rd R.GLB_STGIGN) 1 ∧ ∀ o, o ≠ R.GLB_STGIGN → t.rd o = s.rd o) ∧
  ((s.rd status).getLsbD 31 = false → Answers c s fun t => x s t ∧ t.field status 0 8 = code ∧
    (t.rd status).getLsbD 31 = decide (code = 0) ∧ ∀ o, o ≠ status → t.rd o = s.rd o)

/-- Nothing but registers has changed. -/
def onlyRegs (s t : State) : Prop := t = { s with regs := t.regs, cyc := s.cyc.flags t.cyc }

/-- The registers of entry e of cluster m. -/
def calReg (m e o : Nat) : Prop :=
  o = R.CLU_CALSAT m ∨ o = R.CLU_CALSTALE m ∨ o = R.CLU_CALWIN m e ∨ o = R.CLU_CALSHARE m e ∨
    (R.CLU_CALCLIP m e ≤ o ∧ o < R.CLU_CALCLIP m e + 0x20)

/-- SHARE of the counts of entry e (R195). -/
def shareOf (s : State) (m e : Nat) : Nat :=
  let tot := (s.rd64 (R.CLU_CALTOT m e)).toNat
  if tot = 0 then 0 else min ((s.rd64 (R.CLU_CALCLIP m e)).toNat * 2 ^ 16 / tot) 0xFFFF

/-- The window of entry e has closed from s to t (R194, R195). -/
structure Closed (s t : State) (m e : Nat) : Prop where
  kept  : t.rd64 (R.CLU_CALCLIPL m e) = s.rd64 (R.CLU_CALCLIP m e) ∧ t.rd64 (R.CLU_CALTOTL m e) = s.rd64 (R.CLU_CALTOT m e)
  clear : t.rd64 (R.CLU_CALCLIP m e) = 0 ∧ t.rd64 (R.CLU_CALTOT m e) = 0 ∧ t.rd (R.CLU_CALWIN m e) = 0 ∧
    (t.rd (R.CLU_CALSAT m)).getLsbD e = false
  share : t.field (R.CLU_CALSHARE m e) 0 16 = shareOf s m e ∧
    (t.rd (R.CLU_CALSHARE m e)).getLsbD 16 = (s.rd (R.CLU_CALSAT m)).getLsbD e
  stale : (t.rd (R.CLU_CALSTALE m)).getLsbD e = decide (fld (s.act (R.CLU_CALCFG m e)) 0 16 < shareOf s m e)

/-- The words of entry e, and its bits, read as before. -/
def CalKept (s t : State) (m e : Nat) : Prop :=
  (∀ o, calReg m e o → o ≠ R.CLU_CALSAT m → o ≠ R.CLU_CALSTALE m → t.rd o = s.rd o) ∧
  (t.rd (R.CLU_CALSAT m)).getLsbD e = (s.rd (R.CLU_CALSAT m)).getLsbD e ∧
  (t.rd (R.CLU_CALSTALE m)).getLsbD e = (s.rd (R.CLU_CALSTALE m)).getLsbD e

end Sys2Proof.Claims

/-- R193 to R197: a window that closes keeps its counts, clears the running ones, and sets SHARE and STALE from them; an anchor closes a due one at
once, and CLU_CALCLOSE has the entries it names, no others, and none that an anchor has closed in its cycle, closed with the next cycle;
CLU_CALCLR clears the running counts of those it names. Lanes of a cycle are added together, unless a count would pass 48 bits. -/
def Sys2Proof.Claims.WindowsClose : Prop :=
  (∀ s m (entries : Word), s.hostWrites = true → s.hasClu m = true → Answers (.cluCalclose m entries) s fun t =>
    (∀ k, k ∈ t.cyc.cal.close ↔ k ∈ s.cyc.cal.close ∨ (∃ e, e < 32 ∧ entries.getLsbD e = true ∧ k = 32 * m + e ∧ k ∉ s.cyc.cal.closed)) ∧
    t = { s with cyc := { s.cyc with cal := { s.cyc.cal with close := t.cyc.cal.close } } }) ∧
  (∀ (s : State) ks, ks.Nodup → (∀ k ∈ ks, k < 512) →
    (∀ m e, m < 16 → e < 32 → if 32 * m + e ∈ ks then Closed s (s.calWritten ks) m e else CalKept s (s.calWritten ks) m e) ∧
    s.Regs (fun o => ∃ m e, m < 16 ∧ e < 32 ∧ 32 * m + e ∈ ks ∧ calReg m e o) (s.calWritten ks)) ∧
  (∀ s m e, s.hasClu m = true → e < 32 → s.calDue m e = true → Answers (.calibWindowClose m e) s fun t => ∃ v : State,
    t = { v with cyc := { v.cyc with cal := { s.cyc.cal with
      closed := s.cyc.cal.closed ++ [32 * m + e], close := s.cyc.cal.close.filter fun k => k != 32 * m + e } } } ∧
    Closed s v m e ∧ s.Regs (calReg m e) v ∧ (∀ k, k < 32 → k ≠ e → CalKept s v m k) ∧
    ((s.rd (R.CLU_CALSTALE m)).getLsbD e = true ∨ (v.rd (R.CLU_CALSTALE m)).getLsbD e = false → onlyRegs s v)) ∧
  (∀ (s : State) m e tot clip, m < 16 → e < 32 →
    let a := (s.rd64 (R.CLU_CALTOT m e)).toNat + tot
    let b := (s.rd64 (R.CLU_CALCLIP m e)).toNat + clip
    let t := s.calAdd m e tot clip
    ((s.rd (R.CLU_CALSAT m)).getLsbD e = true → t = s) ∧
    ((s.rd (R.CLU_CALSAT m)).getLsbD e = false → a < 2 ^ 48 → b < 2 ^ 48 →
      t.rd64 (R.CLU_CALTOT m e) = BitVec.ofNat 64 a ∧ t.rd64 (R.CLU_CALCLIP m e) = BitVec.ofNat 64 b ∧
      (t.rd (R.CLU_CALSAT m)).getLsbD e = false ∧ onlyRegs s t) ∧
    ((s.rd (R.CLU_CALSAT m)).getLsbD e = false → 2 ^ 48 ≤ a ∨ 2 ^ 48 ≤ b →
      t.rd64 (R.CLU_CALTOT m e) = s.rd64 (R.CLU_CALTOT m e) ∧ t.rd64 (R.CLU_CALCLIP m e) = s.rd64 (R.CLU_CALCLIP m e) ∧
      (t.rd (R.CLU_CALSAT m)).getLsbD e = true ∧ onlyRegs s t)) ∧
  (∀ s m e, s.calDue m e = false → exec (.calibWindowClose m e) s = .next s) ∧
  (∀ s m (entries : Word), s.hostWrites = true → s.hasClu m = true → Answers (.cluCalclr m entries) s fun t => onlyRegs s t ∧
    (∀ e, e < 32 → entries.getLsbD e = true →
      t.rd64 (R.CLU_CALCLIP m e) = 0 ∧ t.rd64 (R.CLU_CALTOT m e) = 0 ∧ (t.rd (R.CLU_CALSAT m)).getLsbD e = false) ∧
    (∀ e, e < 32 → entries.getLsbD e = false → CalKept s t m e) ∧
    (∀ o, (∀ e, e < 32 → entries.getLsbD e = true → ¬ (R.CLU_CALCLIP m e ≤ o ∧ o < R.CLU_CALCLIP m e + 16)) → o ≠ R.CLU_CALSAT m →
      t.rd o = s.rd o))

/-- R196, R198: a commit of a cluster's group is refused with code 1 for a reserved anchor and 2 for an anchor the partition does not have; the group
applies at the partition's next HP anchor: each due window closes under the old configuration, and an entry that changes starts anew. -/
def Sys2Proof.Claims.CalibrationGroup : Prop :=
  (∀ s m, s.hostWrites = true → s.hasClu m = true → Commits (.cluCalcommit m) s (R.CLU_CALSTAT m) (s.calCode m) onlyRegs) ∧
  (∀ (s : State) m,
    let cfg := fun e => s.rd (R.CLU_CALCFG m e)
    let reserved := ∃ e, e < 32 ∧ (cfg e).getLsbD 31 = true ∧ fld (cfg e) 29 2 = 3
    let missing := ∃ p e, s.rtOf m = some p ∧ e < 32 ∧ (cfg e).getLsbD 31 = true ∧ s.hasAnchor none p (some (fld (cfg e) 29 2)) = false
    (reserved → s.calCode m = 1) ∧ (¬ reserved → missing → s.calCode m = 2) ∧ (¬ reserved → ¬ missing → s.calCode m = 0)) ∧
  (∀ s m, s.hasClu m = true → (s.rd (R.CLU_CALSTAT m)).getLsbD 31 = true → (∀ p, s.rtOf m = some p → s.hpNow p true = true) →
    Answers (.calcfgApply m) s fun t =>
      (t.rd (R.CLU_CALSTAT m)).getLsbD 31 = false ∧
      (∀ e, e < 32 → t.act (R.CLU_CALCFG m e) = s.rd (R.CLU_CALCFG m e) ∧
        (s.calDue m e = true → t.rd64 (R.CLU_CALCLIPL m e) = s.rd64 (R.CLU_CALCLIP m e) ∧
          t.field (R.CLU_CALSHARE m e) 0 16 = shareOf s m e) ∧
        (calConfig (s.rd (R.CLU_CALCFG m e)) ≠ calConfig (s.act (R.CLU_CALCFG m e)) → t.rd64 (R.CLU_CALCLIP m e) = 0 ∧ t.rd64 (R.CLU_CALTOT m e) = 0 ∧
          t.rd (R.CLU_CALWIN m e) = 0 ∧ (t.rd (R.CLU_CALSAT m)).getLsbD e = false) ∧
        (s.calDue m e = false → calConfig (s.rd (R.CLU_CALCFG m e)) = calConfig (s.act (R.CLU_CALCFG m e)) → CalKept s t m e))) ∧
  (∀ s m, (s.rd (R.CLU_CALSTAT m)).getLsbD 31 = false ∨ (∃ p, s.rtOf m = some p ∧ s.hpNow p true = false) →
    exec (.calcfgApply m) s = .next s)

/-! ## Pods, correction, scrubbing, remap and bank power -/

namespace Sys2Proof.Claims

open Sys2Proof Sys2Proof.Machine

/-- The stored word at device address wa. -/
def wordOf (s : State) (wa : Nat) : Option Stored := (s.place wa).map fun p => s.stored p wa

/-- A memory's own write of clean words: from s to t each word of `fix` holds its data with a correct check byte, and every other byte of
memory reads as before. -/
structure Fixed (s t : State) (fix : List (Nat × Dword)) : Prop where
  words : ∀ x ∈ fix, t.bankWord x.1 = x.2 ∧ t.bankSyn x.1 = 0
  rest  : ∀ a, a / 8 * 8 ∉ fix.map (·.1) → t.byteAt a = s.byteAt a
  syn   : ∀ wa, wa % 8 = 0 → wa ∉ fix.map (·.1) → t.bankSyn wa = s.bankSyn wa

/-- What a word would be corrected to, when it has one bit in error (R270). -/
def corrected (s : State) (wa : Nat) : Option Dword :=
  match wordOf s wa with
  | some w =>
    match eccDecode w.syn with
    | .ceData i => some (w.data ^^^ BitVec.ofNat 64 (2 ^ i))
    | .ceCheck => some w.data
    | _ => none
  | none => none

/-- Nothing but the counters of soft holds, and what the cycle notes of its requests, has changed beside `x` (R253, R264). -/
def softRegs (s t : State) : Prop := ∀ o, (∀ m b, o ≠ R.SPD_SOFT m b) → t.rd o = s.rd o

/-- The record of a cycle but for its flags and its requests. -/
def Cycle.asked (c d : Cycle) : Cycle := { c.flags d with bus := d.bus, held := d.held }

/-- A pod entry of core n is not free to drain in this cycle (R245): it receives a word, or its write is held. -/
def podHeld (s : State) (n : Nat) (e : PodEntry) : Prop :=
  (s.core n).podAt = (s.coreNow n, e.row) ∨ s.heldOf ordPod (s.claimAt true e.row) ≠ []

end Sys2Proof.Claims

/-- R245, R250, R276 to R278: a drain empties the oldest pod entry that is free to drain into its row, with the syndromes it held; no access sees a byte
change. A correction that waits is written in an idle cycle of its bank, after the one in which it was read, and leaves the queue. -/
def Sys2Proof.Claims.DrainsAndCorrections : Prop :=
  (∀ s n pre e rest, n < 128 → PodOk n (s.core n).pod → (s.core n).pod = pre ++ e :: rest → (∀ x ∈ pre, podHeld s n x) → ¬ podHeld s n e →
    (s.rd R.ECC_INJCTL).getLsbD 31 = false → Answers (.podNormalDrain n) s fun t =>
    (t.core n) = { s.core n with pod := pre ++ rest } ∧ (∀ m, m ≠ n → t.core m = s.core m) ∧
    (∀ x ∈ e.words, t.bankWord (e.row + 8 * x.1) = x.2.1 ∧ t.bankSyn (e.row + 8 * x.1) = x.2.2) ∧
    (∀ a, t.peek a 1 = s.peek a 1) ∧ softRegs s t ∧
    t = { s with cores := t.cores, mem := t.mem, syn := t.syn, integ := t.integ, regs := t.regs, cyc := Cycle.asked s.cyc t.cyc }) ∧
  (∀ s n, (∀ e ∈ (s.core n).pod, podHeld s n e) → Answers (.podNormalDrain n) s fun t =>
    softRegs s t ∧ t = { s with regs := t.regs, cyc := Cycle.asked s.cyc t.cyc }) ∧
  (∀ s n, (s.core n).pod = [] → exec (.podNormalDrain n) s = .next s) ∧
  (∀ s n b e, s.hasBank n b = true → s.bankGated n b = false → s.remapFor n b = false → s.bankIdle n b = true →
    (s.integOf n).wbq.find? (fun e => e.bank == b && decide (e.raw.toNat < s.tb.raw.toNat)) = some e → e.addr % 8 = 0 →
    ¬ armed s n (e.addr - memBase n) →
    Answers (.correctionWriteBack n b) s fun t => Fixed s t [(e.addr, e.data)] ∧
      (t.integOf n).wbq = (s.integOf n).wbq.filter (fun x => x.addr ≠ e.addr) ∧ t.regs = s.regs ∧
      t = { s with mem := t.mem, syn := t.syn, integ := t.integ, cyc := Cycle.asked s.cyc t.cyc }) ∧
  (∀ s n b, s.bankIdle n b = false ∨ (∀ e ∈ (s.integOf n).wbq, e.bank = b → s.tb.raw.toNat ≤ e.raw.toNat) →
    exec (.correctionWriteBack n b) s = .next s)

/-- R276, R288 to R290, R292: in an idle cycle of a bank its scrubber reads the next row that a table protects; a word with one bit in error waits for
the scrub write, which stores it corrected, and a row without one moves the pointer on; LPDDR6 corrects and rewrites a 64-byte unit at a time. -/
def Sys2Proof.Claims.Scrubbing : Prop :=
  (∀ s n b r, s.hasBank n b = true → s.remapFor n b = false → s.wbFor n b = none → s.bankIdle n b = true →
    FMap.find (s.integOf n).scrubbed b = none → s.scrubRow n b = some r →
    Answers (.scrubRead n b) s fun t => (∃ v : State, s.OnlyRead v ∧ t = v.grantBus ordIdle [⟨n, b, none, 0⟩]) ∧
      let off := b * bankSize n + 128 * r
      let clean := ∀ i, i < 16 → (∀ w, wordOf s (memBase n + off + 8 * i) = some w → w.syn = 0)
      (clean → (t.integOf n).scrubbed = (s.integOf n).scrubbed ∧ ∀ a, t.byteAt a = s.byteAt a) ∧
      (∀ i d, i < 16 → (∀ j, j < 16 → ∀ w, wordOf s (memBase n + off + 8 * j) = some w → w.spare = false) →
        corrected s (memBase n + off + 8 * i) = some d →
        ∃ fix, FMap.find (t.integOf n).scrubbed b = some fix ∧ (memBase n + off + 8 * i, d) ∈ fix)) ∧
  (∀ (s : State) n b r, s.scrubRow n b = some r → (s.rd (R.ECC_SCRUB_EN n)).getLsbD b = true ∧ r < bankRows n ∧ FMap.get 0 (s.integOf n).ptr b ≤ r ∧
    ∃ h ∈ s.guards n, 0 < shared h.off h.len (rowOff n b r) 128) ∧
  (∀ s n b, s.scrubRow n b = none ∨ s.bankIdle n b = false → exec (.scrubRead n b) s = .next s) ∧
  (∀ s n b, FMap.find (s.integOf n).scrubbed b = none ∨ s.bankIdle n b = false → exec (.scrubWrite n b) s = .next s) ∧
  (∀ s n b fix, s.hasBank n b = true → s.bankBusy n b = false → s.remapFor n b = false → s.wbFor n b = none → s.bankIdle n b = true →
    FMap.find (s.integOf n).scrubbed b = some fix → (fix.map (·.1)).Nodup → (∀ x ∈ fix, x.1 % 8 = 0) →
    (s.rd R.ECC_INJCTL).getLsbD 31 = false →
    Answers (.scrubWrite n b) s fun t => Fixed s t fix ∧ FMap.find (t.integOf n).scrubbed b = none) ∧
  (∀ s, s.memOn = true → (s.rd (R.ECC_SCRUB_EN 144)).getLsbD 0 = true → s.memSize 144 ≠ 0 →
    100 * max 1 (s.field (R.ECC_MSCRUB 144) 0 16) ≤ (s.tb.raw - BitVec.ofNat 64 (FMap.get 0 (s.integOf 144).ptr 1)).toNat →
    (s.rd R.ECC_INJCTL).getLsbD 31 = false →
    let u := FMap.get 0 (s.integOf 144).ptr 0
    let addr := fun i => 0x1000000000 + 64 * u + 8 * i
    64 * u + 64 ≤ s.memSize 144 →
    Answers .lpddr6ScrubRead s fun t =>
      (∀ i d, i < 8 → corrected s (addr i) = some d → t.bankWord (addr i) = d ∧ t.bankSyn (addr i) = 0) ∧
      (∀ a, a / 64 ≠ addr 0 / 64 → t.byteAt a = s.byteAt a) ∧
      FMap.get 0 (t.integOf 144).ptr 1 = s.tb.raw.toNat ∧
      FMap.get 0 (t.integOf 144).ptr 0 = (if 64 * (u + 1) < s.memSize 144 then u + 1 else 0))

/-- R294, R295: a remap commit is refused when no entry is free (1), the word does not exist or lies in LPDDR6 (2), it is already mapped (3) or its bank is
not on (4); else the word's contents are copied to the lowest free entry, corrected, or poisoned where they cannot be. R296: an injection is armed. -/
def Sys2Proof.Claims.RemapAndInjection : Prop :=
  (∀ s n, s.hostWrites = true → s.hasMem n = true → n < 145 → Commits (.eccRmcommit n) s (R.ECC_RMSTAT n) (s.rmCode n) fun s t =>
    t = { s with regs := t.regs, cyc := s.cyc.flags t.cyc, integ := t.integ } ∧ (∀ m, m ≠ n → t.integOf m = s.integOf m) ∧
    t.integOf n = { s.integOf n with remap := if s.rmCode n = 0 then some (s.field (R.ECC_RMADD n) 0 20) else (s.integOf n).remap }) ∧
  (∀ (s : State) n, n < 144 →
    let a := s.field (R.ECC_RMADD n) 0 20
    let valid := fun i => (s.rd (R.ECC_RM n i)).getLsbD 31 = true
    let full := ∀ i, i < 8 → valid i
    let row := bankRows n ≤ a / 16 % 4096
    let twice := ∃ i, i < 8 ∧ valid i ∧ s.field (R.ECC_RM n i) 0 20 = a
    (full → s.rmCode n = 1) ∧ (¬ full → row → s.rmCode n = 2) ∧ (¬ full → ¬ row → twice → s.rmCode n = 3) ∧
    (¬ full → ¬ row → ¬ twice → s.rmCode n = if s.bankBusy n (a / 2 ^ 16) then 4 else 0)) ∧
  (∀ (s : State), s.rmCode 144 = 2) ∧
  (∀ s n a i, n < 144 → (s.integOf n).remap = some a → s.rmFree n = some i → s.bankGated n (a / 2 ^ 16) = false → a < 2 ^ 20 →
    s.bankIdle n (a / 2 ^ 16) = true →
    let off := a / 2 ^ 16 * bankSize n + a / 16 % 4096 * 128 + a % 16 * 8
    let wa := memBase n + off
    let w := s.stored ⟨n, off⟩ wa
    ¬ armed s n off → Answers (.remapAdded n) s fun t =>
      t.rd (R.ECC_RM n i) = BitVec.ofNat 32 (2 ^ 31 + a) ∧ (t.rd (R.ECC_RMSTAT n)).getLsbD 31 = false ∧ (t.integOf n).remap = none ∧
      t.bankWord wa = (if (eccDecode w.syn).bad then w.data else eccDeliver (eccDecode w.syn) w.data) ∧
      t.bankSyn wa = (if (eccDecode w.syn).bad then 0xFF else 0) ∧
      (∀ b, b / 8 * 8 ≠ wa → t.byteAt b = s.byteAt b) ∧
      ∃ v : State, t = (v.event 0x0905 (BitVec.ofNat 32 (n + i * 2 ^ 8 + if (eccDecode w.syn).bad then 2 ^ 11 else 0)) none).grantBus
        ordIdle [⟨n, a / 2 ^ 16, none, 0⟩]) ∧
  (∀ s n, (∀ a, (s.integOf n).remap = some a → s.bankIdle n (a / 2 ^ 16) = false) → exec (.remapAdded n) s = .next s) ∧
  (∀ s (mem : BitVec 8), s.hostWrites = true → Answers (.eccInjectArm mem) s fun t => onlyRegs s t ∧
    t.rd R.ECC_INJCTL = BitVec.ofNat 32 (2 ^ 31 + mem.toNat) ∧ ∀ o, o ≠ R.ECC_INJCTL → t.rd o = s.rd o)

namespace Sys2Proof.Claims

open Sys2Proof Sys2Proof.Machine

/-- A power request of memory n answered with a code and the bank that caused it, and nothing else done. -/
def PowerRefused (s t : State) (n code b : Nat) : Prop :=
  onlyRegs s t ∧ t.rd (R.SPD_PGCODE n) = BitVec.ofNat 32 (b * 2 ^ 8 + code) ∧ ∀ o, o ≠ R.SPD_PGCODE n → t.rd o = s.rd o

/-- The lowest of the named banks with a property. -/
def Lowest (banks : BitVec 16) (f : Nat → Prop) (b : Nat) : Prop :=
  b < 16 ∧ banks.getLsbD b = true ∧ f b ∧ ∀ k, k < b → banks.getLsbD k = true → ¬ f k

/-- The bank is in transition. -/
def moving (s : State) (n b : Nat) : Prop := (FMap.find s.banks (bankKey n b)).isSome = true

end Sys2Proof.Claims

/-- R263 to R266: a request to power banks down is refused for a bank that a handle covers (1), of a memory that the part does not have (2), or that is
in transition (3); one that is accepted starts each named bank. A closing bank turns off once a test has found nothing under way in it, or stays on
after 4,096 cycles; a waking one comes on with its contents undefined. -/
def Sys2Proof.Claims.BankPower : Prop :=
  (∀ s n (banks : BitVec 16) b, s.hostWrites = true → n < 144 →
    let held := fun b => covered (s.guards n) (b * bankSize n) (bankSize n) = true
    (Lowest banks held b → Answers (.spdPgctlPowerDown n banks) s fun t => PowerRefused s t n 1 b) ∧
    (s.hasMem n = false → (∀ k, k < 16 → banks.getLsbD k = true → ¬ held k) → Lowest banks (fun _ => True) b →
      Answers (.spdPgctlPowerDown n banks) s fun t => PowerRefused s t n 2 b) ∧
    (s.hasMem n = false → Lowest banks (fun _ => True) b → Answers (.spdPgctlPowerUp n banks) s fun t => PowerRefused s t n 2 b)) ∧
  (∀ s n (banks : BitVec 16) b, s.hostWrites = true → n < 144 → s.hasMem n = true →
    let held := fun b => covered (s.guards n) (b * bankSize n) (bankSize n) = true
    ((∀ k, k < 16 → banks.getLsbD k = true → ¬ held k) → Lowest banks (moving s n) b →
      Answers (.spdPgctlPowerDown n banks) s fun t => PowerRefused s t n 3 b) ∧
    (Lowest banks (moving s n) b → Answers (.spdPgctlPowerUp n banks) s fun t => PowerRefused s t n 3 b) ∧
    ((∀ k, k < 16 → banks.getLsbD k = true → ¬ held k ∧ ¬ moving s n k) → Answers (.spdPgctlPowerDown n banks) s fun t =>
      t.rd (R.SPD_PGCODE n) = 0 ∧ t.mem = s.mem ∧ ∀ k, k < 16 → s.bankOff n k = false → banks.getLsbD k = true →
        FMap.find t.banks (bankKey n k) = some ⟨true, s.tb.raw, false⟩ ∧ (t.rd (R.SPD_PGSTAT n)).getLsbD k = true ∧ t.bankOff n k = false) ∧
    ((∀ k, k < 16 → banks.getLsbD k = true → ¬ moving s n k) → Answers (.spdPgctlPowerUp n banks) s fun t =>
      t.rd (R.SPD_PGCODE n) = 0 ∧ t.mem = s.mem ∧ ∀ k, k < 16 → s.bankOff n k = true → banks.getLsbD k = true →
        FMap.find t.banks (bankKey n k) = some ⟨false, s.tb.raw, false⟩ ∧ t.bankGated n k = true ∧ t.bankOff n k = false)) ∧
  (∀ s n b raw passed, s.hasBank n b = true → FMap.find s.banks (bankKey n b) = some ⟨true, raw, passed⟩ →
    let late := cyclesBetween raw s.tb.raw
    let free := s.inFlight n b = 0 ∧ s.podIn n b = false ∧ (n, b) ∉ s.cyc.heldWas
    (0 < late → passed = true ∨ (late ≤ 4096 ∧ free) → Answers (.bankOff n b) s fun t =>
      t.bankOff n b = true ∧ ¬ moving t n b ∧ (∀ e ∈ (t.integOf n).wbq, e.bank ≠ b) ∧ FMap.find (t.integOf n).scrubbed b = none ∧
      t = { s with regs := t.regs, cyc := s.cyc.flags t.cyc, banks := t.banks, integ := t.integ } ∧ ∀ o, o ≠ R.SPD_PGSTAT n → t.rd o = s.rd o) ∧
    (passed = false → ¬ free → exec (.bankOff n b) s = .next s) ∧
    (passed = true → exec (.bankPdAbort n b) s = .next s) ∧
    (passed = false → 4096 < late → Answers (.bankPdAbort n b) s fun t => t.bankOff n b = s.bankOff n b ∧ ¬ moving t n b ∧
      (t.rd (R.SPD_FLAGS n)).getLsbD 1 = true ∧ ∃ v : State, t = v.event 0x0802
        (BitVec.ofNat 32 (n * 2 ^ 16 + b * 2 ^ 8 + min 63 (s.inFlight n b))) none)) ∧
  (∀ s n b raw passed, Memory.wf s.mem = true → s.hasBank n b = true → FMap.find s.banks (bankKey n b) = some ⟨false, raw, passed⟩ →
    64 ≤ cyclesBetween raw s.tb.raw →
    Answers (.bankWakeDone n b) s fun t =>
      let lo := memBase n + b * bankSize n
      ¬ moving t n b ∧ t.bankOff n b = s.bankOff n b ∧
      (∀ a, lo ≤ a → a < lo + bankSize n → t.byteAt a = Config.undefinedByte (s.free + 1) a) ∧
      (∀ c ∈ s.mem, c.1 < lo ∨ lo + bankSize n ≤ c.1 → t.byteAt c.1 = c.2))

/-! ## DMA channels -/

namespace Sys2Proof.Claims

open Sys2Proof Sys2Proof.Machine

/-- Every channel but k is as it was. -/
def OtherChannels (s t : State) (k : Nat) : Prop := ∀ j, j ≠ k → t.dmaOf j = s.dmaOf j

/-- An operation on an object is not a WAIT of channel k. -/
def notWait (k : Nat) (o : SyncOp) : Bool :=
  match o.kind with
  | .waitDma c _ => c != k
  | _ => true

/-- From s to t channel k has gone idle, but for the writes of rows already read, and its command has left it (R316, R318, R320). -/
def GoneIdle (s t : State) (k : Nat) : Prop :=
  (t.dmaOf k).st = .idle ∧ (t.dmaOf k).segs = (s.dmaOf k).read ∧ (t.dmaOf k).ctx = none ∧ OtherChannels s t k ∧
    t.sch = { s.sch with running := s.sch.running.filter fun r => r.eng ≠ .dma k ∨ r.paused = true } ∧
    t.syncOps = s.syncOps.filter (notWait k) ∧ t = { s with dma := t.dma, sch := t.sch, syncOps := t.syncOps }

/-- From s to t channel k has gone on to a descriptor; the 4,097th halts it (R317). -/
def GoneTo (s t : State) (k next : Nat) : Prop :=
  (t.dmaOf k).didx = next ∧ t.rd (chReg R.DMA_CHDONE k) = 0 ∧ OtherChannels s t k ∧
    ((s.dmaOf k).count < 4096 → (t.dmaOf k).st = .run ∧ (t.dmaOf k).count = (s.dmaOf k).count + 1 ∧ (t.dmaOf k).issued = false ∧
      (t.dmaOf k).segs = (s.dmaOf k).read ∧ (t.dmaOf k).desc = none ∧ t = { s with dma := t.dma, regs := t.regs, cyc := s.cyc.flags t.cyc } ∧ ∀ o, o ≠ chReg R.DMA_CHDONE k → t.rd o = s.rd o) ∧
    ((s.dmaOf k).count = 4096 → (t.dmaOf k).st = .halt ∧ (t.dmaOf k).cause = 5)

/-- From s to t channel k has halted with a cause at an address (R318); after a watchdog or link halt a slot's or DMAGO's chain clears itself
until its run of them reaches three (R428). -/
def Halted (s t : State) (k cause addr : Nat) : Prop :=
  let run := (s.escOf (escKey 3 k 0)).run + 1
  (t.dmaOf k).cause = cause ∧ (t.rd (R.DMA_FLAGS (k / 8))).getLsbD (k % 8) = true ∧
    t.rd64 (chReg R.DMA_CHADDR k) = BitVec.ofNat 64 addr ∧ OtherChannels s t k ∧
    (t.dmaOf k).st = (if (cause = 6 ∨ cause = 7) ∧ (s.dmaOf k).host = false ∧ run < 3 ∧ s.escalated 3 k 0 = false then .idle else .halt) ∧
    (t.escOf (escKey 3 k 0)).run = min run 15 ∧ (∀ r ∈ t.sch.running, r.eng = .dma k → r.paused = true) ∧ t.mem = s.mem

end Sys2Proof.Claims

/-- R312, R316, R320: GO starts a variable chain on an idle channel, STOP ends one that runs, and of a halted channel RESUME runs the descriptor from its
start, SKIP goes on after it, and CLEAR ends the chain; on channel 7, or in another state, the operation is ignored and counted. -/
def Sys2Proof.Claims.ChannelControl : Prop :=
  ∀ s m c d, s.hostWrites = true → m < s.nClusters → c < 8 → d < 4096 →
    let k := m * 8 + c
    let st := (s.dmaOf k).st
    let ignored := fun i => Answers i s fun t => onlyRegs s t ∧ t.rd (R.DMA_IGN m) = satAdd (s.rd (R.DMA_IGN m)) 1 ∧
      ∀ o, o ≠ R.DMA_IGN m → t.rd o = s.rd o
    (c = 7 ∨ st ≠ .idle → ignored (.dmaChctlGo m c d)) ∧
    (c = 7 ∨ (st ≠ .run ∧ st ≠ .wait) → ignored (.dmaChctlStop m c)) ∧
    (c = 7 ∨ st ≠ .halt → ignored (.dmaChctlResume m c) ∧ ignored (.dmaChctlSkip m c) ∧ ignored (.dmaChctlClear m c)) ∧
    (c ≠ 7 → st = .idle → Answers (.dmaChctlGo m c d) s fun t =>
      t.dmaOf k = { DmaChan.reset with
        st := .run, didx := d, count := 1, var := true, host := true, segs := (s.dmaOf k).read
        cause := (s.dmaOf k).cause, raw := s.tb.raw } ∧
      t.rd (R.DMA_CHDONE m c) = 0 ∧ OtherChannels s t k ∧ t = { s with dma := t.dma, regs := t.regs, cyc := s.cyc.flags t.cyc } ∧
      ∀ o, o ≠ R.DMA_CHDONE m c → t.rd o = s.rd o) ∧
    (c ≠ 7 → st = .run ∨ st = .wait → Answers (.dmaChctlStop m c) s fun t =>
      if (s.dmaOf k).inAir = [] then GoneIdle s t k
      else t.dmaOf k = { s.dmaOf k with ending := true, segs := (s.dmaOf k).inAir, waits := none } ∧ OtherChannels s t k ∧
        t.mem = s.mem) ∧
    (c ≠ 7 → st = .halt →
      (Answers (.dmaChctlResume m c) s fun t =>
        t.dmaOf k = { s.dmaOf k with
          st := .run, desc := none, issued := false, segs := (s.dmaOf k).read, ending := false, raw := s.tb.raw } ∧ OtherChannels s t k ∧
        t.rd (R.DMA_CHDONE m c) = 0 ∧ t = { s with dma := t.dma, regs := t.regs, cyc := s.cyc.flags t.cyc }) ∧
      (Answers (.dmaChctlSkip m c) s fun t =>
        if (s.curDesc k).last then GoneIdle s t k else GoneTo s t k (s.curDesc k).next) ∧
      (Answers (.dmaChctlClear m c) s fun t => GoneIdle s t k))

namespace Sys2Proof.Claims

open Sys2Proof Sys2Proof.Machine

/-- The row of channel k's current descriptor, as a request, and its place in the order of requests (R248, R249). -/
def descClaims (s : State) (k : Nat) : List Claim := s.claimsOf false (s.descAddr (k / 8) (s.dmaOf k).didx) 32
def descOrder (s : State) (k : Nat) : Nat := if (s.dmaOf k).var then ordOffDie k else ordOnDie k

/-- Channel k is ready for its descriptor, and its request for it is granted, in state v. -/
def Asks (s : State) (k : Nat) (v : State) : Prop :=
  s.dmaReady k = true ∧ s.heldOf (descOrder s k) (descClaims s k) = [] ∧ v = s.grantBus (descOrder s k) (descClaims s k)

/-- From u to t the descriptor's work has begun and nothing else is done. -/
def IssuedBy (u t : State) (k : Nat) : Prop :=
  t.dmaOf k = { u.dmaOf k with issued := true, run := 0, off := 0, nextAt := u.tb.raw } ∧ OtherChannels u t k ∧ t = { u with dma := t.dma }

/-- The six commands of a channel's descriptor. -/
def descCommands (m c : Nat) : List Instr := [.dmaNop m c, .dmaCopy m c, .dmaFill m c, .dmaSignal m c, .dmaWait m c, .dmaReset m c]

/-- Channel k's WAIT evaluated at its object (R39, R315): met it ends; unmet it waits, or, in a compiled chain of a real-time partition, the
channel goes idle and its context is torn down. -/
def WaitRule : Prop :=
  ∀ (v : State) obj k (goal n : Word), (v.dmaOf k).st = .run → (v.dmaOf k).waits = some false →
    let rt := ∃ p, v.partOf (k / 8) = some p ∧ v.isRt p = true
    ((n - goal).msb = false → v.evalDmaWait obj k goal n = v.setDma k { v.dmaOf k with waits := none }) ∧
    ((n - goal).msb = true → (v.dmaOf k).var = true ∨ ¬ rt → v.evalDmaWait obj k goal n = v.setDma k { v.dmaOf k with st := .wait }) ∧
    (∀ ctx, ctx < 4096 → (n - goal).msb = true → (v.dmaOf k).var = false → rt → (v.dmaOf k).ctx = some ctx → v.isTorn ctx = false →
      let t := v.evalDmaWait obj k goal n
      (t.dmaOf k).st = .idle ∧ t.isTorn ctx = true ∧ t.field (R.SCH_RB ctx 8) 16 8 = 1)

end Sys2Proof.Claims

/-- R39, R250, R309, R313, R315, R317: a descriptor is read from its place and halts the channel when it cannot be, or breaks the rules. NOP does nothing,
COPY and FILL begin, SIGNAL, RESET and WAIT post to an object the channel reaches; a WAIT ends, waits, or ends a compiled real-time chain with its
context torn down. Commands of other operations do nothing. -/
def Sys2Proof.Claims.DescriptorPrograms : Prop :=
  WaitRule ∧
  (∀ s k, s.dmaReady k = true →
    let a := s.descAddr (k / 8) (s.dmaOf k).didx
    let d := Desc.ofBytes (s.peek a 32)
    (s.openRange a 32 = false → ∃ t, s.dmaFetch k = ⟨t, none⟩ ∧ Halted s t k 1 a) ∧
    (s.openRange a 32 = true → (∀ w ∈ wordsOf a 32, sound s w) →
      (s.descBad k d = false → ∃ u v, s.dmaFetch k = ⟨u, some d⟩ ∧ s.OnlyRead v ∧ (∀ w, seen v w = seen s w) ∧
        u = v.setDma k { s.dmaOf k with var := (s.dmaOf k).var || d.var, desc := some d }) ∧
      (s.descBad k d = true → ∃ v t, s.OnlyRead v ∧ s.dmaFetch k = ⟨t, none⟩ ∧ Halted v t k 4 a))) ∧
  (∀ s m c i, c < 8 → i ∈ descCommands m c → let k := m * 8 + c
    (s.dmaReady k = false → exec i s = .next s) ∧
    (s.dmaReady k = true → s.heldOf (descOrder s k) (descClaims s k) ≠ [] →
      exec i s = .next (s.softHolds (s.heldOf (descOrder s k) (descClaims s k)))) ∧
    (∀ v u, Asks s k v → v.dmaFetch k = ⟨u, none⟩ → exec i s = .next u) ∧
    (∀ v u d, Asks s k v → v.dmaFetch k = ⟨u, some d⟩ → i ∈ (descCommands m c).eraseIdx d.op → exec i s = .next v)) ∧
  (∀ s m c v u d, c < 8 → let k := m * 8 + c
    let lat := if d.obj / 1024 = m then 2 else 8
    Asks s k v → v.dmaFetch k = ⟨u, some d⟩ →
    (d.op = 0 → Answers (.dmaNop m c) s fun t => IssuedBy u t k) ∧
    (d.op = 1 → Answers (.dmaCopy m c) s fun t => IssuedBy u t k) ∧
    (d.op = 2 → Answers (.dmaFill m c) s fun t => IssuedBy u t k) ∧
    (d.op = 3 → Answers (.dmaSignal m c) s fun t => ∃ x, IssuedBy u x k ∧
      if u.objOk k d.obj then t = x.post d.obj lat (.signal d.amount) else Halted x t k 1 d.obj) ∧
    (d.op = 4 → Answers (.dmaWait m c) s fun t => if u.objOk k d.obj then ∃ x, IssuedBy u x k ∧
        t = (x.setDma k { x.dmaOf k with waits := some false }).post d.obj lat (.waitDma k d.w1)
      else Halted u t k 1 d.obj) ∧
    (d.op = 5 → Answers (.dmaReset m c) s fun t => ∃ x, IssuedBy u x k ∧
      if u.objOk k d.obj then t = x.post d.obj lat .reset else Halted x t k 1 d.obj)) ∧
  (∀ s m c, c < 8 → let k := m * 8 + c
    let d := s.curDesc k
    let met := (s.dmaOf k).waits = some true ∨ (s.count d.obj - d.w1).msb = false
    s.hasChan k = true → (s.dmaOf k).st = .wait →
    (met → Answers (.dmaWaitMet m c) s fun t =>
      t.dmaOf k = { s.dmaOf k with st := .run, waits := none, raw := s.tb.raw } ∧ OtherChannels s t k ∧ t = { s with dma := t.dma }) ∧
    (¬ met → exec (.dmaWaitMet m c) s = .next s))

namespace Sys2Proof.Claims

open Sys2Proof Sys2Proof.Machine

/-- A byte lies in a context area that a batch slot's chain may not write (R84). -/
def hiddenAt (s : State) (k a : Nat) : Prop := ∃ h ∈ s.dmaHidden k, h.1 ≤ a ∧ a < h.1 + h.2

/-- Channel k may write `len` bytes from `a`, all on the device, and can read the words they touch (R31, R265, R448). -/
structure MayWrite (s : State) (k a len : Nat) : Prop where
  place : s.dmaEndOf k a = .die ∨ s.dmaEndOf k a = .lp
  opened : s.openRange a len = true
  free  : (s.dmaOf k).host = true → s.lockedBy a len = none
  sound : ∀ w ∈ wordsOf a len, sound s w
  clean : (s.rd R.ECC_INJCTL).getLsbD 31 = false

end Sys2Proof.Claims

/-- R84, R309, R313, R318, R281: in a cycle in which it is due, a FILL takes its pattern in the phase of the destination's address, and a COPY on the device
reads a row; the part waits, is written once its request is granted, every byte at its destination but those of hidden areas, and no other byte
changes. A row of the service channel lands as it was read.
Where a clause rests on a choice of the model and not on a rule, the choice is that of log entries 28, 45, 48, 77 and 108. -/
def Obligations.CopiesAndFills : Prop :=
  (∀ (s : State) k d, (s.dmaOf k).issues s.tb.raw = some d → d.op = 2 → let c := s.dmaOf k
    let n := pieceLen 128 (c.dstNow d) (d.len - c.off)
    ∃ t bs, s.dmaIssues k = ⟨t, false⟩ ∧ bs.length = n ∧
      (∀ i, i < n → bs.getD i 0 = BitVec.ofNat 8 (d.src.toNat / 256 ^ ((c.dstNow d + i) % 8))) ∧
      t.dmaOf k = { c.advance d n 1 s.tb.raw with
        segs := c.segs ++ [⟨none, c.srcNow d, c.dstNow d, n, some bs, s.tb.raw + 10⟩] } ∧ OtherChannels s t k ∧ t = { s with dma := t.dma }) ∧
  (∀ (s : State) k d, (s.dmaOf k).issues s.tb.raw = some d → d.op = 1 → let c := s.dmaOf k
    let n := pieceLen 128 (c.srcNow d) (d.len - c.off)
    let cs := s.claimsOf false (c.srcNow d) n
    let near := s.ownAddr (k / 8) (c.srcNow d) && s.ownAddr (k / 8) (c.dstNow d)
    s.dmaEndOf k (c.srcNow d) = .die ∨ s.dmaEndOf k (c.srcNow d) = .lp →
    (s.heldOf (c.order k) cs ≠ [] → s.dmaIssues k = ⟨s.softHolds (s.heldOf (c.order k) cs), true⟩) ∧
    (s.heldOf (c.order k) cs = [] → s.openRange (c.srcNow d) n = true → (∀ w ∈ wordsOf (c.srcNow d) n, sound s w) →
      ∃ t bs, s.dmaIssues k = ⟨t, false⟩ ∧ (∀ i, i < n → [bs.getD i 0] = seen s (c.srcNow d + i)) ∧
        t.dmaOf k = { c.advance d n (if near then 1 else 2) s.tb.raw with
          segs := c.segs ++ [⟨none, c.srcNow d, c.dstNow d, n, some bs, s.tb.raw + BitVec.ofNat 64 (if near then 10 else 40)⟩] } ∧
        OtherChannels s t k ∧ ∀ a, seen t a = seen s a)) ∧
  (∀ (s : State) k g bs, g.data = some bs → bs.length = g.len → 0 < g.len → let cs := s.claimsOf true g.dst g.len
    (s.heldOf ((s.dmaOf k).order k) cs ≠ [] → s.dmaPut k g = ⟨s.softHolds (s.heldOf ((s.dmaOf k).order k) cs), true⟩) ∧
    (s.heldOf ((s.dmaOf k).order k) cs = [] → MayWrite s k g.dst g.len → ∃ t, s.dmaPut k g = ⟨t, false⟩ ∧
      (t.dmaOf k).segs = (s.dmaOf k).segs.filter (fun x => x ≠ g) ∧
      (∀ i, i < g.len → (¬ hiddenAt s k (g.dst + i) → seen t (g.dst + i) = [bs.getD i 0]) ∧
        (hiddenAt s k (g.dst + i) → seen t (g.dst + i) = seen s (g.dst + i))) ∧
      (∀ a, a < g.dst ∨ g.dst + g.len ≤ a → seen t a = seen s a) ∧
      t.rd (chReg R.DMA_CHBYTES k) = satAdd (s.rd (chReg R.DMA_CHBYTES k)) g.len)) ∧
  (∀ (s : State) k src dst len, 0 < len → src / 128 = (src + len - 1) / 128 → s.openRange src len = true → MayWrite s k dst len →
    s.dmaHidden k = [] → (∀ w ∈ wordsOf src len, sound s w) →
    ∃ t, s.dmaRow k src dst len = ⟨t, none⟩ ∧ (∀ i, i < len → seen t (dst + i) = seen s (src + i)) ∧
      (∀ a, a < dst ∨ dst + len ≤ a → seen t a = seen s a) ∧ t.rd (chReg R.DMA_CHBYTES k) = satAdd (s.rd (chReg R.DMA_CHBYTES k)) len)

/-- R309, R316, R319, R428: a descriptor that is complete is counted, posts its SIGNAL, and leads to the next, or with LAST to the end of the chain; a channel
that makes no progress for its watchdog's time halts. -/
def Sys2Proof.Claims.ChainsEnd : Prop :=
  (∀ s m c, c < 8 → let k := m * 8 + c
    let d := s.curDesc k
    let sig := (d.op = 1 ∨ d.op = 2) ∧ d.sigc = true
    s.hasChan k = true → (s.dmaOf k).st = .run → (s.dmaOf k).finished = true → (s.dmaOf k).ending = false →
    (∀ r, s.cmdOn (.dma k) = some r → r.part < 8 ∧ r.jclass < 64) →
    ((sig → s.objOk k d.obj = true) → Answers (.dmaDescriptorComplete m c) s fun t =>
      t.rd (R.DMA_CHCNT m c) = satAdd (s.rd (R.DMA_CHCNT m c)) 1 ∧
      t.syncOps.filter (notWait k) = s.syncOps.filter (notWait k) ++ (if sig then
        [⟨d.obj, s.rawNow + BitVec.ofNat 64 (5 * if d.obj / 1024 = m then 2 else 8), .signal d.amount⟩] else []) ∧
      (if d.last then (t.dmaOf k).st = .idle ∧ (t.escOf (escKey 3 k 0)).run = 0 ∧ ∀ r ∈ t.sch.running, r.eng = .dma k → r.paused = true
        else ∃ v : State, (v.dmaOf k).count = (s.dmaOf k).count ∧ OtherChannels s v k ∧ GoneTo v t k d.next)) ∧
    (sig → s.objOk k d.obj = false → Answers (.dmaDescriptorComplete m c) s fun t => ∃ v : State,
      v.dmaOf k = { s.dmaOf k with raw := s.tb.raw } ∧ OtherChannels s v k ∧ Halted v t k 1 d.obj)) ∧
  (∀ s m c, (s.dmaOf (m * 8 + c)).finished = false → exec (.dmaDescriptorComplete m c) s = .next s) ∧
  (∀ s m c, c < 8 → let k := m * 8 + c
    s.hasChan k = true → (s.dmaOf k).st = .run ∨ (s.dmaOf k).st = .wait →
    let limit := 1024 * max 1 (s.field (R.DMA_CHCFG m c) 0 16)
    (limit ≤ cyclesBetween (s.dmaOf k).raw s.tb.raw → Answers (.dmaWatchdogExpiry m c) s fun t => Halted s t k 6 0) ∧
    (cyclesBetween (s.dmaOf k).raw s.tb.raw < limit → exec (.dmaWatchdogExpiry m c) s = .next s))

/-- R303, R305, R306: the LPDDR6 controller counts its requests, keeps the temperature multiplier of each channel and flags one above 1, retrains after drift, and
powers idle channels down. -/
def Sys2Proof.Claims.MemoryController : Prop :=
  (∀ s unit w part, s.memOn = true → unit < s.field R.GLB_MEM 0 8 * 2 ^ 24 → Answers (.lpddr6RequestComplete unit w part) s fun t =>
    t = { s with regs := t.regs, cyc := s.cyc.flags t.cyc, memReq := t.memReq } ∧
    (∀ c, FMap.get 0 t.memReq c = if c = unit / 4 % 4 then s.tb.raw else FMap.get 0 s.memReq c) ∧
    (t.rd R.MEM_STAT).getLsbD (8 + unit / 4 % 4) = false ∧
    t.rd R.MEM_RDCNT = (if w then s.rd R.MEM_RDCNT else satAdd (s.rd R.MEM_RDCNT) 1) ∧
    t.rd R.MEM_WRCNT = (if w then satAdd (s.rd R.MEM_WRCNT) 1 else s.rd R.MEM_WRCNT) ∧
    t.rd R.MEM_RMWCNT = (if w && part then satAdd (s.rd R.MEM_RMWCNT) 1 else s.rd R.MEM_RMWCNT)) ∧
  (∀ s, exec .lpddr6ZqLatch s = .next s) ∧
  (∀ s drift, s.memOn = true → Answers (.lpddr6OscRead drift) s fun t => onlyRegs s t ∧
    t.rd R.MEM_RETRAIN = (if drift then satAdd (s.rd R.MEM_RETRAIN) 1 else s.rd R.MEM_RETRAIN) ∧ ∀ o, o ≠ R.MEM_RETRAIN → t.rd o = s.rd o) ∧
  (∀ s c (mult : BitVec 4), s.memOn = true → c < 4 → Answers (.lpddr6TempRead c mult) s fun t =>
    t.field R.MEM_REFM (4 * c) 4 = mult.toNat ∧ (∀ k, k < 4 → k ≠ c → t.field R.MEM_REFM (4 * k) 4 = s.field R.MEM_REFM (4 * k) 4) ∧
    (1 < mult.toNat → (t.rd R.MEM_FLAGS).getLsbD 1 = true) ∧
    s.Regs (fun o => o = R.MEM_REFM ∨ (o = R.MEM_FLAGS ∧ 1 < mult.toNat)) t ∧
    (1 < mult.toNat ∧ s.field R.MEM_REFM (4 * c) 4 < mult.toNat → t.rd R.GLB_LOGSEQ = s.rd R.GLB_LOGSEQ + 1)) ∧
  (∀ s c, s.memOn = true → c < 4 → s.field R.MEM_PDCFG 0 16 ≠ 0 →
    100 * s.field R.MEM_PDCFG 0 16 ≤ (s.tb.raw - FMap.get 0 s.memReq c).toNat → Answers (.lpddr6PowerDownEntry c) s fun t => onlyRegs s t ∧
    (t.rd R.MEM_STAT).getLsbD (8 + c) = true ∧ (∀ b, b ≠ 8 + c → (t.rd R.MEM_STAT).getLsbD b = (s.rd R.MEM_STAT).getLsbD b) ∧
    ∀ o, o ≠ R.MEM_STAT → t.rd o = s.rd o) ∧
  (∀ s c, s.field R.MEM_PDCFG 0 16 = 0 ∨ (s.tb.raw - FMap.get 0 s.memReq c).toNat < 100 * s.field R.MEM_PDCFG 0 16 → exec (.lpddr6PowerDownEntry c) s = .next s)

/-! ## Ethernet ports -/

namespace Sys2Proof.Claims

open Sys2Proof Sys2Proof.Machine

/-- Only a counter has changed, and it has counted one. -/
def Counts (s t : State) (o : Nat) : Prop := onlyRegs s t ∧ t.rd o = satAdd (s.rd o) 1 ∧ ∀ i, i ≠ o → t.rd i = s.rd i

/-- A frame at Ethernet port k passes the checks of R326. -/
structure Passes (s : State) (r : RxFrame) : Prop where
  port : r.port < 4
  up   : s.linkUp r.port = true
  good : r.frame.fcsOk = true ∧ 64 ≤ r.frame.len ∧ r.frame.len ≤ (if r.frame.tci.isSome then 1522 else 1518)
  kind : r.frame.etype ≠ 0x8808
  dst  : s.dstOk r.port r.frame.dst = true ∧ s.vlanOk r = true
  room : s.rxHeld r.port + r.frame.len ≤ 65536

/-- The bytes of a receive entry written back (R360). -/
def rxEntryBytes (x : RxHost) (buf : Nat) : List Byte :=
  leBytes 4 (x.pcp * 2 ^ 21 + x.port * 2 ^ 19 + min x.bytes.length 2048) ++ leBytes 4 x.stamp.toNat ++ leBytes 8 buf ++
    leBytes 4 x.entry ++ leBytes 4 0 ++ leBytes 8 x.raw.toNat

end Sys2Proof.Claims

/-- R326, R335, R360: a frame that fails a check of its port is counted by the first one it fails and discarded, and so is a MAC Control frame; one that passes is
counted and goes to the host's ring, whose next entry takes it when the device owns it. -/
def Sys2Proof.Claims.EthernetFrames : Prop :=
  (∀ s r, r.port < 4 → r.frame.etype.toNat ≠ s.etype → r.frame.etype ≠ 0x8808 →
    let k := r.port
    let sized := 64 ≤ r.frame.len ∧ r.frame.len ≤ (if r.frame.tci.isSome then 1522 else 1518)
    let wanted := s.dstOk k r.frame.dst = true ∧ s.vlanOk r = true
    (s.linkUp k = false → exec (.ethFrame r) s = .next s) ∧
    (s.linkUp k = true → r.frame.fcsOk = false → Answers (.ethFrame r) s fun t => Counts s t (R.ETH_RXFCS k)) ∧
    (s.linkUp k = true → r.frame.fcsOk = true → ¬ sized → Answers (.ethFrame r) s fun t => Counts s t (R.ETH_RXSIZE k)) ∧
    (s.linkUp k = true → r.frame.fcsOk = true → sized → ¬ wanted → Answers (.ethFrame r) s fun t => Counts s t (R.ETH_RXFILT k)) ∧
    (s.linkUp k = true → r.frame.fcsOk = true → sized → wanted → 65536 < s.rxHeld k + r.frame.len → Answers (.ethFrame r) s fun t =>
      onlyRegs s t ∧ t.rd (R.ETH_RXOVF k) = satAdd (s.rd (R.ETH_RXOVF k)) 1 ∧ (t.rd (R.ETH_FLAGS k)).getLsbD 2 = true ∧
      ∀ o, o ≠ R.ETH_RXOVF k → o ≠ R.ETH_FLAGS k → t.rd o = s.rd o) ∧
    (Passes s r → Answers (.ethFrame r) s fun t => ∃ u, Counts s u (R.ETH_RXFRM r.port) ∧ t = u.hostRx r 0x1FF)) ∧
  (∀ s r, r.port < 4 → r.frame.etype = 0x8808 → s.linkUp r.port = true → r.frame.fcsOk = true → 64 ≤ r.frame.len →
    r.frame.len ≤ (if r.frame.tci.isSome then 1522 else 1518) →
    Answers (.pauseFrame r) s fun t => Counts s t (R.ETH_RXPAUSE r.port)) ∧
  (∀ (s : State) x (entry : List Byte), (w32 (leAt entry 0 4)).getLsbD 31 = false → Counts s (s.rxFill x entry) R.CARR_HRXDROP) ∧
  (∀ (s : State) x (entry : List Byte) h e, (w32 (leAt entry 0 4)).getLsbD 31 = true → hostAddr (leAt entry 8 8) = some h →
    hostAddr s.rxEntryAddr = some e → s.canSend = true →
    ∃ v : State, s.rxFill x entry = v.raiseVec (fld (s.act R.CARR_HRCFG) 0 6) ∧
      v = { s with
        out := s.out ++ [.hostWrite h (x.bytes.take 2048), .hostWrite e (rxEntryBytes x (leAt entry 8 8))]
        net := { s.net with rxHead := (s.net.rxHead + 1) % 4096 } })

/-- R327, R332, R358, R362: the link of an enabled port comes up with a flag, an event and a HELLO to each of its peers, and goes down with its queues counted as
dropped; a group is refused for the conflicts R362 names, and takes effect when no frame is under way. -/
def Sys2Proof.Claims.EthernetLinks : Prop :=
  (∀ s k, k < 4 → s.linkUp k = false → (s.act (R.ETH_CFG k)).getLsbD 31 = true → s.running = true → s.netOn k = true →
    Answers (.ethLink k true) s fun t =>
      t.linkUp k = true ∧ (t.rd (R.ETH_FLAGS k)).getLsbD 0 = true ∧
      (∀ i, i < 32 → (s.peer i).getLsbD 63 = true → (s.peer i).toNat / 2 ^ 48 % 4 = k → ∃ q ∈ t.net.requests, q.peer = i ∧ q.kind = .hello) ∧
      (∀ q ∈ s.net.requests, q ∈ t.net.requests)) ∧
  (∀ s k, k < 4 → s.linkUp k = true → Answers (.ethLink k false) s fun t =>
    t.linkUp k = false ∧ t.port k = Port.reset ∧ (∀ j, j ≠ k → t.port j = s.port j) ∧
    t.rd (R.ETH_TXDROP k) = satAdd (s.rd (R.ETH_TXDROP k))
      (((s.port k).queues.map fun (c : Nat × List TxFrame) => c.2.length).sum + (s.port k).answers.length)) ∧
  (∀ s k up, s.linkUp k = up → exec (.ethLink k up) s = .next s) ∧
  (∀ s k, k < 4 → s.hostWrites = true → Commits (.ethCommit k) s (R.ETH_STATUS k) (s.ethCode k) onlyRegs) ∧
  (∀ (s : State) k,
    let c := s.rd (R.ETH_CFG k)
    let badVid := fun v : Nat => v = 0 ∨ v = 4095
    let one := c.getLsbD 30 = true ∧ c.getLsbD 29 = true
    let two := (s.rd64 (R.ETH_MAC k)).getLsbD 40 = true
    let three := (∃ i, i < 16 ∧ (s.rd (R.ETH_VID k i)).getLsbD 31 = true ∧ badVid (fld (s.rd (R.ETH_VID k i)) 0 12)) ∨
      (c.getLsbD 27 = true ∧ badVid (fld c 0 12))
    let four := ∃ i, i < 16 ∧ (s.rd64 (R.ETH_MC k i)).getLsbD 63 = true ∧ (s.rd64 (R.ETH_MC k i)).getLsbD 40 = false
    (one → s.ethCode k = 1) ∧ (¬ one → two → s.ethCode k = 2) ∧ (¬ one → ¬ two → three → s.ethCode k = 3) ∧
    (¬ one → ¬ two → ¬ three → four → s.ethCode k = 4) ∧ (¬ one → ¬ two → ¬ three → ¬ four → s.ethCode k = 0)) ∧
  (∀ s k, k < 4 → (s.rd (R.ETH_STATUS k)).getLsbD 31 = true → (s.port k).sending = none → Answers (.ethGroupApply k) s fun t =>
    (∀ o ∈ ethGroup k, t.act o = s.rd o) ∧ (t.rd (R.ETH_STATUS k)).getLsbD 31 = false ∧
    (fld (s.rd (R.ETH_CFG k)) 29 3 ≠ fld (s.act (R.ETH_CFG k)) 29 3 → t.linkUp k = false ∧ t.port k = Port.reset) ∧
    (fld (s.rd (R.ETH_CFG k)) 29 3 = fld (s.act (R.ETH_CFG k)) 29 3 → t.linkUp k = s.linkUp k ∧ onlyRegs s t)) ∧
  (∀ s k, (s.port k).sending ≠ none → exec (.ethGroupApply k) s = .next s)

/-- R328, R331 to R334, R360: an idle port sends the head that launch selection names, with its queue's priority, or drops and counts one that is too late; that
is the highest queue's, but for a guarded head whose launch time falls in this cycle. A frame sent is counted, a one-step Sync carries its
transmit stamp, and a host frame's entry is written back. -/
def Sys2Proof.Claims.LaunchesAndRings : Prop :=
  (∀ s k q f rest, k < 4 → s.linkUp k = true → (s.port k).sending = none →
    let now := s.stampOf (s.sfdRaw k)
    let late := lateness now f > ((fld (s.act (R.ETH_QCFG k q)) 0 16 * 10 : Nat) : Int)
    (s.candidates k now).head? = some q → (s.port k).queue q = f :: rest →
    Answers (.launchSelect k) s fun t =>
      (∀ j, j ≠ k → t.port j = s.port j) ∧ (q ≠ 1 → (t.port k).queue q = rest) ∧
      (∀ j, j ≠ q → j ≠ 1 → (t.port k).queue j = (s.port k).queue j) ∧
      (t.port k).queue 1 ++ (t.port k).answers = (if q = 1 then rest else (s.port k).queue 1) ++ (s.port k).answers ∧
      (late → (t.port k).sending = none ∧ t.rd (R.ETH_TXLATE k) = satAdd (s.rd (R.ETH_TXLATE k)) 1 ∧ (t.rd (R.ETH_FLAGS k)).getLsbD 1 = true) ∧
      (¬ late → let g := { f with bytes := if f.tagged then setPcp f.bytes (fld (s.act (R.ETH_QCFG k q)) 28 3) else f.bytes }
        (t.port k).sending = some (g, q) ∧ t.out = s.out ++ (if g.onestep && g.isSync then [] else [.frame k g.bytes]) ∧
        t = { s with net := t.net, out := t.out })) ∧
  (∀ (s : State) k now q, (s.candidates k now).head? = some q → q < 8 ∧ ∃ f, (s.port k).head q = some f ∧ 0 ≤ lateness now f ∧
    ∀ g h l, g < 8 → g ≠ q → s.guarded k g = true → (s.port k).head g = some h → h.launch = some l → 0 < (l - now).toInt →
      ((s.wire k (f.bytes.length + 24) : Nat) : Int) ≤ (l - now).toInt * 100) ∧
  (∀ (s : State) k now q g h, (s.candidates k now).head? = some q → q < g → g < 8 → (s.port k).head g = some h → 0 ≤ lateness now h →
    s.blocked k g now h = false → s.guarded k q = true ∧ ∃ f, (s.port k).head q = some f ∧ f.launch.isSome = true ∧
      lateness (s.stampOf (s.sfdRaw k - 5)) f < 0) ∧
  (∀ s k, (s.port k).sending ≠ none ∨ s.candidates k (s.stampOf (s.sfdRaw k)) = [] → exec (.launchSelect k) s = .next s) ∧
  (∀ s k f q raw, k < 4 → (s.port k).sending = some (f, q) → f.entry = none → Answers (.frameTransmitted k raw) s fun t =>
    (t.port k).sending = none ∧ (t.port k).queues = (s.port k).queues ∧ (∀ j, j ≠ k → t.port j = s.port j) ∧
    t.rd (R.ETH_TXFRM k) = satAdd (s.rd (R.ETH_TXFRM k)) 1 ∧ t = { s with regs := t.regs, cyc := s.cyc.flags t.cyc, net := t.net }) ∧
  (∀ s k f q raw a w h, k < 4 → (s.port k).sending = some (f, q) → f.entry = some (a, w) → s.canSend = true → hostAddr a = some h →
    hostAddr (a + 16) = some (h + 16) → Answers (.frameTransmitted k raw) s fun t =>
      (t.port k).sending = none ∧ t.rd (R.ETH_TXFRM k) = satAdd (s.rd (R.ETH_TXFRM k)) 1 ∧
      let stamped := raw + BitVec.ofInt 64 (fld (s.act (R.ETH_TSC k)) 0 16 : Int) - (if (s.act (R.ETH_TSC k)).getLsbD 15 then 65536 else 0)
      t.out = s.out ++ (if f.onestep && f.isSync then
          [.frame k (stampSync f.bytes f.typeOff (timeAt (s.act64 R.TB_RATE) (s.act64 R.TB_OFFSET) stamped).toNat)] else []) ++
        [.hostWrite (h + 16) (leBytes 4 (2 ^ 31 + if f.onestep && !f.isSync then 6 else 0) ++
          leBytes 4 (if w.getLsbD 30 then s.stampOf stamped else 0).toNat ++ leBytes 8 stamped.toNat),
         .hostWrite h (leBytes 4 (w.toNat % 2 ^ 31))]) ∧
  (∀ s h, s.running = true → s.txBusy = false → hostAddr s.txEntryAddr = some h → s.canSend = true → s.escalated 5 0 0 = false →
    s.host.outbound.length < 256 → Answers .hostTxRingPoll s fun t =>
      ∃ tag, tag < 256 ∧ (∀ o ∈ s.host.outbound, o.tag ≠ tag) ∧ t.out = s.out ++ [.hostRead tag h 32] ∧
        t.host.outbound = s.host.outbound ++ [⟨tag, .txEntry, h, 32, s.tb.raw⟩]) ∧
  (∀ s, s.txBusy = true → exec .hostTxRingPoll s = .next s) ∧
  (∀ (s : State) entry, (w32 (leAt entry 0 4)).getLsbD 31 = false → s.txEntry entry = s) ∧
  (∀ (s : State) k q f, (s.linkUp k = false → (s.offer k q f).code = 4 ∧ Counts s (s.offer k q f).st (R.ETH_TXDROP k)) ∧
    (s.linkUp k = true → 16 ≤ ((s.port k).queue q).length → (s.offer k q f).code = 2 ∧ Counts s (s.offer k q f).st (R.ETH_TXDROP k)) ∧
    (s.linkUp k = true → ((s.port k).queue q).length < 16 → (s.offer k q f).code = 0 ∧
      ((s.offer k q f).st.port k).queue q = (s.port k).queue q ++ [f] ∧ (s.offer k q f).st.regs = s.regs))

/-! ## Carr -/

namespace Sys2Proof.Claims

open Sys2Proof Sys2Proof.Machine

/-- The stamp of a frame, and its Carr header. -/
def stampAt (s : State) (r : RxFrame) : Word := s.stampOf (s.rxRaw r)
def header (r : RxFrame) : Carr := Carr.parse r.frame.body

/-- A Carr frame of type `typ` that its port accepts, leaving u. -/
def Arrives (s u : State) (r : RxFrame) (typ : Nat) : Prop :=
  Passes s r ∧ r.frame.etype.toNat = s.etype ∧ (header r).typ = typ ∧ u = s.bump (R.ETH_RXFRM r.port)

/-- It passes checks 1 to 3 and its first match is entry i (R340, R342). -/
def Matches (u : State) (r : RxFrame) (i : Nat) : Prop := carrGate false (header r) r.frame.body.length = none ∧ u.match_ r (header r) = some i

/-- The checks of its body that R342 makes: the length its type asks for, the size of an RD or WR, and the CRC-32C. -/
def sizeOk (h : Carr) : Prop := h.typ = 0x03 ∨ h.typ = 0x04 → 0 < beAt h.payload 8 4 ∧ beAt h.payload 8 4 ≤ 1024
def crcOk (h : Carr) : Prop := crc32c h.payload = h.crc

/-- The commands that take the Carr types of an Ethernet port, and the types. -/
def carrCommands (r : RxFrame) : List (Instr × Nat) :=
  [(.meas r, 0x01), (.rd r, 0x03), (.wr r, 0x04), (.phase r, 0x07), (.hello r, 0x08), (.attest r, 0x09)]

end Sys2Proof.Claims

/-- R340, R342, R350, R352 to R354: a frame is refused by the first check it fails, in the order of R342: length (BAD_LEN), version, type; then it goes where the first
entry that matches says, and one without a match is UNMATCHED. A violation is counted, flagged and kept with the frame's fields; the NAKs of R350 answer
all but MEAS, answers and mirror frames, at most one to an address in 10 µs.
Where a clause rests on a choice of the model and not on a rule, the choice is that of log entries 36 and 46. -/
def Obligations.CarrChecks : Prop :=
  (∀ s u r c typ, (c, typ) ∈ carrCommands r → Arrives s u r typ →
    let h := header r
    (∀ k, carrGate false h r.frame.body.length = some k → exec c s = .next (u.refuse r h k 0x1FF 0)) ∧
    (carrGate false h r.frame.body.length = none → u.match_ r h = none → Answers c s fun t =>
      let v := u.viol 12 r.port 0x1FF h (stampAt u r)
      t = if (u.act R.CARR_CFG).getLsbD 0 then v.hostRx r 0x1FF else v) ∧
    (∀ i, Matches u r i → (u.pentry i).act = 0 ∨ (u.pentry i).act = 3 ∨
      ((u.pentry i).act = 2 ∧ typ ∈ ([0x03, 0x04, 0x08, 0x09] : List Nat)) →
      (typeLenOk h = false → exec c s = .next (u.refuse r h 0 i 0)) ∧
      (typeLenOk h = true → ¬ sizeOk h → exec c s = .next (u.refuse r h 9 i 0)) ∧
      (typeLenOk h = true → sizeOk h → ¬ crcOk h → exec c s = .next (u.refuse r h 3 i 0))) ∧
    (∀ i, Matches u r i → typeLenOk h = true → sizeOk h → crcOk h →
      ((u.pentry i).act = 0 → exec c s = .next u) ∧ ((u.pentry i).act = 3 → exec c s = .next (u.hostRx r i)))) ∧
  (∀ s u r i, Arrives s u r 0x07 → Matches u r i → (u.pentry i).act ≠ 0 → (u.pentry i).act ≠ 3 → exec (.phase r) s = .next u) ∧
  (∀ s u r typ, Arrives s u r typ → typ ∉ ([0x01, 0x03, 0x04, 0x05, 0x06, 0x07, 0x08, 0x09] : List Nat) → (header r).len ≤ 1472 →
    28 + (header r).len ≤ r.frame.body.length → (header r).ver = 2 ∨ (header r).ver = 3 →
    exec (.unkTypeFrame r) s = .next (u.refuse r (header r) 1 0x1FF 0)) ∧
  (∀ mirror h blen, let bad := blen < 28 ∨ 1472 < h.len ∨ blen < 28 + h.len
    let old := h.typ ≠ 0x08 ∧ h.ver ≠ 2 ∧ h.ver ≠ 3
    (bad → carrGate mirror h blen = some 0) ∧ (¬ bad → old → carrGate mirror h blen = some 2) ∧
    (¬ bad → ¬ old → carrGate mirror h blen = if carrKnown mirror h.typ then none else some 1)) ∧
  (∀ (s : State) r h i, s.match_ r h = some i → i < 128 ∧ (s.pentry i).hit r.port (s.vidOf r) r.frame.src h = true ∧
    ∀ j, j < i → (s.pentry j).hit r.port (s.vidOf r) r.frame.src h = false) ∧
  (∀ (s : State) k src entry h stamp, k < 16 → src < 4 → entry < 512 → h.ctx < 4096 → h.typ < 256 → h.ver < 256 → h.len < 65536 →
    let t := s.viol k src entry h stamp
    let i := (s.rd R.CARR_VLOGCNT).toNat % 16
    t.rd (R.CARR_VCNT k) = satAdd (s.rd (R.CARR_VCNT k)) 1 ∧ (t.rd R.CARR_VFLAGS).getLsbD k = true ∧
    t.rd R.CARR_VLOGCNT = s.rd R.CARR_VLOGCNT + 1 ∧
    t.field (R.CARR_VLOG i 0) 28 4 = k ∧ t.field (R.CARR_VLOG i 0) 25 3 = src ∧ t.field (R.CARR_VLOG i 0) 16 9 = entry ∧
    t.field (R.CARR_VLOG i 0) 0 12 = h.ctx ∧ t.rd (R.CARR_VLOG i 1) = h.seq ∧ t.field (R.CARR_VLOG i 2) 24 8 = h.typ ∧
    t.field (R.CARR_VLOG i 2) 16 8 = h.ver ∧ t.field (R.CARR_VLOG i 2) 0 16 = h.len ∧ t.rd (R.CARR_VLOG i 3) = stamp ∧
    ((s.rd R.CARR_VFLAGS).getLsbD k = true → onlyRegs s t) ∧
    s.Regs (fun o => o = R.CARR_VCNT k ∨ o = R.CARR_VFLAGS ∨ o = R.CARR_VLOGCNT ∨ (R.CARR_VLOG i 0 ≤ o ∧ o ≤ R.CARR_VLOG i 3)) t) ∧
  (∀ (s : State) r h k entry off, h.typ ∈ ([0x01, 0x05, 0x06] : List Nat) ∨ (h.typ = 0x0A ∧ 4 ≤ r.port) →
    s.refuse r h k entry off = s.viol k r.port entry h (stampAt s r)) ∧
  (∀ (s : State) w code detail t0, FMap.find s.net.nakAt w.mac.toNat = some t0 → (s.tb.raw - t0).toNat < 10000 →
    Counts s (s.nak w code detail) R.CARR_NAKDROP)

namespace Sys2Proof.Claims

open Sys2Proof Sys2Proof.Machine

/-- Checks 4 to 7 of a MEAS passed: it goes to PLACE entry i. -/
structure Placeable (u : State) (r : RxFrame) (i : Nat) : Prop where
  hit  : Matches u r i
  act  : (u.pentry i).act = 1
  len  : (header r).len ≤ (u.pentry i).maxlen
  crc  : crc32c (header r).payload = (header r).crc

/-- The job and the stream of a MEAS under an entry. -/
def jobUnder (u : State) (e : PEntry) (ctx : Nat) : Nat := if e.job then u.ajob ctx else 0
def streamUnder (e : PEntry) (ctx : Nat) : Nat := 2 * ctx + if e.job then 1 else 0

/-- Its SEQ is ahead of its stream's last, or the stream has none, or the entry takes many sources and keeps none (R343). -/
def Ahead (u : State) (e : PEntry) (h : Carr) : Prop := e.smany = true ∨ ∀ l, FMap.find u.net.measSeq (streamUnder e h.ctx) = some l → 0 < (h.seq - l).toInt

/-- The frames that are missing before it (R343). -/
def gapOf (u : State) (e : PEntry) (h : Carr) : Nat :=
  if e.smany then 0
  else match FMap.find u.net.measSeq (streamUnder e h.ctx) with
    | some l => ((h.seq - l).toInt - 1).toNat
    | none => 0

/-- Its time stamp lies within the entry's limits (R344). -/
def OnTime (e : PEntry) (rx ts : Word) : Prop :=
  (e.maxage ≠ 0 → (rx - ts).toInt ≤ e.maxage * 1000) ∧ (e.maxlead ≠ 0 → -(rx - ts).toInt ≤ e.maxlead * 1000)

end Sys2Proof.Claims

/-- R250, R342 to R348: a MEAS that is too long, fails its CRC, repeats a SEQ, is too old or too early, or meets a context that takes no input is a violation
of that case and is not placed, but where the entry substitutes; the frames missing before it are counted; one in order takes its SEQ, and its record
and payload go to its fill half. A placement that completes is marked, counted and signalled, unless its write is held. -/
def Sys2Proof.Claims.Measurements : Prop :=
  (∀ s u r i, Arrives s u r 0x01 → Matches u r i → (u.pentry i).act = 1 →
    let h := header r
    let e := u.pentry i
    (e.maxlen < h.len → exec (.meas r) s = .next (u.refuse r h 0 i 0)) ∧
    (h.len ≤ e.maxlen → crc32c h.payload ≠ h.crc → exec (.meas r) s =
      .next ((u.viol 3 r.port i h (stampAt u r)).substitute e i h.ctx (jobUnder u e h.ctx) (stampAt u r)))) ∧
  (∀ s u r i, Arrives s u r 0x01 → Placeable u r i →
    let h := header r
    let e := u.pentry i
    let job := jobUnder u e h.ctx
    let rx := stampAt u r
    let n := gapOf u e h
    let v := u.gapCase n r.port i h rx
    let late := fun k => exec (.meas r) s = .next ((v.viol k r.port i h rx).substitute e i h.ctx job rx)
    (¬ Ahead u e h → exec (.meas r) s = .next (u.viol 5 r.port i h rx)) ∧
    (Ahead u e h → e.maxage ≠ 0 → e.maxage * 1000 < (rx - h.ts).toInt → late 6) ∧
    (Ahead u e h → (e.maxage ≠ 0 → (rx - h.ts).toInt ≤ e.maxage * 1000) → e.maxlead ≠ 0 → e.maxlead * 1000 < -(rx - h.ts).toInt → late 7) ∧
    (Ahead u e h → OnTime e rx h.ts → u.takesInput h.ctx job = false → exec (.meas r) s = .next (v.viol 13 r.port i h rx)) ∧
    (Ahead u e h → OnTime e rx h.ts → u.takesInput h.ctx job = true →
      Answers (.meas r) s fun t =>
        let w : State := if e.smany then v
          else { v with net := { v.net with measSeq := FMap.upd v.net.measSeq (streamUnder e h.ctx) (some h.seq) } }
        let tag : InTag := ⟨h.seq, h.len, h.crc, false, false, decide (n ≠ 0), h.step, h.ts⟩
        t = w.placeAdd (w.placing e i h.ctx job tag 0 rx r.port h.ver (min n 65535) h.payload false false))) ∧
  (∀ (s : State) n src i h rx, n < 2 ^ 32 → (n = 0 → s.gapCase n src i h rx = s) ∧
    (n ≠ 0 → (s.gapCase n src i h rx).rd (R.CARR_VCNT 4) = satAdd (s.rd (R.CARR_VCNT 4)) n)) ∧
  (∀ (s : State) e i ctx job rx,
    let can := e.subst = true ∧ s.takesInput ctx job = true ∧ (s.tag ctx job (s.fillHalf ctx job)).complete = false
    (¬ can → s.substitute e i ctx job rx = s) ∧
    (can → s.substitute e i ctx job rx = s.placeAdd (s.placing e i ctx job InTag.none 0 rx 5 0 0 [] false true))) ∧
  (∀ (s : State) p, s.net.placing = [] → p.begun = false → p.subst = false → (s.rd R.ECC_INJCTL).getLsbD 31 = false →
    let half := s.fillHalf p.ctx p.job
    let a := p.area + half * p.hlen
    let len := 32 + p.payload.length
    a % 128 = 0 → (∀ b, a ≤ b → b < a + len → s.placeable p.ctx b = true) → s.backed a len = true → (∀ w ∈ wordsOf a len, sound s w) →
    let t := s.placeAdd p
    t.net.placing = [{ p with half := half, begun := true }] ∧ t.tag p.ctx p.job half = InTag.none ∧
    (∀ k, k < p.payload.length → seen t (a + 32 + k) = [p.payload.getD k 0]) ∧
    (∀ k, k < 32 → seen t (a + k) = [(Placing.record { p with half := half, begun := true } false).getD k 0]) ∧
    (∀ b, b < a ∨ a + len ≤ b → seen t b = seen s b)) ∧
  (∀ (p : Placing) k, k ≠ 7 → (p.record true).getD k 0 = (p.record false).getD k 0) ∧
  (∀ s p, s.net.placing = [p] → p.begun = true → (s.rd R.ECC_INJCTL).getLsbD 31 = false → p.addr % 128 = 0 →
    s.heldOf ordPlace (s.claimsOf true p.addr 1) = [] → (∀ b, p.addr ≤ b → b < p.addr + 8 → s.placeable p.ctx b = true) → s.backed p.addr 8 = true → (∀ w ∈ wordsOf p.addr 8, sound s w) →
    Answers (.measPlacementDone p.ctx p.job) s fun t =>
      t.net.placing = [] ∧ t.tag p.ctx p.job p.half = { p.tag with complete := true } ∧
      (∀ k, k < 8 → seen t (p.addr + k) = [(p.record true).getD k 0]) ∧
      (p.obj = none → t.rd (if p.subst then R.CARR_SUBST else R.CARR_PLACED) = satAdd (s.rd (if p.subst then R.CARR_SUBST else R.CARR_PLACED)) 1 ∧
        t.syncOps = s.syncOps) ∧
      (∀ o q, p.obj = some o → s.ctxPart p.ctx = some q → s.hasCluster q (o / 1024) = true →
        t.syncOps = s.syncOps ++ [⟨o, s.rawNow + 40, .signal 1⟩])) ∧
  (∀ s p, s.net.placing = [p] → p.begun = true → let held := s.heldOf ordPlace (s.claimsOf true p.addr 1)
    held ≠ [] → exec (.measPlacementDone p.ctx p.job) s = .next (s.softHolds held)) ∧
  (∀ s c j, (∀ p ∈ s.net.placing, p.begun = false ∨ p.ctx ≠ c ∨ p.job ≠ j) → exec (.measPlacementDone c j) s = .next s)

namespace Sys2Proof.Claims

open Sys2Proof Sys2Proof.Machine

/-- A transaction of a stream under TXN entry i passes checks 4 to 8: its difference is none or positive, and it opens no gap. -/
structure InTurn (u : State) (r : RxFrame) (i : Nat) : Prop where
  hit : Matches u r i
  act : (u.pentry i).act = 2
  len : typeLenOk (header r) = true
  size : sizeOk (header r)
  crc : crcOk (header r)
  seq : (u.pentry i).smany = true ∨ ∀ l, FMap.find u.net.txnSeq i = some l → (header r).seq = l + 1

/-- The stream of entry i has taken the frame's SEQ. -/
def Took (u v : State) (r : RxFrame) (i : Nat) : Prop :=
  v = if (u.pentry i).smany then u else { u with net := { u.net with txnSeq := FMap.upd u.net.txnSeq i (some (header r).seq) } }

end Sys2Proof.Claims

/-- R9, R342, R343, R349, R351: an RD within its entry's window is answered with the bytes of the memory or the registers it names, asked of the partner for
its window, or NAK UE; a WR within its window writes its bytes, registers when it completes, and is answered with an ACK. Outside the window, or where
the entry does not allow it, it is refused as UNMAPPED; the last WR repeated gets the answer kept for its SEQ, if it has one.
Where a clause rests on a choice of the model and not on a rule, the choice is that of log entry 39. -/
def Obligations.Transactions : Prop :=
  (∀ s u r i, Arrives s u r 0x03 → InTurn u r i →
    let h := header r
    let e := u.pentry i
    let a := beAt h.payload 0 8
    let len := beAt h.payload 8 4
    let allowed := e.rdok = true ∧ e.base ≤ a ∧ a + len ≤ e.base + e.size
    let far := partnerBase ≤ a ∧ a + len ≤ 2 * partnerBase
    let regs := 0x70000000 ≤ a ∧ a + len ≤ 0x80000000
    (¬ allowed → exec (.rd r) s = .next (u.refuse r h 10 i 0)) ∧
    (allowed → far → Answers (.rd r) s fun t => ∃ x, Took u x r i ∧
      t = if u.escalated 4 partner 0 = true ∨ u.laneFor false = none then x.nak (askerOf r h) 0x08 0
        else (x.request partner (.relay (askerOf r h)) 0x03 (beBytes 8 (a - partnerBase) ++ beBytes 4 len ++ [0, 0, 0, 0])).1) ∧
    (allowed → regs → Answers (.rd r) s fun t => ∃ x : State,
      x = (if e.smany then (u.regBytes a len).1
        else { (u.regBytes a len).1 with net := { (u.regBytes a len).1.net with
          txnSeq := FMap.upd (u.regBytes a len).1.net.txnSeq i (some h.seq) } }) ∧
      t = (x.bump R.CARR_TXNCNT).sendAnswer (askerOf r h) 0x05 0 (u.regBytes a len).2 false) ∧
    (allowed → ¬ far → ¬ regs → u.openRange a len = false → exec (.rd r) s = .next (u.refuse r h 10 i 0)) ∧
    (allowed → ¬ far → ¬ regs → u.openRange a len = true → (∀ w ∈ wordsOf a len, sound u w) →
      Answers (.rd r) s fun t => ∃ v x, u.OnlyRead v ∧ Took v x r i ∧
        t = (x.bump R.CARR_TXNCNT).sendAnswer (askerOf r h) 0x05 0 (u.peek a len) false)) ∧
  (∀ s u r i, Arrives s u r 0x04 → InTurn u r i →
    let h := header r
    let e := u.pentry i
    let a := beAt h.payload 0 8
    let len := beAt h.payload 8 4
    let regs := 0x70000000 ≤ a ∧ a + len ≤ 0x80000000
    let allowed := e.wrok = true ∧ e.base ≤ a ∧ a + len ≤ e.base + e.size ∧ (regs ∨ u.openRange a len = true)
    (¬ allowed → exec (.wr r) s = .next (u.refuse r h 10 i 0)) ∧
    (∀ p, allowed → u.lockedBy a len = some p → exec (.wr r) s = .next ((u.lockWrite p 1).refuse r h 10 i 0)) ∧
    (allowed → u.lockedBy a len = none → u.net.txns = [] → (¬ regs → ∀ w ∈ wordsOf a len, sound u w) → (u.rd R.ECC_INJCTL).getLsbD 31 = false →
      Answers (.wr r) s fun t =>
        (∃ x, t.net.txns = [x] ∧ x.begun = true ∧ x.bad = none ∧ x.id = u.net.nextTxn ∧ x.who = askerOf r h ∧ x.entry = i ∧ x.addr = a ∧
          x.data = h.payload.drop 16) ∧
        (¬ regs → ∀ k, k < len → seen t (a + k) = [h.payload.getD (16 + k) 0]) ∧
        (∀ b, regs ∨ b < a ∨ a + len ≤ b → seen t b = seen u b) ∧
        (e.smany = false → FMap.find t.net.txnSeq i = some h.seq))) ∧
  (∀ s u r i l, Arrives s u r 0x04 → Matches u r i → (u.pentry i).act = 2 → (u.pentry i).smany = false → typeLenOk (header r) = true →
    sizeOk (header r) → crcOk (header r) → FMap.find u.net.txnSeq i = some l → (header r).seq = l →
    let v := u.viol 5 r.port i (header r) (stampAt u r)
    exec (.wr r) s = .next (match FMap.find v.net.txnAns i with
      | some (seq, nak, f) =>
        if seq ≠ l then v
        else if nak then v.nakOnce (askerOf r (header r)) fun s => s.answer r.port f true
        else v.answer r.port f false
      | none => v)) ∧
  (∀ s x, s.net.txns = [x] → x.begun = true → x.bad = none → Answers (.wrComplete x.id) s fun t =>
    let a : State := { s with net := { s.net with txns := [] } }
    let b := if inRegs x.addr x.data.length then a.regStore x.addr x.data else a
    t.net.txns = [] ∧ ∃ v : State, v = (b.bump R.CARR_TXNCNT).sendAnswer x.who 0x05 0 [] false ∧
      t.regs = v.regs ∧ t.out = v.out ∧ t.net.ports = v.net.ports ∧ t.mem = b.mem ∧
      (inRegs x.addr x.data.length = false → (s.pentry x.entry).smany = false →
        ∃ f, FMap.find t.net.txnAns x.entry = some (x.who.seq, false, f))) ∧
  (∀ s id, (∀ x ∈ s.net.txns, x.id ≠ id ∨ x.begun = false) → exec (.wrComplete id) s = .next s)

namespace Sys2Proof.Claims

open Sys2Proof Sys2Proof.Machine

/-- A request has left the list of those that wait. -/
def Answered (s t : State) (q : Request) : Prop := ∀ x, x ∈ t.net.requests ↔ x ∈ s.net.requests ∧ ¬ (x.peer = q.peer ∧ x.seq = q.seq)

end Sys2Proof.Claims

/-- R338, R342, R351, R358, R426: an ACK or a NAK ends the request of its peer and SEQ, or is UNSOL; a request without an answer is sent again twice and then fails, which is
logged and counted against its peer. HELLO agrees on a version, and is sent until it is answered; ATTEST goes to the security controller, or is BUSY.
Where a clause rests on a choice of the model and not on a rule, the choice is that of log entries 29, 42 and 92. -/
def Obligations.AnswersAndPeers : Prop :=
  (∀ s u r, Arrives s u r 0x05 → carrGate false (header r) r.frame.body.length = none →
    (u.answered r (header r) = none → exec (.ack r) s = .next (u.viol 8 r.port 0x1FF (header r) (stampAt u r))) ∧
    (∀ q, u.answered r (header r) = some q → q.kind = .hello → Answers (.ack r) s fun t => Answered u t q ∧ (t.escOf (escKey 4 q.peer 0)).run = 0 ∧
      t = { u with net := { u.net with requests := t.net.requests }, esc := t.esc }) ∧
    (∀ q k, u.answered r (header r) = some q → q.kind = .read k → exec (.ack r) s =
      .next ((({ u with net := { u.net with requests := u.net.requests.filter fun x => !(x.peer == q.peer && x.seq == q.seq) } }).escOk 4 q.peer 0).dmaData
        k q.seq.toNat (header r).payload))) ∧
  (∀ s u r, Arrives s u r 0x06 → carrGate false (header r) r.frame.body.length = none →
    (u.answered r (header r) = none → exec (.nak r) s = .next (u.viol 8 r.port 0x1FF (header r) (stampAt u r))) ∧
    (∀ q, u.answered r (header r) = some q → q.kind = .hello → Answers (.nak r) s fun t => Answered u t q ∧
      (t.escOf (escKey 4 q.peer 0)).run = min 3 ((u.escOf (escKey 4 q.peer 0)).run + 1) ∧ t.mem = u.mem ∧ t.dma = u.dma)) ∧
  (∀ s q, s.findReq q.peer q.seq = some q → s.txto ≤ (s.tb.raw - q.raw).toNat → q.tries < 3 → Answers (.carrRequestTimeout q.peer q.seq) s fun t =>
    ∃ v : State, t = v.sendTo q.peer q.frame ∧ v = { s with net := { s.net with requests := v.net.requests } } ∧
      v.net.requests = s.net.requests.map fun x =>
        if x.peer = q.peer ∧ x.seq = q.seq then { x with tries := x.tries + 1, raw := s.tb.raw } else x) ∧
  (∀ s q, s.findReq q.peer q.seq = some q → s.txto ≤ (s.tb.raw - q.raw).toNat → 3 ≤ q.tries → q.kind = .hello →
    Answers (.carrRequestTimeout q.peer q.seq) s fun t => Answered s t q ∧
      (t.escOf (escKey 4 q.peer 0)).run = min 3 ((s.escOf (escKey 4 q.peer 0)).run + 1) ∧ t.mem = s.mem ∧ t.dma = s.dma) ∧
  (∀ s q, s.findReq q.peer q.seq = some q → (s.tb.raw - q.raw).toNat < s.txto → exec (.carrRequestTimeout q.peer q.seq) s = .next s) ∧
  (∀ s u r i, Arrives s u r 0x08 → InTurn u r i → ∃ v, Took u v r i ∧ exec (.hello r) s = .next (v.helloIn r (header r))) ∧
  (∀ (s : State) r p, (header r).flags.testBit 15 = false → s.peerOf r.port r.frame.src = some p → p < 32 →
    let vmin := beAt (header r).payload 0 1
    let vmax := beAt (header r).payload 1 1
    ∃ v : State, v.rd (R.CARR_PEERST p) = (if max 2 vmin ≤ min 3 vmax then BitVec.ofNat 32 (2 ^ 31 + min 3 vmax * 2 ^ 8 + vmax) else BitVec.ofNat 32 vmax) ∧
      v.net = s.net ∧ s.helloIn r (header r) = if max 2 vmin ≤ min 3 vmax
        then v.sendAnswer (askerOf r (header r)) 0x08 0 ([2, 3, 0, 0] ++ if (header r).ver ≤ 2 then [] else beBytes 4 Config.features.toNat) false
        else v.nak (askerOf r (header r)) 0x03 0x0203) ∧
  (∀ s p, p < 32 → s.net.greeted.testBit p = false → (s.peer p).getLsbD 63 = true → s.linkUp ((s.peer p).toNat / 2 ^ 48 % 4) = true →
    Answers (.helloSendTimer p) s fun t => ∃ q, t.net.requests = s.net.requests ++ [q] ∧ q.peer = p ∧ q.kind = .hello ∧ q.tries = 1 ∧
      q.seq = FMap.get 0 s.net.peerSeq p + 1) ∧
  (∀ s p, s.net.greeted.testBit p = true → exec (.helloSendTimer p) s = .next s) ∧
  (∀ s u r i, Arrives s u r 0x09 → InTurn u r i →
    (u.boot.secOp = none → u.escalated 7 0 0 = false → Answers (.attest r) s fun t => ∃ v, Took u v r i ∧
      t = { v with boot := { v.boot with secOp := some (.report (some (askerOf r (header r))) (header r).payload), secRaw := s.tb.raw, secTime := v.time } }) ∧
    (u.boot.secOp ≠ none ∨ u.escalated 7 0 0 = true → exec (.attest r) s = .next (u.refuse r (header r) 14 i 0)))

/-- R341, R343: a commit of the parse group answers with its code and the first entry at fault; an accepted one takes effect for all its words at once, and a stream whose
entry changes starts anew. -/
def Sys2Proof.Claims.ParseGroup : Prop :=
  (∀ s, s.hostWrites = true → s.carrCode.1 ≠ 0 → Answers .carrCommitParse s fun t => onlyRegs s t ∧
    t.field R.CARR_STATUS 0 8 = s.carrCode.1 ∧ t.field R.CARR_STATUS 8 8 = s.carrCode.2 ∧ ∀ o, o ≠ R.CARR_STATUS → t.rd o = s.rd o) ∧
  (∀ s, s.hostWrites = true → s.carrCode.1 = 0 → Answers .carrCommitParse s fun t =>
    t.rd R.CARR_STATUS = 0 ∧ (∀ o ∈ carrGroup ++ parseGroup, t.act o = s.rd o) ∧ (∀ i, i < 128 → t.pentry i = s.pshadow i) ∧
    (∀ i, i < 128 → s.pentry i ≠ s.pshadow i → FMap.find t.net.txnSeq i = none) ∧
    (∀ i, i < 128 → (∀ k, k < 8 → s.rd (R.CARR_PARSE i k) = s.act (R.CARR_PARSE i k)) → FMap.find t.net.txnSeq i = FMap.find s.net.txnSeq i) ∧
    t = { s with regs := t.regs, cyc := s.cyc.flags t.cyc, net := t.net }) ∧
  (∀ (s : State),
    let place := fun i => (s.pshadow i).act = 1
    let one := ∃ i, i < 128 ∧ ((s.pshadow i).actOk = false ∨ s.presOk i = false)
    let two := ∃ i, i < 128 ∧ (s.pshadow i).ctxhi < (s.pshadow i).ctxlo
    let three := ∃ i, i < 128 ∧ place i ∧ ((s.pshadow i).ioff % 128 ≠ 0 ∨ (s.pshadow i).hlen % 128 ≠ 0 ∨
      (s.pshadow i).hlen < 32 + (s.pshadow i).maxlen ∨ 1472 < (s.pshadow i).maxlen)
    let four := ∃ i, i < 128 ∧ place i ∧ s.pobjOk (s.pshadow i) = false
    let et := s.field R.CARR_CFG 16 16
    let five := et < 0x600 ∨ et ∈ ([0x0800, 0x0806, 0x86DD, 0x8808, 0x88F7, 0x8100, 0x88A8] : List Nat)
    (one → s.carrCode.1 = 1) ∧ (¬ one → two → s.carrCode.1 = 2) ∧ (¬ one → ¬ two → three → s.carrCode.1 = 3) ∧
    (¬ one → ¬ two → ¬ three → four → s.carrCode.1 = 4) ∧ (¬ one → ¬ two → ¬ three → ¬ four → five → s.carrCode.1 = 5))

/-! ## The pair -/

namespace Sys2Proof.Claims

open Sys2Proof Sys2Proof.Machine

/-- A Carr frame of type `typ` arrives whole on a lane of the mirror link, with no partial item before it (R364, R365, R383). -/
structure OnLane (s : State) (r : RxFrame) (typ : Nat) : Prop where
  lane  : 4 ≤ r.port ∧ r.port < 6 ∧ s.laneUp (r.port - 4) = true
  good  : r.frame.fcsOk = true ∧ r.frame.len ≤ 1518 ∧ r.frame.etype.toNat = s.etype
  whole : FMap.find s.pair.partials (r.port - 4) = none
  kind  : (header r).typ = typ
  gate  : carrGate true (header r) r.frame.body.length = none

/-- A MIRROR frame of subtype `sub` with items of `size` bytes, its length and CRC in order (R370). -/
structure Mirrors (s : State) (r : RxFrame) (sub size : Nat) : Prop where
  lane  : OnLane s r 0x0A
  sub   : beAt (header r).payload 0 1 = sub
  len   : (header r).len = 4 + beAt (header r).payload 1 1 * size
  crc   : crc32c (header r).payload = (header r).crc

/-- The frame's items (R370). -/
def itemAt (r : RxFrame) (size i : Nat) : List Byte := slice (header r).payload (4 + i * size) size

/-- The state after the frame's SEQ is taken, with gaps counted as lost (R365). -/
def SeqTaken (s u : State) (r : RxFrame) (sub : Nat) : Prop :=
  let lane := r.port - 4
  u = { s with regs := u.regs, cyc := s.cyc.flags u.cyc, pair := { s.pair with rxSeq := FMap.upd s.pair.rxSeq (lane * 8 + sub) (some (header r).seq) } } ∧
  (∀ o, o ≠ R.MIR_LOST lane → u.rd o = s.rd o) ∧
  u.rd (R.MIR_LOST lane) = (match FMap.find s.pair.rxSeq (lane * 8 + sub) with
    | some l => if 1 < ((header r).seq - l).toInt then satAdd (s.rd (R.MIR_LOST lane)) (((header r).seq - l).toNat - 1) else s.rd (R.MIR_LOST lane)
    | none => s.rd (R.MIR_LOST lane))

/-- The registers of the mirror block. -/
def mirReg (o : Nat) : Prop := 0xC00000 ≤ o ∧ o < 0xD00000

end Sys2Proof.Claims

/-- R364, R368, R387 to R391: heartbeats end the misses and bring a part that seeks, or is alone, into PAIRED; a secondary that drives beside its partner gives way; of its own role a
part flags a conflict. The third miss in a row loses the partner, and a standby takes the drive unless a rule bars it. TAKE, YIELD and HANDOVER move the drive on request. -/
def Sys2Proof.Claims.HeartbeatsAndDrive : Prop :=
  (∀ s r, Mirrors s r 1 80 → beAt (header r).payload 1 1 = 1 → (header r).payload.length = 84 →
    let w0 := w32 (leAt (itemAt r 80 0) 0 4)
    let drive := w0.getLsbD 30
    Answers (.hb r) s fun t =>
      t.field R.MIR_STAT 24 2 = 0 ∧ (t.rd R.MIR_STAT).getLsbD 22 = false ∧ t.pair.hbOpen = false ∧
      (w0.getLsbD 31 = s.isSecondary → (t.rd R.MIR_FLAGS).getLsbD 6 = true ∧ t.drives = s.drives ∧ t.pstate = s.pstate) ∧
      (w0.getLsbD 31 ≠ s.isSecondary → t.pair.peerDrive = some drive ∧
        (∀ p, p < 8 → t.rd64 (R.MIR_PHASH p) = w64 (leAt (itemAt r 80 0) (16 + 8 * p) 8)) ∧
        t.drives = (s.drives && !(drive && (s.givep || s.isSecondary))) ∧
        t.pstate = (if s.field R.MIR_STAT 8 8 ≠ 0 ∧ (s.pstate = 3 ∨ (s.pstate = 1 ∧ (s.isSecondary = true ∨ s.drives = true ∨ drive = true))) then 2
          else s.pstate)) ∧
      t.isSecondary = s.isSecondary ∧ t.mem = s.mem ∧ t.cores = s.cores) ∧
  (∀ s, s.pair.hbOpen = true → s.pstate ≠ 0 → fld (s.act R.MIR_CFG) 0 16 * 1000 ≤ (s.tb.raw - s.pair.hbRaw).toNat → Answers .heartbeatMiss s fun t =>
    let n := s.field R.MIR_STAT 24 2
    let barred := (s.laneUp 0 = false ∧ s.laneUp 1 = false ∧ (s.act R.MIR_CFG).getLsbD 30 = false) ∨ s.skewBars = true
    t.rd R.MIR_HBMISS = satAdd (s.rd R.MIR_HBMISS) 1 ∧ t.field R.MIR_STAT 24 2 = min 3 (n + 1) ∧ t.pair.hbOpen = false ∧
    (n ≠ 2 → t.drives = s.drives ∧ t.pstate = s.pstate) ∧
    (n = 2 → t.pstate = (if s.pstate = 2 then 3 else s.pstate) ∧ (s.drives = true → t.drives = true) ∧
      (s.drives = false → ¬ barred → t.drives = true) ∧ (s.drives = false → barred → t.drives = false ∧ (t.rd R.MIR_STAT).getLsbD 22 = true))) ∧
  (∀ s, s.pair.hbOpen = false ∨ s.pstate = 0 → exec .heartbeatMiss s = .next s) ∧
  (∀ s, s.hostWrites = true → s.drives = false → Answers .mirCtlTake s fun t => t.drives = true ∧ (t.rd R.MIR_STAT).getLsbD 22 = false ∧
    s.Regs (fun o => o = R.MIR_STAT) { t with pair := s.pair } ∧ t.rd R.GLB_LOGSEQ = s.rd R.GLB_LOGSEQ + 1) ∧
  (∀ s, s.hostWrites = true → s.drives = true → s.pstate ≠ 0 → Answers .mirCtlYield s fun t => t.drives = false ∧ t.givep = false ∧
    t.pair.giving = none ∧ s.Regs (fun o => o = R.MIR_STAT) { t with pair := s.pair } ∧ t.rd R.GLB_LOGSEQ = s.rd R.GLB_LOGSEQ + 1) ∧
  (∀ s, s.hostWrites = true → s.drives = true → s.pstate = 2 → s.pair.giving = none →
    exec .mirCtlHandover s = .next { s with pair := { s.pair with giving := some 0, accepted := false } }) ∧
  (∀ s, (s.drives = true → exec .mirCtlTake s = .next s) ∧ (s.drives = false → exec .mirCtlYield s = .next s ∧ exec .mirCtlHandover s = .next s))

/-- R364, R390, R397, R399: a lane of a part in paired operation comes up with a HELLO if it is the first; a lane that goes down is flagged and loses its sequences. A mirror group is
refused for the conditions of its codes, applies at its heartbeat anchor, and starts or ends paired operation; DIVCLR arms the capture again. -/
def Sys2Proof.Claims.LanesAndMirrorGroup : Prop :=
  (∀ s k, k < 2 → s.laneUp k = false → s.pstate ≠ 0 → s.running = true → s.netOn (4 + k) = true → Answers (.mirLane k true) s fun t =>
    t.laneUp k = true ∧ t.laneUp (1 - k) = s.laneUp (1 - k) ∧ (t.rd R.MIR_FLAGS).getLsbD 0 = true ∧
    (s.laneUp (1 - k) = false → ∃ q, t.net.requests = s.net.requests ++ [q] ∧ q.peer = 32 ∧ q.kind = .hello) ∧
    (s.laneUp (1 - k) = true → t.net = s.net)) ∧
  (∀ s k, k < 2 → s.laneUp k = true → Answers (.mirLane k false) s fun t =>
    t.laneUp k = false ∧ t.laneUp (1 - k) = s.laneUp (1 - k) ∧ (t.rd R.MIR_FLAGS).getLsbD 0 = true ∧
    FMap.find t.pair.partials k = none ∧ (∀ sub, sub < 8 → (k * 8 + sub) ∉ t.pair.rxSeq.map (·.1)) ∧ t.mem = s.mem) ∧
  (∀ s k, s.pstate = 0 → s.laneUp k = false → exec (.mirLane k true) s = .next s) ∧
  (∀ s, s.hostWrites = true → Commits .mirCommit s R.MIR_STATUS s.mirCode onlyRegs) ∧
  (∀ (s : State),
    let cfg := s.rd R.MIR_CFG
    let p := hbPart cfg
    let g := hbGrp cfg
    let one := g = 3 ∨ s.partOn p = false ∨ s.hasAnchor none p (some g) = false
    let two := fld cfg 0 16 = 0 ∨ s.flen p g * 5 ≤ fld cfg 0 16 * 1000
    let three := ∃ k, k < 64 ∧ (s.rd (R.MIR_POL k + 4) ≠ 0 ∨ s.field (R.MIR_POL k) 16 14 ≠ 0 ∨ s.field (R.MIR_POL k) 30 2 = 3 ∨
      s.field (R.MIR_POL k) 0 16 % 128 ≠ 0)
    let four := s.field R.MIR_FWDCFG 16 16 = 0 ∨ s.field R.MIR_FWDCFG 0 16 = 0
    (one → s.mirCode = 1) ∧ (¬ one → two → s.mirCode = 2) ∧ (¬ one → ¬ two → three → s.mirCode = 3) ∧
    (¬ one → ¬ two → ¬ three → four → s.mirCode = 4) ∧ (¬ one → ¬ two → ¬ three → ¬ four → s.mirCode = 0)) ∧
  (∀ s, (s.rd R.MIR_STATUS).getLsbD 31 = true →
    let cfg := s.rd R.MIR_CFG
    (cfg.getLsbD 31 = false ∨ ∃ f, FMap.find s.sch.frames (4 * hbPart cfg + hbGrp cfg) = some f ∧ f.trueRaw = s.tb.raw) →
    Answers .mirGroupApply s fun t => (∀ o ∈ mirGroup, t.act o = s.rd o) ∧ (t.rd R.MIR_STATUS).getLsbD 31 = false ∧
      ((s.act R.MIR_CFG).getLsbD 31 = cfg.getLsbD 31 → onlyRegs s t ∧ t.rd R.MIR_STAT = s.rd R.MIR_STAT) ∧
      ((s.act R.MIR_CFG).getLsbD 31 ≠ cfg.getLsbD 31 → t.laneUp 0 = false ∧ t.laneUp 1 = false ∧ t.drives = !cfg.getLsbD 31 ∧
        t.pstate = if cfg.getLsbD 31 then 1 else 0)) ∧
  (∀ s, (s.rd R.MIR_STATUS).getLsbD 31 = false → exec .mirGroupApply s = .next s) ∧
  (∀ s, s.hostWrites = true → Answers .mirDivclr s fun t => onlyRegs s t ∧ t.rd R.MIR_DIVINFO = s.rd R.MIR_DIVINFO &&& 0x7FFFFFFF ∧
    ∀ o, o ≠ R.MIR_DIVINFO → t.rd o = s.rd o)

namespace Sys2Proof.Claims

open Sys2Proof Sys2Proof.Machine

/-- Step `step` of a context-job has got verdict v: counted, kept, and its records are gone (R385). -/
def Settled (s t : State) (ctx job : Nat) (step : Dword) (v : Nat) : Prop :=
  t.rd (R.MIR_VERD ctx job) = BitVec.ofNat 32 v ∧ t.rd (R.MIR_VERD ctx job + 4) = lo32 step ∧
  t.rd (verdictReg v) = satAdd (s.rd (verdictReg v)) 1 ∧ FMap.find t.pair.settled (4 * ctx + job) = some step ∧
  (∀ r ∈ t.dig.own ++ t.pair.theirs, r.of ctx job step = false) ∧ (∀ r ∈ s.dig.own, r.of ctx job step = false → r ∈ t.dig.own) ∧
  s.Regs mirReg { t with dig := s.dig, pair := s.pair }

/-- The records of a step on one side. -/
def ofStep (rs : List DigRec) (ctx job : Nat) (step : Dword) : List DigRec := rs.filter fun r => r.of ctx job step

end Sys2Proof.Claims

/-- R380, R384, R385, R395, R396: a step is judged when both parts' sums are there: a torn step is UNCHECKED, unequal programs SKIPPED, poison POISONED, any differing record a
DIVERGENCE, and otherwise it agrees. Records of the partner are taken in PAIRED; without them the comparison ends after its window. -/
def Sys2Proof.Claims.Verdicts : Prop :=
  (∀ (s : State) ctx job step, ctx < 4096 → job < 4 →
    let own := ofStep s.dig.own ctx job step
    let theirs := ofStep s.pair.theirs ctx job step
    let torn := ∃ r ∈ own ++ theirs, r.kind = 4
    let t := s.compareStep ctx job step
    (torn → Settled s t ctx job step 4) ∧
    (¬ torn → (∀ r ∈ own, r.kind ≠ 3) ∨ (∀ r ∈ theirs, r.kind ≠ 3) → t = s) ∧
    (¬ torn → ∀ o q, own.find? (fun r => r.kind == 3) = some o → theirs.find? (fun r => r.kind == 3) = some q → o.part < 8 →
      (o.extra ≠ q.extra → ∃ v, Settled v t ctx job step 5 ∧ s.Regs mirReg v) ∧
      (o.extra = q.extra → (∃ r ∈ own ++ theirs, r.poison = true) → Settled s t ctx job step 3) ∧
      (o.extra = q.extra → (∀ r ∈ own ++ theirs, r.poison = false) →
        ((∀ a ∈ own, ∀ b, theirs.find? (fun x => x.ord == a.ord) = some b → a.kind = b.kind ∧ a.layer = b.layer ∧ a.digest = b.digest) →
          Settled s t ctx job step 1) ∧
        (∀ a b, lowestDiff own theirs = some (a, b) → a.kind < 8 → a.layer < 256 → Settled s t ctx job step 2 ∧
          (t.rd (R.MIR_DIVMAP (ctx / 32))).getLsbD (ctx % 32) = true ∧ (t.rd R.MIR_FLAGS).getLsbD 2 = true ∧
          ((s.rd R.MIR_DIVINFO).getLsbD 31 = false → t.rd64 R.MIR_DIVOWN = a.digest ∧ t.rd64 R.MIR_DIVPEER = b.digest ∧
            t.rd64 R.MIR_DIVSTEP = a.step ∧ t.rd R.MIR_DIVCTX = BitVec.ofNat 32 ctx ∧ (t.rd R.MIR_DIVINFO).getLsbD 31 = true))))) ∧
  (∀ s r, Mirrors s r 2 32 → beAt (header r).payload 1 1 = 1 →
    let d := DigRec.ofItem (itemAt r 32 0)
    ∃ u, SeqTaken s u r 2 ∧
      (s.paired = false ∨ FMap.find s.pair.settled (4 * d.ctx + d.job) = some d.step → exec (.digest r) s = .next u) ∧
      (s.paired = true → FMap.find s.pair.settled (4 * d.ctx + d.job) ≠ some d.step →
        exec (.digest r) s = .next ({ u with pair := { u.pair with theirs := u.pair.theirs ++ [d] } }.compareStep d.ctx d.job d.step))) ∧
  (∀ (d : DigRec), d.kind < 8 → d.job < 4 → d.layer < 256 → d.part < 8 → d.ctx < 4096 → d.ord < 65536 → d.nrec < 65536 → DigRec.ofItem d.bytes = d) ∧
  (∀ s ctx job t0 o, ctx < 4096 → job < 4 → s.paired = true → FMap.find s.pair.sumRaw (4 * ctx + job) = some t0 →
    s.dig.own.find? (fun r => r.ctx == ctx && r.job == job && r.kind == 3) = some o →
    (fld (s.act R.MIR_FWDCFG) 16 16 * 1000 ≤ (s.tb.raw - t0).toNat → Answers (.cmpwinExpiry ctx job) s fun t => Settled s t ctx job o.step 4) ∧
    ((s.tb.raw - t0).toNat < fld (s.act R.MIR_FWDCFG) 16 16 * 1000 → exec (.cmpwinExpiry ctx job) s = .next s))

namespace Sys2Proof.Claims

open Sys2Proof Sys2Proof.Machine

/-- An item names a context-job and a SEQ. -/
def askItem (ctx job : Nat) (seq : Word) : List Byte := leBytes 4 (ctx + job * 2 ^ 12) ++ leBytes 4 seq.toNat

/-- The frame that carries items of a subtype on a lane, and its SEQ (R370). -/
def mirrorFrame (s : State) (lane sub count : Nat) (items : List Byte) : Output :=
  .frame (4 + lane) (ethBytes Config.partnerMac (s.mac 0) none s.etype
    (carrBytes s.mirVer 0x0A 0 (s.mirSeq lane sub) 0 0 s.stamp (beBytes 1 sub ++ beBytes 1 count ++ [0, 0] ++ items)))

end Sys2Proof.Claims

/-- R366, R370, R381 to R383: a frame of waiting items leaves on its class's lane when it is full or its oldest item is 500 ns old. A notice of an input that is not placed starts a timer, at
whose end it is asked for; one that differs from the own placement is counted. A request is answered with the record and payload of the fill half, or an empty
record; a forwarded input is placed as a received one. -/
def Sys2Proof.Claims.ForwardedInputs : Prop :=
  (∀ s sub l, sub = 2 ∨ sub = 3 ∨ sub = 4 → s.laneFor (sub == 2) = some l → (sub = 2 → s.paired = true) → (sub ≠ 2 → s.laneFor true ≠ s.laneFor false) →
    let items := s.waitingItems sub
    let full := if sub = 2 then 45 else if sub = 3 then 61 else 183
    (full ≤ items.length ∨ ∃ x rest, items = x :: rest ∧ 500 ≤ (s.tb.raw - x.2).toNat) →
    Answers (.mirrorFrameSend sub) s fun t =>
      let n := min full items.length
      t.waitingItems sub = items.drop n ∧ t.out = s.out ++ [mirrorFrame s l sub n ((items.take n).flatMap (·.1))] ∧
      (sub = 4 → t.rd R.MIR_FWDREQC = satAdd (s.rd R.MIR_FWDREQC) n) ∧ (sub ≠ 4 → t.regs = s.regs)) ∧
  (∀ s sub, s.waitingItems sub = [] → exec (.mirrorFrameSend sub) s = .next s) ∧
  (∀ s r ctx job (seq : Word), Mirrors s r 3 24 → beAt (header r).payload 1 1 = 1 →
    let item := itemAt r 24 0
    fld (w32 (leAt item 0 4)) 0 12 = ctx → fld (w32 (leAt item 0 4)) 12 2 = job → w32 (leAt item 4 4) = seq → ∃ u, SeqTaken s u r 3 ∧
      (s.placedSeq ctx job seq = some (w32 (leAt item 16 4), leAt item 20 2) → exec (.inote r) s = .next u) ∧
      (∀ c n, s.placedSeq ctx job seq = some (c, n) → (c ≠ w32 (leAt item 16 4) ∨ n ≠ leAt item 20 2) → Answers (.inote r) s fun t =>
        t.rd R.MIR_INCONF = satAdd (s.rd R.MIR_INCONF) 1 ∧ (t.rd R.MIR_FLAGS).getLsbD 3 = true) ∧
      (s.placedSeq ctx job seq = none → FMap.find s.net.measSeq (streamKey ctx job) = none → (∀ x ∈ s.pair.waits, x.1 ≠ 4 * ctx + job ∨ x.2.1 ≠ seq) →
        exec (.inote r) s = .next { u with pair := { u.pair with waits := u.pair.waits ++ [(4 * ctx + job, seq, s.tb.raw)] } })) ∧
  (∀ s ctx job seq t0, s.pair.waits.find? (fun x => x.1 == 4 * ctx + job && x.2.1 == seq) = some (4 * ctx + job, seq, t0) →
    ((s.tb.raw - t0).toNat < fld (s.act R.MIR_FWDCFG) 0 16 * 100 → exec (.forwardWaitExpiry ctx job seq) s = .next s) ∧
    (fld (s.act R.MIR_FWDCFG) 0 16 * 100 ≤ (s.tb.raw - t0).toNat → s.placedSeq ctx job seq = none → s.paired = true →
      Answers (.forwardWaitExpiry ctx job seq) s fun t =>
        (∀ x ∈ t.pair.waits, x.1 ≠ 4 * ctx + job ∨ x.2.1 ≠ seq) ∧ t.pair.asked = s.pair.asked ++ [(4 * ctx + job, seq)] ∧
        t.waitingItems 4 = s.waitingItems 4 ++ [(askItem ctx job seq, s.tb.raw)] ∧ t = { s with pair := t.pair })) ∧
  (∀ s r, Mirrors s r 4 8 → beAt (header r).payload 1 1 = 1 →
    let w := w32 (leAt (itemAt r 8 0) 0 4)
    ∃ u, SeqTaken s u r 4 ∧ exec (.fwdreq r) s =
      .next (let x := u.fwdItem (fld w 0 12) (fld w 12 2) (w32 (leAt (itemAt r 8 0) 4 4)); x.1.sendFwd x.2)) ∧
  (∀ (s : State) ctx job seq i, s.placeEntry ctx job = some i →
    let e := s.pentry i
    let k := s.tag ctx job (s.fillHalf ctx job)
    let a := s.inputArea ctx e + s.fillHalf ctx job * e.hlen
    (k.complete = true → k.seq = seq → s.openRange a (32 + k.len) = true → (∀ w ∈ wordsOf a (32 + k.len), sound s w) →
      ∃ v, s.OnlyRead v ∧ s.fwdItem ctx job seq = (v, s.peek a (32 + k.len))) ∧
    (k.complete = false ∨ k.seq ≠ seq → Counts s (s.fwdItem ctx job seq).1 R.MIR_FWDNONE ∧ (s.fwdItem ctx job seq).2 = List.replicate 32 0)) ∧
  (∀ s r, OnLane s r 0x0A → beAt (header r).payload 0 1 = 5 → beAt (header r).payload 2 2 = 0 → 4 ≤ (header r).len →
    crc32c (header r).payload = (header r).crc → let item := (header r).payload.drop 4
    ((header r).flags.testBit 12 = false → (header r).len = 36 + leAt item 4 2 → ∃ u, SeqTaken s u r 5 ∧
      exec (.fwd r) s = .next (u.forwarded (r.port - 4) item)) ∧
    ((header r).flags.testBit 12 = true → (header r).len = 1472 → Answers (.fwd r) s fun t =>
      FMap.find t.pair.partials (r.port - 4) = some (item, s.tb.raw) ∧ t.mem = s.mem ∧ t.net = s.net)) ∧
  (∀ s r b t0, 4 ≤ r.port → r.port < 6 → s.laneUp (r.port - 4) = true → r.frame.fcsOk = true → r.frame.len ≤ 1518 → r.frame.etype.toNat = s.etype →
    (header r).typ = 0x0A → carrGate true (header r) r.frame.body.length = none → beAt (header r).payload 0 1 = 5 →
    beAt (header r).payload 2 2 = 1468 → FMap.find s.pair.partials (r.port - 4) = some (b, t0) → 1436 < leAt b 4 2 →
    (header r).len = 4 + (32 + leAt b 4 2) - 1468 → crc32c (header r).payload = (header r).crc → ∃ u, SeqTaken s u r 5 ∧
      exec (.fwd r) s = .next ({ u with pair := { u.pair with partials := FMap.upd u.pair.partials (r.port - 4) none } }.forwarded (r.port - 4)
        (b ++ (header r).payload.drop 4))) ∧
  (∀ s lane b t0, FMap.find s.pair.partials lane = some (b, t0) →
    (10000 ≤ (s.tb.raw - t0).toNat → Answers (.fwdFragmentTimeout lane) s fun t => FMap.find t.pair.partials lane = none ∧
      t.rd (R.MIR_LOST lane) = satAdd (s.rd (R.MIR_LOST lane)) 1 ∧ t = { s with regs := t.regs, cyc := s.cyc.flags t.cyc, pair := { s.pair with partials := t.pair.partials } }) ∧
    ((s.tb.raw - t0).toNat < 10000 → exec (.fwdFragmentTimeout lane) s = .next s)) ∧
  (∀ s lane, FMap.find s.pair.partials lane = none → exec (.fwdFragmentTimeout lane) s = .next s)

/-- R9, R369: the partner reads memory with correction, and registers without their side effects; outside what the part backs it is answered UNMAPPED. -/
def Sys2Proof.Claims.PartnerReads : Prop :=
  ∀ s r, OnLane s r 0x03 → (header r).len = 16 → crc32c (header r).payload = (header r).crc →
    let h := header r
    let a := beAt h.payload 0 8
    let len := beAt h.payload 8 4
    0 < len → len ≤ 1024 →
    let window := 0x70000000 ≤ a ∧ a + len ≤ 0x80000000
    (window → Answers (.mirrorRd r) s fun t => ∃ data : List Byte, data.length = len ∧
      (∀ i, i < len → data.getD i 0 = if a - 0x70000000 + i < 2 ^ 24
        then BitVec.ofNat 8 ((s.readReg ((a - 0x70000000 + i) / 4 * 4)).toNat / 2 ^ (8 * ((a - 0x70000000 + i) % 4))) else 0) ∧
      ∃ v : State, v.rd R.CARR_TXNCNT = satAdd (s.rd R.CARR_TXNCNT) 1 ∧ t = v.sendAnswer (askerOf r h) 0x05 0 data false ∧ onlyRegs s v ∧
        ∀ o, o ≠ R.CARR_TXNCNT → v.rd o = s.rd o) ∧
    (¬ window → s.openRange a len = true → (∀ w ∈ wordsOf a len, sound s w) → Answers (.mirrorRd r) s fun t => ∃ v, s.OnlyRead v ∧
      t = (v.bump R.CARR_TXNCNT).sendAnswer (askerOf r h) 0x05 0 (s.peek a len) false) ∧
    (¬ window → s.openRange a len = false → exec (.mirrorRd r) s = .next (s.refuse r h 10 0x1FF 0))

/-! ## The host interface -/

namespace Sys2Proof.Claims

open Sys2Proof Sys2Proof.Machine

/-- The host reaches word w at `off` (R15, R401, R437). -/
def Reached (s : State) (off : Nat) (w : RegWord) : Prop :=
  s.hostOn = true ∧ RegMap.word off = some w ∧ s.hostReach off = true

/-- A read of a word sends its value and does nothing else. -/
def ReadsOnly (s t : State) (off : Nat) (v : Word) : Prop := t = { s with out := s.out ++ [.readWord off v] }

end Sys2Proof.Claims

/-- R16, R18, R20: a read of the low word of a 64-bit register gives it and latches the high word of the same cycle, which the next read of the high word gives; an RC word is cleared
by the read, and one counted in the same cycle reads as before and keeps what was counted; any other read has no effect. -/
def Sys2Proof.Claims.RegisterReads : Prop :=
  (∀ s off w, Reached s off w → w.wide = true → w.idx = 0 → Answers (.reg64LowRead off) s fun t =>
    t = { s with latch := t.latch, out := s.out ++ [.readWord off (s.readReg off)] } ∧ FMap.find t.latch off = some (s.readReg (off + 4)) ∧
    ∀ o, o ≠ off → FMap.find t.latch o = FMap.find s.latch o) ∧
  (∀ s off w, Reached s off w → w.wide = true → w.idx ≠ 0 →
    (∀ h, FMap.find s.latch (off - 4) = some h → Answers (.reg64HighRead off) s fun t =>
      t = { s with latch := t.latch, out := s.out ++ [.readWord off h] } ∧ FMap.find t.latch (off - 4) = none) ∧
    (FMap.find s.latch (off - 4) = none → Answers (.reg64HighRead off) s fun t => ReadsOnly s t off (s.readReg off))) ∧
  (∀ s off w, Reached s off w → w.wide = false →
    (w.acc = .rc → s.present off = true →
      let counted := FMap.find s.cyc.incs off
      Answers (.rcRegisterRead off) s fun t =>
      t = { s with regs := t.regs, out := s.out ++ [.readWord off (match counted with | some c => c.1 | none => s.readReg off)] } ∧
      t.rd off = (match counted with | some c => c.2 | none => if off = R.GLB_TMAX then 0x8000 else 0) ∧ ∀ o, o ≠ off → t.rd o = s.rd o) ∧
    (w.acc ≠ .rc → Answers (.rcRegisterRead off) s fun t => ReadsOnly s t off (s.readReg off))) ∧
  (∀ s off, s.hostOn = true → RegMap.word off = none ∨ s.hostReach off = false →
    Answers (.reg64LowRead off) s fun t => ReadsOnly s t off 0) ∧
  (∀ (s : State) off w, RegMap.word off = some w → s.present off = true → s.hostReach off = true → eccHole off = false → w.acc ≠ .wo →
    s.shown off = none → s.readReg off = s.rd off &&& BitVec.ofNat 32 w.mask &&& s.recordBits off) ∧
  (∀ (s : State) off w, RegMap.word off = some w → w.acc = .wo ∨ s.present off = false → s.readReg off = 0)

/-- R15, R17 to R20, R300, R320, R418, R419: a write with fewer than four byte enables, or of a read-only word, is ignored; a writable word takes its implemented bits, a W1C word loses
the bits written as 1 but those that hardware has set in the same cycle, and a staged word takes the value unless its group is pending, when the write is counted.
A write of DMA_CHCTL that names no operation, or the service channel, is counted.
Where a clause rests on a choice of the model and not on a rule, the choice is that of log entries 16, 18 and 76. -/
def Obligations.RegisterWrites : Prop :=
  (∀ s off value (be : BitVec 4), be ≠ 0xF → exec (.registerWrite off value be) s = .next s) ∧
  (∀ s off w value, Reached s off w → w.acc = .ro ∨ w.acc = .rc → exec (.registerWrite off value 0xF) s = .next s) ∧
  (∀ s m c (value : Word), m < 16 → c < 8 → s.hostOn = true → s.running = true → s.present (R.DMA_CHCTL m c) = true →
    if c = 7 ∨ value.toNat / 2 ^ 28 ∉ ([1, 2, 3, 4, 5] : List Nat) then
      Answers (.registerWrite (R.DMA_CHCTL m c) value 0xF) s fun t => Counts s t (R.DMA_IGN m)
    else exec (.registerWrite (R.DMA_CHCTL m c) value 0xF) s = .next s) ∧
  (∀ s off w value, Reached s off w → w.acc = .wo → off / 0x100000 ≠ 8 → exec (.registerWrite off value 0xF) s = .next s) ∧
  (∀ s off w value, Reached s off w → s.present off = true → eccHole off = false → w.acc = .w1c → off ≠ R.MIR_DIVCLR →
    Answers (.registerWrite off value 0xF) s fun t => onlyRegs s t ∧
      t.rd off = s.rd off &&& ~~~ (value &&& ~~~ FMap.get 0 s.cyc.sets off) ∧ ∀ o, o ≠ off → t.rd o = s.rd o) ∧
  (∀ s off w value, Reached s off w → s.present off = true → eccHole off = false → w.acc = .stg →
    (s.groupPending off = true → Answers (.registerWrite off value 0xF) s fun t => Counts s t R.GLB_STGIGN) ∧
    (s.groupPending off = false → s.fuses.artsig = false → Answers (.registerWrite off value 0xF) s fun t => onlyRegs s t ∧
      t.rd off = value ∧ ∀ o, o ≠ off → t.rd o = s.rd o)) ∧
  (∀ s off w value, Reached s off w → s.present off = true → eccHole off = false → w.acc = .rw →
    off / 0x100000 ∉ ([1, 6, 9, 13, 15] : List Nat) → off ≠ R.ECC_SCRUB_EN 144 → Answers (.registerWrite off value 0xF) s fun t => onlyRegs s t ∧
      t.rd off = value &&& BitVec.ofNat 32 w.mask ∧ ∀ o, o ≠ off → t.rd o = s.rd o) ∧
  (∀ s off w value, Reached s off w → s.present off = true → eccHole off = false → w.acc = .rw → 0x140000 ≤ off → off < 0x180000 →
    Answers (.registerWrite off value 0xF) s fun t =>
      if s.loadPending ((off - 0x140000) / 0x8000) then Counts s t R.GLB_STGIGN
      else onlyRegs s t ∧ t.rd off = value &&& BitVec.ofNat 32 w.mask ∧ ∀ o, o ≠ off → t.rd o = s.rd o) ∧
  (∀ s (value : Word), s.hostOn = true → s.running = true → s.present (R.ECC_SCRUB_EN 144) = true →
    Answers (.registerWrite (R.ECC_SCRUB_EN 144) value 0xF) s fun t => onlyRegs s t ∧ t.rd (R.ECC_SCRUB_EN 144) = value &&& 1 ∧
      ∀ o, o ≠ R.ECC_SCRUB_EN 144 → t.rd o = s.rd o)

/-- R250, R402 to R404, R437, R448: BAR2 reads and writes reach mapped memory in open banks; a read elsewhere completes with Completer Abort and a write is discarded; a write to locked bytes
is refused; a poisoned write is counted and stored poisoned; a request that a bank holds waits, and one without a grant in time ends and is counted. -/
def Sys2Proof.Claims.WindowAccesses : Prop :=
  (∀ s off len a, s.hostOn = true → s.quiet = false → s.bar2Range off len = some a →
    let cs := s.claimsOf false a 1
    let held := s.heldOf ordHost cs
    (held = [] → 0 < len → (∀ w ∈ wordsOf a len, sound s w) → Answers (.bar2Read off len) s fun t => ∃ v : State,
      (s.grantBus ordHost cs).OnlyRead v ∧ t = { v with out := v.out ++ [.completion (some (s.peek a len)) false] }) ∧
    (held ≠ [] → exec (.bar2Read off len) s = .next (s.softHolds held))) ∧
  (∀ s off len, s.hostOn = true → s.bar2Range off len = none →
    exec (.bar2Read off len) s = .next { s with out := s.out ++ [.completion none false] }) ∧
  (∀ s off data a, s.hostOn = true → s.quiet = false → s.bar2Range off data.length = some a → s.lockOf a data = none → 0 < data.length →
    (∀ w ∈ wordsOf a data.length, sound s w) → (s.rd R.ECC_INJCTL).getLsbD 31 = false → s.heldOf ordHost (s.claimsOf true a 1) = [] →
    Answers (.bar2Write off data false) s fun t =>
      (∀ i b, i < data.length → data.getD i none = some b → seen t (a + i) = [b]) ∧
      (∀ x, (∀ i, i < data.length → data.getD i none ≠ none → x ≠ a + i) → seen t x = seen s x) ∧
      (∀ o, ¬ eccReg o → ¬ escReg o → t.rd o = s.rd o)) ∧
  (∀ s off data ep a, s.hostOn = true → s.quiet = false → s.bar2Range off data.length = some a → s.lockOf a data = none →
    s.heldOf ordHost (s.claimsOf true a 1) ≠ [] →
    exec (.bar2Write off data ep) s = .next (s.softHolds (s.heldOf ordHost (s.claimsOf true a 1)))) ∧
  (∀ s off data a, s.hostOn = true → s.quiet = false → s.bar2Range off data.length = some a → s.lockOf a data = none → a % 8 = 0 →
    data.length % 8 = 0 → 0 < data.length → (∀ i, i < data.length → data.getD i none ≠ none) → (s.rd R.ECC_INJCTL).getLsbD 31 = false →
    s.heldOf ordHost (s.claimsOf true a 1) = [] → Answers (.bar2Write off data true) s fun t => t.rd R.PCI_EPRX = satAdd (s.rd R.PCI_EPRX) 1 ∧
      ∀ w ∈ wordsOf a data.length, t.bankSyn w = 0xFF) ∧
  (∀ s off data, s.hostOn = true → s.bar2Range off data.length = none →
    exec (.bar2Write off data false) s = .next { s with out := s.out ++ [.aerAbort] }) ∧
  (∀ s off data a p, s.hostOn = true → s.bar2Range off data.length = some a → s.lockOf a data = some p →
    exec (.bar2Write off data false) s = .next { s.lockWrite p 0 with out := (s.lockWrite p 0).out ++ [.aerAbort] }) ∧
  (∀ s rd, s.hostWrites = true → Answers (.inboundWaitExpiry rd) s fun t => t.rd R.PCI_STARVE = satAdd (s.rd R.PCI_STARVE) 1 ∧
    s.Regs (fun o => o = R.PCI_STARVE) t ∧ (s.rd R.PCI_STARVE ≠ 0 → t.log = s.log)) ∧
  (∀ (s : State) off a, s.bar2Addr off = some a → s.running = true →
    (off < 0x08000000 → a = 0x40000000 + off / 0x100000 * 0x400000 + off % 0x100000) ∧
    (0x08000000 ≤ off → off < 0x10000000 → a = 0x60000000 + (off - 0x08000000) / 0x800000 * 0x1000000 + off % 0x800000) ∧
    (0x10000000 ≤ off → a = 0x1000000000 + (s.rd64 R.PCI_MWBASE).toNat + (off - 0x10000000)))

namespace Sys2Proof.Claims

open Sys2Proof Sys2Proof.Machine

/-- The function's own state is back at its defaults (R407). -/
structure FnReset (t : State) : Prop where
  host : t.host.busMaster = false ∧ t.host.d3hot = false ∧ t.host.cto = 0 ∧ t.host.mrrs = 2 ∧ t.host.compliance = false
  size : t.field R.PCI_STAT 0 8 = 28 ∧ t.rd64 R.PCI_MWBASE = 0
  msix : ∀ v, v < 64 → t.rd (R.PCI_MSIX v 0) = 0 ∧ t.rd (R.PCI_MSIX v 1) = 0 ∧ t.rd (R.PCI_MSIX v 2) = 0 ∧ t.rd (R.PCI_MSIX v 3) = 1

end Sys2Proof.Claims

/-- R400, R401, R405 to R408, R434, R437: the link comes up at a speed and width the function has, and its loss, a hot reset, an FLR and the rise of PERST_N reset the function, counted
but for PERST_N before RUN; configuration sets the size of BAR2, bus mastering, the timeout and the power state.
Where a clause rests on a choice of the model and not on a rule, the choice is that of log entries 5, 27, 28, 66 and 67. -/
def Obligations.FunctionResets : Prop :=
  (∀ s, s.boot.held = [] → s.pcieUp = true → s.host.outbound = [] →
    (Answers .pcieFlr s fun t => FnReset t ∧ t.rd R.PCI_FLRCNT = satAdd (s.rd R.PCI_FLRCNT) 1 ∧ t.pcieUp = true ∧ t.rd R.PCI_RUN = 0 ∧
      (t.escOf (escKey 5 0 0)) = ⟨0, false⟩ ∧ t.mem = s.mem ∧ t.cores = s.cores ∧ t.sch = s.sch) ∧
    (Answers .pcieHotReset s fun t => FnReset t ∧ t.rd R.PCI_FLRCNT = satAdd (s.rd R.PCI_FLRCNT) 1 ∧ t.pcieUp = true ∧ t.mem = s.mem ∧
      t.esc = s.esc)) ∧
  (∀ s speed width, s.boot.held = [] → s.pcieUp = false → s.host.perst = false → 1 ≤ speed → speed ≤ 5 → width ∈ ([1, 2, 4] : List Nat) →
    Answers (.pcieLink true speed width) s fun t => t.pcieUp = true ∧ t.field R.PCI_STAT 28 3 = speed ∧ t.field R.PCI_STAT 24 4 = width ∧
      t.rd R.GLB_LOGSEQ = s.rd R.GLB_LOGSEQ + 1 ∧ s.Regs (fun o => o = R.PCI_STAT) t) ∧
  (∀ s speed width, s.pcieUp = true → s.host.outbound = [] → Answers (.pcieLink false speed width) s fun t => t.pcieUp = false ∧ FnReset t) ∧
  (∀ s speed width, s.host.perst = true → exec (.pcieLink true speed width) s = .next s) ∧
  (∀ s, s.pcieUp = false → exec (.perstN false) s = .next { s with host := { s.host with perst := true } }) ∧
  (∀ s, s.host.perst = true → s.host.outbound = [] → Answers (.perstN true) s fun t => t.host.perst = false ∧ FnReset t ∧
    t.rd R.PCI_FLRCNT = if s.running then satAdd (s.rd R.PCI_FLRCNT) 1 else s.rd R.PCI_FLRCNT) ∧
  (∀ s, s.pcieUp = true → s.boot.held = [] → 20000000 ≤ s.tb.raw.toNat →
    (∀ n, 28 ≤ n → n ≤ 36 → Answers (.pcieConfigRequest (.resizeBar2 n)) s fun t => onlyRegs s t ∧ t.field R.PCI_STAT 0 8 = n ∧
      t.pcieUp = true ∧ ∀ o, o ≠ R.PCI_STAT → t.rd o = s.rd o) ∧
    (∀ on, Answers (.pcieConfigRequest (.busMaster on)) s fun t => t.host = { s.host with busMaster := on } ∧ t.mem = s.mem) ∧
    (∀ on, Answers (.pcieConfigRequest (.dState on)) s fun t => t.host = { s.host with d3hot := on } ∧ t.mem = s.mem) ∧
    (∀ v : BitVec 4, exec (.pcieConfigRequest (.completionTimeout v)) s = .next { s with host := { s.host with cto := v.toNat } }) ∧
    (∀ c : BitVec 3, c.toNat ≤ 5 → exec (.pcieConfigRequest (.maxReadRequest c)) s = .next { s with host := { s.host with mrrs := c.toNat } }) ∧
    exec (.pcieConfigRequest .read) s = .next s) ∧
  (∀ s req, s.pcieUp = false → exec (.pcieConfigRequest req) s = .next s)

/-- R405, R406, R426: a read that completes gives its data to the channel or ring that asked and ends the run of failures; one that fails, or is not answered in time, is counted, logged,
and halts its channel with DMA_LINK. -/
def Sys2Proof.Claims.OutboundReads : Prop :=
  (∀ s o k data, s.host.outbound.find? (fun x => x.tag == o.tag) = some o → o.who = .dma k → Answers (.outboundCompletion o.tag .success data) s fun t =>
    ∃ v : State, v = { s with host := { s.host with outbound := s.host.outbound.filter fun x => x.tag != o.tag }, regs := v.regs, esc := v.esc } ∧
      v.rd R.PCI_RUN = 0 ∧ (v.escOf (escKey 5 0 0)).run = 0 ∧ t = (v.dmaData k o.tag (padTo o.len (data.take o.len))).rxAsk) ∧
  (∀ (s : State) k tag g data, (s.dmaOf k).segs.find? (fun x => x.tag == some tag) = some g →
    let t := s.dmaData k tag data
    t.dmaOf k = { s.dmaOf k with segs := (s.dmaOf k).segs.filter (fun x => x.tag != some tag) ++ rowSegs g data s.tb.raw } ∧
    t.rd (R.DMA_PORTU (k / 8)) = satAdd (s.rd (R.DMA_PORTU (k / 8))) (units g.src g.len) ∧
    s.Regs (fun o => o = R.DMA_PORTU (k / 8)) { t with dma := s.dma }) ∧
  (∀ s o st data, s.host.outbound.find? (fun x => x.tag == o.tag) = some o → st = .unsupported ∨ st = .abort ∨ st = .poisoned →
    s.net.rxWait = [] → (∀ k, o.who ≠ .dma k) → s.dma = [] → Answers (.outboundCompletion o.tag st data) s fun t =>
      t.rd R.PCI_ERRCNT = satAdd (s.rd R.PCI_ERRCNT) 1 ∧ (∀ x ∈ t.host.outbound, x.tag ≠ o.tag) ∧
      (t.escOf (escKey 5 0 0)).run = min 3 ((s.escOf (escKey 5 0 0)).run + 1) ∧ t.rd R.PCI_RUN = BitVec.ofNat 32 (min 3 ((s.escOf (escKey 5 0 0)).run + 1)) ∧
      t.mem = s.mem) ∧
  (∀ (s : State) k tag g, (s.dmaOf k).segs.find? (fun x => x.tag == some tag) = some g → (s.dmaOf k).st = .run →
    ∃ v : State, v = s.setDma k { s.dmaOf k with segs := (s.dmaOf k).segs.filter fun x => x.tag != some tag } ∧ Halted v (s.dmaLost k tag) k 7 g.src) ∧
  (∀ s o, s.host.outbound.find? (fun x => x.tag == o.tag) = some o →
    ((s.tb.raw - o.raw).toNat < ctoNs s.host.cto → exec (.outboundCompletionTimeout o.tag) s = .next s) ∧
    (ctoNs s.host.cto ≤ (s.tb.raw - o.raw).toNat → (∀ k, o.who ≠ .dma k) → s.net.rxWait = [] → s.dma = [] →
      Answers (.outboundCompletionTimeout o.tag) s fun t => t.rd R.PCI_CTOCNT = satAdd (s.rd R.PCI_CTOCNT) 1 ∧ (∀ x ∈ t.host.outbound, x.tag ≠ o.tag))) ∧
  (∀ s tag st data, (∀ x ∈ s.host.outbound, x.tag ≠ tag) → exec (.outboundCompletion tag st data) s = .next s ∧
    exec (.outboundCompletionTimeout tag) s = .next s)

/-- R422 to R425: each record takes the next SEQ, and enters the queue of 64 or is dropped and counted; the writer moves the oldest record to the ring while it has room, and signals
at its threshold or after its coalescing time; the log group is checked and applies with the ring's counters at 0 when it moves. -/
def Sys2Proof.Claims.EventLog : Prop :=
  (∀ (s : State) code arg ctx,
    let t := s.event code arg ctx
    t.rd R.GLB_LOGSEQ = s.rd R.GLB_LOGSEQ + 1 ∧ s.Logged t ∧ t.esc = s.esc ∧
    (s.log.queue.length < 64 → t.log.queue.length = s.log.queue.length + 1 ∧ t.rd R.GLB_LOGDROP = s.rd R.GLB_LOGDROP) ∧
    (64 ≤ s.log.queue.length → t.log.queue = s.log.queue ∧ t.log.lost = true ∧ t.rd R.GLB_LOGDROP = satAdd (s.rd R.GLB_LOGDROP) 1)) ∧
  (∀ s r rest, s.log.queue = r :: rest → s.running = true → (s.act R.GLB_LOGCFG).getLsbD 31 = true → s.field R.GLB_MEM 0 8 ≠ 0 →
    s.logUnread < 4096 → r.words.length = 8 → (s.rd R.ECC_INJCTL).getLsbD 31 = false →
    let a := 0x1000000000 + (s.act64 R.GLB_LOGBASE).toNat / 2 ^ 17 * 2 ^ 17 % 2 ^ 36 + 32 * ((s.rd R.GLB_LOGWR).toNat % 4096)
    s.openRange a 32 = true → Answers .logRecordWrite s fun t =>
      t.log.queue = rest ∧ t.rd R.GLB_LOGWR = s.rd R.GLB_LOGWR + 1 ∧
      (∀ k, k < 8 → t.peekLe (a + 4 * k) 4 = (r.words.getD k 0).toNat) ∧ (∀ x, x < a ∨ a + 32 ≤ x → seen t x = seen s x) ∧
      (s.logUnread + 1 = max 1 (fld (s.act R.GLB_LOGCFG) 19 12) → t.log.unsig = [])) ∧
  (∀ s, s.log.queue = [] ∨ (s.act R.GLB_LOGCFG).getLsbD 31 = false ∨ 4096 ≤ s.logUnread → exec .logRecordWrite s = .next s) ∧
  (∀ s n t0 rest, s.log.unsig = (n, t0) :: rest → (n - s.rd R.GLB_LOGRD).toNat < s.logUnread →
    let coal := fld (s.act R.GLB_LOGCFG) 12 7
    (coal = 0 ∨ (s.tb.raw - t0).toNat < coal * 10000 → exec .logCoalesceExpiry s = .next s) ∧
    (coal ≠ 0 → coal * 10000 ≤ (s.tb.raw - t0).toNat → exec .logCoalesceExpiry s =
      .next ({ s with log := { s.log with unsig := [] } }.raiseVec (fld (s.act R.GLB_LOGCFG) 0 6)))) ∧
  (∀ s, s.hostWrites = true → Commits .glbCommitLog s R.GLB_STATUS s.logCode onlyRegs) ∧
  (∀ (s : State),
    let base := (s.rd64 R.GLB_LOGBASE).toNat
    let on := (s.rd R.GLB_LOGCFG).getLsbD 31 = true
    let one := on ∧ s.field R.GLB_MEM 0 8 = 0
    let two := on ∧ s.memSize 144 < base / 2 ^ 17 % 2 ^ 19 * 2 ^ 17 + 0x20000
    let three := base / 2 ^ 36 ≠ 0 ∨ base % 2 ^ 17 ≠ 0
    (one → s.logCode = 1) ∧ (¬ one → two → s.logCode = 2) ∧ (¬ one → ¬ two → three → s.logCode = 3) ∧ (¬ one → ¬ two → ¬ three → s.logCode = 0)) ∧
  (∀ s, (s.rd R.GLB_STATUS).getLsbD 31 = true → Answers .logGroupApply s fun t =>
    t.act64 R.GLB_LOGBASE = s.rd64 R.GLB_LOGBASE ∧ t.act R.GLB_LOGCFG = s.rd R.GLB_LOGCFG ∧ (t.rd R.GLB_STATUS).getLsbD 31 = false ∧
    (s.act64 R.GLB_LOGBASE ≠ s.rd64 R.GLB_LOGBASE ∨ (s.act R.GLB_LOGCFG).getLsbD 31 ≠ (s.rd R.GLB_LOGCFG).getLsbD 31 →
      t.rd R.GLB_LOGWR = 0 ∧ t.rd R.GLB_LOGRD = 0) ∧
    (s.act64 R.GLB_LOGBASE = s.rd64 R.GLB_LOGBASE → (s.act R.GLB_LOGCFG).getLsbD 31 = (s.rd R.GLB_LOGCFG).getLsbD 31 →
      t.rd R.GLB_LOGWR = s.rd R.GLB_LOGWR ∧ t.rd R.GLB_LOGRD = s.rd R.GLB_LOGRD) ∧ t.log.queue = s.log.queue)

/-- R426, R430: a failure of a unit raises its run, and the third begins its escalation, which is shown and logged; GLB_ESCCLR ends it. A host that does not write GLB_HOSTHB in time is
silent, which is logged once and changes nothing else. -/
def Sys2Proof.Claims.EscalationAndLiveness : Prop :=
  (∀ (s : State) scope unit engine cause, scope < 8 →
    let key := escKey scope unit engine
    let top := if scope = 3 then 15 else 3
    let t := s.escFail scope unit engine cause
    s.Logged t ∧ (t.escOf key).run = min top ((s.escOf key).run + 1) ∧
    (t.escOf key).action = ((s.escOf key).action || decide (2 ≤ (s.escOf key).run)) ∧
    (∀ j, j ≠ key → t.escOf j = s.escOf j) ∧
    ((s.escOf key).action = false → 2 ≤ (s.escOf key).run → unit * 2 ^ 8 + engine < 2 ^ 20 → (t.rd R.GLB_ESCSTAT).getLsbD scope = true)) ∧
  (∀ (s : State) scope unit engine, (s.escOk scope unit engine).escOf (escKey scope unit engine) =
    ⟨0, (s.escOf (escKey scope unit engine)).action⟩) ∧
  (∀ s (value : Word), s.hostWrites = true → Answers (.glbEscclr value) s fun t =>
    let scope := fld value 28 4
    let key := escKey scope (fld value 16 12) (if scope = 1 then fld value 0 8 else 0)
    t.escOf key = ⟨0, false⟩ ∧ (∀ j, j ≠ key → t.escOf j = s.escOf j) ∧ t = { s with regs := t.regs, cyc := s.cyc.flags t.cyc, esc := t.esc } ∧
    ∀ o, o ≠ R.GLB_ESCSTAT → o ≠ R.PCI_RUN → t.rd o = s.rd o) ∧
  (∀ s, s.hostWrites = true → exec .glbHosthb s = .next { s with host := { s.host with hbRaw := s.tb.raw, silent := false } }) ∧
  (∀ s, s.running = true → s.field R.GLB_HOSTCFG 0 16 ≠ 0 → s.host.silent = false →
    s.field R.GLB_HOSTCFG 0 16 * 1000000 ≤ (s.tb.raw - s.host.hbRaw).toNat → Answers .hostSilent s fun t =>
      t.host = { s.host with silent := true } ∧ { s with host := t.host }.Logged t ∧ t.rd R.GLB_LOGSEQ = s.rd R.GLB_LOGSEQ + 1) ∧
  (∀ s, s.host.silent = true ∨ s.field R.GLB_HOSTCFG 0 16 = 0 → exec .hostSilent s = .next s)

/-! ## The block as a whole -/

/-- A waiting command is the next step's, and its effect is exec's on the state with the rest of the queue (the model's own queue). -/
def Sys2Proof.Claims.StepRunsFrontPart : Prop :=
  ∀ (s : State) c rest, s.pending = c :: rest → step s = exec c { s with pending := rest }

namespace Sys2Proof.Claims

open Sys2Proof Sys2Proof.Machine

/-- In this cycle nothing but the clocks has work: no array or store of a core, no channel, no lap, no bank that turns off, no walk, no commit
lane, and no calibration window. -/
structure Idle (s : State) : Prop where
  cores : ∀ n, (s.core n).nextAt = none
  chans : s.dma = []
  laps  : ∀ n, n < 144 → s.rd (R.ECC_SCRUB_EN n) = 0 ∧ (s.integOf n).lapRaw = 0
  banks : s.banks = []
  sched : s.sch.walks = [] ∧ s.sch.lanes = []
  cal   : s.cyc.cal.due = [] ∧ s.cyc.cal.counts = [] ∧ s.cyc.cal.close = []

end Sys2Proof.Claims

/-- R22, R47, R53: with no command waiting one cycle passes (the model's choice, log entry 8). Where only the clocks have work the raw counter advances by 5, the phase accumulator by its
increment, the wrap count by the wrap of the cycle before if nothing has counted it, and nothing outside the timebase changes but its own registers, its pulse
output and the grants that are forgotten. -/
def Sys2Proof.Claims.IdleTick : Prop :=
  (∀ s : State, s.pending = [] → step s = .next s.tick) ∧
  (∀ s : State, Idle s →
    let t := s.tick
    t.tb.raw = s.tb.raw + 5 ∧ t.tb.w = (if s.tb.wrapDue then s.tb.w + 1 else s.tb.w) ∧
    (s.tbPending pendPH = false → t.tb.acc = s.tb.acc + s.tb.inc ∧ t.tb.prev = s.tb.acc ∧
      t.tb.inWrap = decide ((s.tb.acc + s.tb.inc).toNat < s.tb.acc.toNat)) ∧
    (s.tbPending pendTIME = false → s.tbPending pendPH = false → t.regs = s.regs) ∧
    t = { s with regs := t.regs, cyc := .begun s.cyc.held, tb := t.tb, out := t.out, cores := t.cores } ∧
    ∀ n, t.core n = { s.core n with claims := (t.core n).claims })

/-- R435, R436, R47: what power-on reset leaves. Every register has its reset value, but for GLB_RSTCAUSE, which names the source (R476); the raw counter is 0, no memory is written, boot is
in FUSE, no core runs, and no command waits. -/
def Sys2Proof.Claims.ResetValuesPart : Prop :=
  (∀ o, o ≠ R.GLB_RSTCAUSE → State.reset.rd o = RegMap.resetValue o) ∧ State.reset.rd R.GLB_RSTCAUSE = 1 ∧
  State.reset.tb.raw = 0 ∧ State.reset.boot.state = .fuse ∧ State.reset.running = false ∧
  (∀ n, State.reset.core n = Core.reset) ∧ (∀ k, State.reset.dmaOf k = DmaChan.reset) ∧ (∀ k, State.reset.count k = 0) ∧
  State.reset.mem = [] ∧ State.reset.syn = [] ∧ State.reset.log.queue = [] ∧ State.reset.pending = [] ∧ State.reset.out = []

/-- The invariant holds at reset. -/
def Sys2Proof.Claims.InvariantAtReset : Prop := State.reset.Inv

/-- Every step keeps the invariant: memory and its syndromes stay in canonical form, the register table too, the event queue holds at most 64 records (R423), and each core's pod buffer
at most four entries, of rows of its own scratchpad, each row and slot once (R244). -/
def Obligations.StepKeepsInvariant : Prop := ∀ s t : State, s.Inv → step s = .next t → t.Inv

/-- R269, R270: the check byte of every word, from the 64 columns; the syndrome of a stored word, what each syndrome decodes to, and the data delivered. So every single
error is corrected and every double error found (R272), and poison is found. -/
def Obligations.WordCode : Prop :=
  (eccColumns.length = 64 ∧ (∀ i, i < 56 → popcount8 (eccColumns.getD i 0) = 3 ∧ eccColumns.getD i 0 < 256) ∧
    (∀ i j, i < j → j < 56 → eccColumns.getD i 0 < eccColumns.getD j 0) ∧
    eccColumns.drop 56 = [0x1F, 0x2F, 0x37, 0x3B, 0x3D, 0x3E, 0x4F, 0x57]) ∧
  (∀ (d : Dword) j, j < 8 → (eccCheck d).getLsbD j =
    decide (((List.range 64).filter fun i => d.getLsbD i && (eccColumns.getD i 0).testBit j).length % 2 = 1)) ∧
  (∀ w : Stored, eccCheck w.data ^^^ w.chk = w.syn) ∧
  (∀ (s : State) p wa src ctx, let w := s.stored p wa
    (s.readWord p wa src ctx).data = eccDeliver (eccDecode w.syn) w.data ∧ (s.readWord p wa src ctx).bad = (eccDecode w.syn).bad) ∧
  (eccDecode 0 = .clean ∧ eccDecode 0xFF = .poison ∧ (∀ j, j < 8 → eccDecode (BitVec.ofNat 8 (2 ^ j)) = .ceCheck) ∧
    (∀ i, i < 64 → eccDecode (BitVec.ofNat 8 (eccColumns.getD i 0)) = .ceData i) ∧
    (∀ x : Byte, x ≠ 0 → x ≠ 0xFF → popcount8 x.toNat ≠ 1 → x.toNat ∉ eccColumns → eccDecode x = .ue) ∧
    EccType.ue.bad = true ∧ EccType.poison.bad = true) ∧
  (∀ d : Dword, eccDeliver .clean d = d ∧ eccDeliver .ceCheck d = d ∧ eccDeliver .ue d = d ∧ eccDeliver .poison d = d ∧
    ∀ i, eccDeliver (.ceData i) d = d ^^^ BitVec.ofNat 64 (2 ^ i)) ∧
  (∀ (d : Dword) i, i < 64 → let bad := d ^^^ BitVec.ofNat 64 (2 ^ i)
    eccDecode (eccCheck bad ^^^ eccCheck d) = .ceData i ∧ eccDeliver (.ceData i) bad = d) ∧
  (∀ (d : Dword) i j, i < j → j < 64 →
    (eccDecode (eccCheck (d ^^^ BitVec.ofNat 64 (2 ^ i) ^^^ BitVec.ofNat 64 (2 ^ j)) ^^^ eccCheck d)).bad = true) ∧
  (∀ (d : Dword) i j, i < 64 → j < 8 →
    (eccDecode (eccCheck (d ^^^ BitVec.ofNat 64 (2 ^ i)) ^^^ (eccCheck d ^^^ BitVec.ofNat 8 (2 ^ j)))).bad = true)

/-! ## Statements of several parts -/

/-- Integer instructions write the result of their operation and nothing else. Where a clause rests on a choice of the model and not on a rule, the choice is that of log entry 15. -/
def Obligations.IntegerResults : Prop :=
  Sys2Proof.Claims.ImmediateResults ∧ Sys2Proof.Claims.RegisterResults

/-- Division with its special cases, and packed-decimal addition and subtraction. Where a clause rests on a choice of the model and not on a rule, the choice is that of log entry 15. -/
def Obligations.DivisionAndDecimal : Prop :=
  Sys2Proof.Claims.DivideResults ∧ Sys2Proof.Claims.DecimalResults

/-- Floating moves, classification and selection, and what a conversion to an integer gives. Where a clause rests on a choice of the model and not on a rule, the choice is that of log entry 88. -/
def Obligations.MovesAndConversions : Prop :=
  Sys2Proof.Claims.MoveResults ∧ Sys2Proof.Claims.IntegerConversion

/-- Enabled floating exceptions, BRK and reserved encodings trap precisely; real-time partitions take no trap. Where a clause rests on a choice of the model and not on a rule, the choice is that of log entries 22, 23 and 89. -/
def Obligations.Traps : Prop :=
  Sys2Proof.Claims.FloatTraps ∧ Sys2Proof.Claims.BreakAndReserved

/-- Loads deliver the corrected bytes; a misaligned access or one that reaches no memory is not made. Where a clause rests on a choice of the model and not on a rule, the choice is that of log entries 1, 19 and 90. -/
def Obligations.LoadsAndFailures : Prop :=
  Sys2Proof.Claims.LoadResults ∧ Sys2Proof.Claims.AccessFailures

/-- Conditional branches, CALL and CALLR. Where a clause rests on a choice of the model and not on a rule, the choice is that of log entry 15. -/
def Obligations.BranchesAndCalls : Prop :=
  Sys2Proof.Claims.BranchResults ∧ Sys2Proof.Claims.CallResults

/-- Hardware loops, NOP, IDLE, END and the flag barrier. Where a clause rests on a choice of the model and not on a rule, the choice is that of log entries 15 and 81. -/
def Obligations.LoopsAndSequencerControl : Prop :=
  Sys2Proof.Claims.LoopResults ∧ Sys2Proof.Claims.SequencerControl

/-- CSR reads and writes, and the posting of new flag bits by a snapshot. Where a clause rests on a choice of the model and not on a rule, the choice is that of log entries 21 and 81. -/
def Obligations.CsrsAndSnapshots : Prop :=
  Sys2Proof.Claims.CsrResults ∧ Sys2Proof.Claims.SnapshotResults

/-- ERET, the release of halted commands, and the end of a command. Where a clause rests on a choice of the model and not on a rule, the choice is that of log entries 81, 83 and 89. -/
def Obligations.ReturnsAndEnds : Prop :=
  Sys2Proof.Claims.TrapReturns ∧ Sys2Proof.Claims.EndResults

/-- SIG, SRST and WAIT post their operation; DMAGO starts a chain; DLAYER closes a layer. Where a clause rests on a choice of the model and not on a rule, the choice is that of log entry 22. -/
def Obligations.SyncAndStarts : Prop :=
  Sys2Proof.Claims.SyncResults ∧ Sys2Proof.Claims.StartResults

/-- A stalled WAIT ends; VLD and VST move a row register and 64 bytes. Where a clause rests on a choice of the model and not on a rule, the choice is that of log entries 1 and 81. -/
def Obligations.WaitsAndRowAccess : Prop :=
  Sys2Proof.Claims.WaitEnds ∧ Sys2Proof.Claims.RowAccess

/-- AMM puts its row steps on the arrays it names; their completion updates the accumulators; failures. Where a clause rests on a choice of the model and not on a rule, the choice is that of log entries 24, 26, 77 and 98. -/
def Obligations.MultiplySteps : Prop :=
  Sys2Proof.Claims.MultiplyResults ∧ Sys2Proof.Claims.StepsRead ∧ Sys2Proof.Claims.MultiplyFailures ∧ Sys2Proof.Claims.AccumulatorsComplete ∧ Sys2Proof.Claims.IntegerStep

/-- The reset sources, and the temperature readings with warning and trip (TAP and short-pulse clauses: model choices, log entries 9 and 10). Where a clause rests on a choice of the model and not on a rule, the choice is that of log entries 9, 10, 71 and 72. -/
def Obligations.ResetSourcesAndTemperature : Prop :=
  Sys2Proof.Claims.ResetSources ∧ Sys2Proof.Claims.Temperature

/-- Each boot state leads to the next, and training ends in RUN. Where a clause rests on a choice of the model and not on a rule, the choice is that of log entries 72, 73, 79 and 107. -/
def Obligations.BootAndTraining : Prop :=
  Sys2Proof.Claims.BootStates ∧ Sys2Proof.Claims.TrainingEnds

/-- Rollback raises, artifact verification and attestation reports. Where a clause rests on a choice of the model and not on a rule, the choice is that of log entries 4 and 74. -/
def Obligations.SecurityOperations : Prop :=
  Sys2Proof.Claims.RollbackRaises ∧ Sys2Proof.Claims.ArtifactVerification ∧ Sys2Proof.Claims.Attestation

/-- Memory BIST, LPDDR6 service, link checkers and power states. Where a clause rests on a choice of the model and not on a rule, the choice is that of log entries 72, 75, 78 and 79. -/
def Obligations.TestAndPower : Prop :=
  Sys2Proof.Claims.TestUnits ∧ Sys2Proof.Claims.PowerStates

/-- Timebase commits, snapshots, wraps, levels and coasting. Where a clause rests on a choice of the model and not on a rule, the choice is that of log entries 8, 32 and 64. -/
def Obligations.TimebaseCommitsAndClocks : Prop :=
  Sys2Proof.Claims.TimebaseCommits ∧ Sys2Proof.Claims.ClockEffects ∧ Sys2Proof.Claims.IncrementRange

/-- Edges at the phase loop, and what the entries of the event list do when they fire. Where a clause rests on a choice of the model and not on a rule, the choice is that of log entries 32, 38, 64, 93 and 96. -/
def Obligations.PhaseLoopAndTriggers : Prop :=
  Sys2Proof.Claims.PhaseLoopEdges ∧ Sys2Proof.Claims.Triggers

/-- Slots start and end in their frame, and a core begins the command of a position. Where a clause rests on a choice of the model and not on a rule, the choice is that of log entries 20, 51, 83, 94 and 95. -/
def Obligations.SlotsAndPositions : Prop :=
  Sys2Proof.Claims.SlotCommands ∧ Sys2Proof.Claims.PositionBegins

/-- Group B tiles begin in turn; writes reach the writable bits of Reedbed entries. Where a clause rests on a choice of the model and not on a rule, the choice is that of log entries 6, 16, 50, 51 and 92. -/
def Obligations.TilesAndReedbed : Prop :=
  Sys2Proof.Claims.TileBegins ∧ Sys2Proof.Claims.ReedbedWrites

/-- A commit begins the checks, and tables take effect at their anchors. Where a clause rests on a choice of the model and not on a rule, the choice is that of log entries 6, 53, 54 and 61. -/
def Obligations.TableLoads : Prop :=
  Sys2Proof.Claims.LoadsAndChecks ∧ Sys2Proof.Claims.TablesTakeEffect

/-- Spills and hot-set swaps, command rings, and due output commits. Where a clause rests on a choice of the model and not on a rule, the choice is that of log entries 49, 52, 55, 77 and 100. -/
def Obligations.SpillsAndRings : Prop :=
  Sys2Proof.Claims.SpillsAndSwaps ∧ Sys2Proof.Claims.CommandRings ∧ Sys2Proof.Claims.OutputCommits

/-- Calibration windows close, and the calibration group commits. Where a clause rests on a choice of the model and not on a rule, the choice is that of log entries 56, 105 and 106. -/
def Obligations.Calibration : Prop :=
  Sys2Proof.Claims.WindowsClose ∧ Sys2Proof.Claims.CalibrationGroup

/-- Pod drains, correction write-backs and scrubbing. Where a clause rests on a choice of the model and not on a rule, the choice is that of log entries 1, 57 and 77. -/
def Obligations.DrainsAndScrubs : Prop :=
  Sys2Proof.Claims.DrainsAndCorrections ∧ Sys2Proof.Claims.Scrubbing

/-- Remap commits, error injection and bank power. Where a clause rests on a choice of the model and not on a rule, the choice is that of log entries 1, 58 and 75. -/
def Obligations.RemapsAndBankPower : Prop :=
  Sys2Proof.Claims.RemapAndInjection ∧ Sys2Proof.Claims.BankPower

/-- Control of DMA channels, the end of descriptors and chains, and the watchdog. Where a clause rests on a choice of the model and not on a rule, the choice is that of log entries 43, 48 and 108. -/
def Obligations.ChannelsAndChains : Prop :=
  Sys2Proof.Claims.ChannelControl ∧ Sys2Proof.Claims.ChainsEnd

/-- Descriptors are read and obeyed, or halt their channel. Where a clause rests on a choice of the model and not on a rule, the choice is that of log entries 45, 48, 77 and 108. -/
def Obligations.Descriptors : Prop :=
  Sys2Proof.Claims.DescriptorPrograms

/-- The LPDDR6 controller, and the links and groups of the Ethernet ports. Where a clause rests on a choice of the model and not on a rule, the choice is that of log entries 30 and 79. -/
def Obligations.MemoryControllerAndLinks : Prop :=
  Sys2Proof.Claims.MemoryController ∧ Sys2Proof.Claims.EthernetLinks

/-- Frames received, launched and sent, and the host rings. Where a clause rests on a choice of the model and not on a rule, the choice is that of log entries 30, 40, 41 and 44. -/
def Obligations.FramesAndLaunches : Prop :=
  Sys2Proof.Claims.EthernetFrames ∧ Sys2Proof.Claims.LaunchesAndRings

/-- MEAS frames are checked and placed; a commit of the parse group. Where a clause rests on a choice of the model and not on a rule, the choice is that of log entries 33, 36, 62 and 77. -/
def Obligations.MeasurementsAndParseGroup : Prop :=
  Sys2Proof.Claims.Measurements ∧ Sys2Proof.Claims.ParseGroup

/-- Heartbeats, the drive, mirror lanes and the mirror group. Where a clause rests on a choice of the model and not on a rule, the choice is that of log entry 47. -/
def Obligations.PairOperation : Prop :=
  Sys2Proof.Claims.HeartbeatsAndDrive ∧ Sys2Proof.Claims.LanesAndMirrorGroup

/-- Verdicts on steps, and inputs noticed, asked for and forwarded. Where a clause rests on a choice of the model and not on a rule, the choice is that of log entries 31 and 47. -/
def Obligations.VerdictsAndInputs : Prop :=
  Sys2Proof.Claims.Verdicts ∧ Sys2Proof.Claims.ForwardedInputs

/-- Register reads with their latches, and reads for the partner without side effect. Where a clause rests on a choice of the model and not on a rule, the choice is that of log entry 17. -/
def Obligations.PartnerAndRegisterReads : Prop :=
  Sys2Proof.Claims.PartnerReads ∧ Sys2Proof.Claims.RegisterReads

/-- BAR2 accesses, and reads the device makes in host memory. Where a clause rests on a choice of the model and not on a rule, the choice is that of log entries 28, 65 and 77. -/
def Obligations.HostWindows : Prop :=
  Sys2Proof.Claims.WindowAccesses ∧ Sys2Proof.Claims.OutboundReads

/-- The event log, escalation and host liveness. Where a clause rests on a choice of the model and not on a rule, the choice is that of log entries 29, 68 and 69. -/
def Obligations.EventLogAndEscalation : Prop :=
  Sys2Proof.Claims.EventLog ∧ Sys2Proof.Claims.EscalationAndLiveness

/-- A step runs the command at the front of the queue on the rest; an idle cycle is a tick (the idle clause: model choice, log entry 8). Where a clause rests on a choice of the model and not on a rule, the choice is that of log entry 8. -/
def Obligations.StepRunsFront : Prop :=
  Sys2Proof.Claims.StepRunsFrontPart ∧ Sys2Proof.Claims.IdleTick

/-- What reset leaves, and the invariant there. Where a clause rests on a choice of the model and not on a rule, the choice is that of log entries 2, 3, 5, 28 and 29. -/
def Obligations.ResetValues : Prop :=
  Sys2Proof.Claims.ResetValuesPart ∧ Sys2Proof.Claims.InvariantAtReset
end

