-- ==== Sys2Proof/Laws/FMap.lean ====
section
/-! SUPPORT. The laws of sparse tables: what a lookup gives after an update, and that an update keeps the keys rising. No
law but the last ones needs the table to be in canonical form. -/

namespace Sys2Proof.Machine.FMap

variable {α : Type}

/-- Every key of a table lies above `i`. -/
def Above (i : Nat) (m : FMap α) : Prop := ∀ c ∈ m, i < c.1

theorem find_above (i j : Nat) (m : FMap α) (h : i < j) : find (above i m) j = find m j := by
  induction m with
  | nil => rfl
  | cons c r ih =>
    obtain ⟨k, v⟩ := c
    simp only [above]
    split
    · rfl
    · rw [ih]; simp only [find]
      rw [if_neg (by omega), if_neg (by omega)]

theorem find_above_low (i j : Nat) (m : FMap α) (h : j ≤ i) : find (above i m) j = none := by
  induction m with
  | nil => rfl
  | cons c r ih =>
    obtain ⟨k, v⟩ := c
    simp only [above]
    split
    · simp only [find]; rw [if_pos (by omega)]
    · exact ih

/-- A lookup after an update. -/
theorem find_upd (m : FMap α) (i : Nat) (o : Option α) (j : Nat) : find (upd m i o) j = if j = i then o else find m j := by
  induction m with
  | nil =>
    cases o <;> simp only [upd, find]
    · split <;> rfl
    · by_cases h : j = i
      · subst h; simp
      · simp [h]
  | cons c r ih =>
    obtain ⟨k, v⟩ := c
    simp only [upd]
    by_cases h1 : i < k
    · rw [if_pos h1]
      cases o with
      | none =>
        by_cases h : j = i
        · subst h; simp [find, h1]
        · simp [h]
      | some x =>
        simp only [find]
        by_cases h : j = i
        · subst h; simp
        · by_cases h2 : j < i
          · rw [if_pos h2, if_neg h, if_pos (by omega)]
          · rw [if_neg h2, if_neg h]
    · rw [if_neg h1]
      by_cases h3 : i = k
      · subst h3
        rw [if_pos rfl]
        cases o with
        | none =>
          by_cases h : j = i
          · subst h; simp [find_above_low]
          · by_cases h2 : j < i
            · rw [find_above_low _ _ _ (by omega)]; simp [find, h2, h]
            · rw [find_above _ _ _ (by omega)]; simp [find, h2, h]
        | some x =>
          simp only [find]
          by_cases h : j = i
          · subst h; simp
          · simp [h]
      · rw [if_neg h3]
        simp only [find, ih]
        by_cases h : j = i
        · subst h
          rw [if_neg h1, if_neg h3]; simp
        · simp [h]

/-- A lookup with a default after a `set`. -/
theorem get_set [DecidableEq α] (d : α) (m : FMap α) (i j : Nat) (v : α) : get d (set d m i v) j = if j = i then v else get d m j := by
  simp only [get, set, find_upd]
  by_cases h : j = i
  · by_cases hv : v = d <;> simp [h, hv]
  · simp [h]

@[simp] theorem get_set_same [DecidableEq α] (d : α) (m : FMap α) (i : Nat) (v : α) : get d (set d m i v) i = v := by simp [get_set]

theorem get_set_other [DecidableEq α] (d : α) (m : FMap α) {i j : Nat} (v : α) (h : j ≠ i) : get d (set d m i v) j = get d m j := by
  simp [get_set, h]

@[simp] theorem get_nil (d : α) (i : Nat) : get d ([] : FMap α) i = d := rfl

theorem rising_iff (c : Nat × α) (r : FMap α) : rising (c :: r) = true ↔ Above c.1 r ∧ rising r = true := by
  induction r generalizing c with
  | nil => simp [rising, Above]
  | cons e r ih =>
    obtain ⟨k, v⟩ := c
    obtain ⟨k', v'⟩ := e
    simp only [rising, Bool.and_eq_true, decide_eq_true_eq, ih]
    constructor
    · rintro ⟨h, ha, hr⟩
      refine ⟨?_, ha, hr⟩
      intro c hc
      rcases List.mem_cons.mp hc with rfl | hc
      · exact h
      · exact Nat.lt_trans h (ha c hc)
    · rintro ⟨h, ha, hr⟩
      exact ⟨h (k', v') List.mem_cons_self, ha, hr⟩

theorem rising_above (i : Nat) (m : FMap α) (h : rising m = true) : rising (above i m) = true := by
  induction m with
  | nil => rfl
  | cons c r ih =>
    obtain ⟨k, v⟩ := c
    simp only [above]
    split
    · exact h
    · exact ih ((rising_iff _ _).mp h).2

theorem above_above (i j : Nat) (m : FMap α) (h : Above j m) : Above j (above i m) := by
  induction m with
  | nil => exact h
  | cons c r ih =>
    obtain ⟨k, v⟩ := c
    simp only [above]
    split
    · exact h
    · exact ih fun c hc => h c (List.mem_cons_of_mem _ hc)

theorem above_all (i : Nat) (m : FMap α) (h : rising m = true) : Above i (above i m) := by
  induction m with
  | nil => intro c hc; cases hc
  | cons c r ih =>
    obtain ⟨k, v⟩ := c
    obtain ⟨ha, hr⟩ := (rising_iff _ _).mp h
    simp only [above]
    split
    · intro c hc
      rcases List.mem_cons.mp hc with rfl | hc
      · assumption
      · exact Nat.lt_trans ‹_› (ha c hc)
    · exact ih hr

theorem above_upd (m : FMap α) (i j : Nat) (o : Option α) (h : Above j m) (hj : j < i) : Above j (upd m i o) := by
  induction m with
  | nil =>
    cases o
    · exact h
    · intro c hc; simp only [upd, List.mem_singleton] at hc; subst hc; exact hj
  | cons c r ih =>
    obtain ⟨k, v⟩ := c
    have hr : Above j r := fun c hc => h c (List.mem_cons_of_mem _ hc)
    simp only [upd]
    split
    · cases o
      · exact h
      · intro c hc
        rcases List.mem_cons.mp hc with rfl | hc
        · exact hj
        · exact h c hc
    · split
      · cases o
        · exact above_above _ _ _ hr
        · intro c hc
          rcases List.mem_cons.mp hc with rfl | hc
          · exact hj
          · exact hr c hc
      · intro c hc
        rcases List.mem_cons.mp hc with rfl | hc
        · exact h (k, v) List.mem_cons_self
        · exact ih hr c hc

/-- An update keeps the keys rising. -/
theorem rising_upd (m : FMap α) (i : Nat) (o : Option α) (h : rising m = true) : rising (upd m i o) = true := by
  induction m with
  | nil => cases o <;> rfl
  | cons c r ih =>
    obtain ⟨k, v⟩ := c
    obtain ⟨ha, hr⟩ := (rising_iff _ _).mp h
    simp only [upd]
    split
    · cases o
      · exact h
      · refine (rising_iff _ _).mpr ⟨?_, h⟩
        intro c hc
        rcases List.mem_cons.mp hc with rfl | hc
        · assumption
        · exact Nat.lt_trans ‹_› (ha c hc)
    · split
      · cases o
        · exact rising_above _ _ hr
        · rename_i hk _
          exact (rising_iff _ _).mpr ⟨by rw [show i = k from ‹_›]; exact ha, hr⟩
      · exact (rising_iff _ _).mpr ⟨above_upd _ _ _ _ ha (by simp only; omega), ih hr⟩

/-- A `set` keeps the keys rising. -/
theorem rising_set [DecidableEq α] (d : α) (m : FMap α) (i : Nat) (v : α) (h : rising m = true) : rising (set d m i v) = true :=
  rising_upd _ _ _ h

/-- A filter keeps the keys rising. -/
theorem rising_filter (m : FMap α) (p : Nat × α → Bool) (h : rising m = true) : rising (m.filter p) = true := by
  induction m with
  | nil => rfl
  | cons c r ih =>
    obtain ⟨ha, hr⟩ := (rising_iff _ _).mp h
    rw [List.filter_cons]
    split
    · refine (rising_iff _ _).mpr ⟨?_, ih hr⟩
      intro c hc
      exact ha c (List.mem_of_mem_filter hc)
    · exact ih hr

end Sys2Proof.Machine.FMap
end

