-- ==== Sys2Proof/Laws/State.lean ====
section
/-! SUPPORT. What each update of the state leaves alone, field by field, and what a register, a core, a channel or a unit
reads after it. -/

namespace Sys2Proof.Machine

/-! ### wr -/

@[simp] theorem State.wr_latch (s : State) (o : Nat) (v : Word) : (s.wr o v).latch = s.latch := rfl
@[simp] theorem State.wr_mem (s : State) (o : Nat) (v : Word) : (s.wr o v).mem = s.mem := rfl
@[simp] theorem State.wr_syn (s : State) (o : Nat) (v : Word) : (s.wr o v).syn = s.syn := rfl
@[simp] theorem State.wr_fuses (s : State) (o : Nat) (v : Word) : (s.wr o v).fuses = s.fuses := rfl
@[simp] theorem State.wr_boot (s : State) (o : Nat) (v : Word) : (s.wr o v).boot = s.boot := rfl
@[simp] theorem State.wr_tb (s : State) (o : Nat) (v : Word) : (s.wr o v).tb = s.tb := rfl
@[simp] theorem State.wr_sch (s : State) (o : Nat) (v : Word) : (s.wr o v).sch = s.sch := rfl
@[simp] theorem State.wr_cores (s : State) (o : Nat) (v : Word) : (s.wr o v).cores = s.cores := rfl
@[simp] theorem State.wr_fen (s : State) (o : Nat) (v : Word) : (s.wr o v).fen = s.fen := rfl
@[simp] theorem State.wr_counts (s : State) (o : Nat) (v : Word) : (s.wr o v).counts = s.counts := rfl
@[simp] theorem State.wr_syncOps (s : State) (o : Nat) (v : Word) : (s.wr o v).syncOps = s.syncOps := rfl
@[simp] theorem State.wr_integ (s : State) (o : Nat) (v : Word) : (s.wr o v).integ = s.integ := rfl
@[simp] theorem State.wr_banks (s : State) (o : Nat) (v : Word) : (s.wr o v).banks = s.banks := rfl
@[simp] theorem State.wr_dma (s : State) (o : Nat) (v : Word) : (s.wr o v).dma = s.dma := rfl
@[simp] theorem State.wr_dig (s : State) (o : Nat) (v : Word) : (s.wr o v).dig = s.dig := rfl
@[simp] theorem State.wr_net (s : State) (o : Nat) (v : Word) : (s.wr o v).net = s.net := rfl
@[simp] theorem State.wr_pair (s : State) (o : Nat) (v : Word) : (s.wr o v).pair = s.pair := rfl
@[simp] theorem State.wr_host (s : State) (o : Nat) (v : Word) : (s.wr o v).host = s.host := rfl
@[simp] theorem State.wr_log (s : State) (o : Nat) (v : Word) : (s.wr o v).log = s.log := rfl
@[simp] theorem State.wr_esc (s : State) (o : Nat) (v : Word) : (s.wr o v).esc = s.esc := rfl
@[simp] theorem State.wr_cyc (s : State) (o : Nat) (v : Word) : (s.wr o v).cyc = s.cyc := rfl
@[simp] theorem State.wr_out (s : State) (o : Nat) (v : Word) : (s.wr o v).out = s.out := rfl
@[simp] theorem State.wr_free (s : State) (o : Nat) (v : Word) : (s.wr o v).free = s.free := rfl
@[simp] theorem State.wr_memReq (s : State) (o : Nat) (v : Word) : (s.wr o v).memReq = s.memReq := rfl
@[simp] theorem State.wr_pending (s : State) (o : Nat) (v : Word) : (s.wr o v).pending = s.pending := rfl
@[simp] theorem State.wr_core (s : State) (o : Nat) (v : Word) (z : Nat) : (s.wr o v).core z = s.core z := rfl
@[simp] theorem State.wr_dmaOf (s : State) (o : Nat) (v : Word) (z : Nat) : (s.wr o v).dmaOf z = s.dmaOf z := rfl
@[simp] theorem State.wr_fenOf (s : State) (o : Nat) (v : Word) (z : Nat) : (s.wr o v).fenOf z = s.fenOf z := rfl
@[simp] theorem State.wr_integOf (s : State) (o : Nat) (v : Word) (z : Nat) : (s.wr o v).integOf z = s.integOf z := rfl
@[simp] theorem State.wr_byteAt (s : State) (o : Nat) (v : Word) (z : Nat) : (s.wr o v).byteAt z = s.byteAt z := rfl
@[simp] theorem State.wr_count (s : State) (o : Nat) (v : Word) (z : Nat) : (s.wr o v).count z = s.count z := rfl
@[simp] theorem State.wr_escOf (s : State) (o : Nat) (v : Word) (z : Nat) : (s.wr o v).escOf z = s.escOf z := rfl
@[simp] theorem State.wr_running (s : State) (o : Nat) (v : Word) : (s.wr o v).running = s.running := rfl

/-! ### wr64 -/

@[simp] theorem State.wr64_latch (s : State) (o : Nat) (v : Dword) : (s.wr64 o v).latch = s.latch := rfl
@[simp] theorem State.wr64_mem (s : State) (o : Nat) (v : Dword) : (s.wr64 o v).mem = s.mem := rfl
@[simp] theorem State.wr64_syn (s : State) (o : Nat) (v : Dword) : (s.wr64 o v).syn = s.syn := rfl
@[simp] theorem State.wr64_fuses (s : State) (o : Nat) (v : Dword) : (s.wr64 o v).fuses = s.fuses := rfl
@[simp] theorem State.wr64_boot (s : State) (o : Nat) (v : Dword) : (s.wr64 o v).boot = s.boot := rfl
@[simp] theorem State.wr64_tb (s : State) (o : Nat) (v : Dword) : (s.wr64 o v).tb = s.tb := rfl
@[simp] theorem State.wr64_sch (s : State) (o : Nat) (v : Dword) : (s.wr64 o v).sch = s.sch := rfl
@[simp] theorem State.wr64_cores (s : State) (o : Nat) (v : Dword) : (s.wr64 o v).cores = s.cores := rfl
@[simp] theorem State.wr64_fen (s : State) (o : Nat) (v : Dword) : (s.wr64 o v).fen = s.fen := rfl
@[simp] theorem State.wr64_counts (s : State) (o : Nat) (v : Dword) : (s.wr64 o v).counts = s.counts := rfl
@[simp] theorem State.wr64_syncOps (s : State) (o : Nat) (v : Dword) : (s.wr64 o v).syncOps = s.syncOps := rfl
@[simp] theorem State.wr64_integ (s : State) (o : Nat) (v : Dword) : (s.wr64 o v).integ = s.integ := rfl
@[simp] theorem State.wr64_banks (s : State) (o : Nat) (v : Dword) : (s.wr64 o v).banks = s.banks := rfl
@[simp] theorem State.wr64_dma (s : State) (o : Nat) (v : Dword) : (s.wr64 o v).dma = s.dma := rfl
@[simp] theorem State.wr64_dig (s : State) (o : Nat) (v : Dword) : (s.wr64 o v).dig = s.dig := rfl
@[simp] theorem State.wr64_net (s : State) (o : Nat) (v : Dword) : (s.wr64 o v).net = s.net := rfl
@[simp] theorem State.wr64_pair (s : State) (o : Nat) (v : Dword) : (s.wr64 o v).pair = s.pair := rfl
@[simp] theorem State.wr64_host (s : State) (o : Nat) (v : Dword) : (s.wr64 o v).host = s.host := rfl
@[simp] theorem State.wr64_log (s : State) (o : Nat) (v : Dword) : (s.wr64 o v).log = s.log := rfl
@[simp] theorem State.wr64_esc (s : State) (o : Nat) (v : Dword) : (s.wr64 o v).esc = s.esc := rfl
@[simp] theorem State.wr64_cyc (s : State) (o : Nat) (v : Dword) : (s.wr64 o v).cyc = s.cyc := rfl
@[simp] theorem State.wr64_out (s : State) (o : Nat) (v : Dword) : (s.wr64 o v).out = s.out := rfl
@[simp] theorem State.wr64_free (s : State) (o : Nat) (v : Dword) : (s.wr64 o v).free = s.free := rfl
@[simp] theorem State.wr64_memReq (s : State) (o : Nat) (v : Dword) : (s.wr64 o v).memReq = s.memReq := rfl
@[simp] theorem State.wr64_pending (s : State) (o : Nat) (v : Dword) : (s.wr64 o v).pending = s.pending := rfl
@[simp] theorem State.wr64_core (s : State) (o : Nat) (v : Dword) (z : Nat) : (s.wr64 o v).core z = s.core z := rfl
@[simp] theorem State.wr64_dmaOf (s : State) (o : Nat) (v : Dword) (z : Nat) : (s.wr64 o v).dmaOf z = s.dmaOf z := rfl
@[simp] theorem State.wr64_fenOf (s : State) (o : Nat) (v : Dword) (z : Nat) : (s.wr64 o v).fenOf z = s.fenOf z := rfl
@[simp] theorem State.wr64_integOf (s : State) (o : Nat) (v : Dword) (z : Nat) : (s.wr64 o v).integOf z = s.integOf z := rfl
@[simp] theorem State.wr64_byteAt (s : State) (o : Nat) (v : Dword) (z : Nat) : (s.wr64 o v).byteAt z = s.byteAt z := rfl
@[simp] theorem State.wr64_count (s : State) (o : Nat) (v : Dword) (z : Nat) : (s.wr64 o v).count z = s.count z := rfl
@[simp] theorem State.wr64_escOf (s : State) (o : Nat) (v : Dword) (z : Nat) : (s.wr64 o v).escOf z = s.escOf z := rfl
@[simp] theorem State.wr64_running (s : State) (o : Nat) (v : Dword) : (s.wr64 o v).running = s.running := rfl

/-! ### setField -/

@[simp] theorem State.setField_latch (s : State) (o lo n v : Nat) : (s.setField o lo n v).latch = s.latch := rfl
@[simp] theorem State.setField_mem (s : State) (o lo n v : Nat) : (s.setField o lo n v).mem = s.mem := rfl
@[simp] theorem State.setField_syn (s : State) (o lo n v : Nat) : (s.setField o lo n v).syn = s.syn := rfl
@[simp] theorem State.setField_fuses (s : State) (o lo n v : Nat) : (s.setField o lo n v).fuses = s.fuses := rfl
@[simp] theorem State.setField_boot (s : State) (o lo n v : Nat) : (s.setField o lo n v).boot = s.boot := rfl
@[simp] theorem State.setField_tb (s : State) (o lo n v : Nat) : (s.setField o lo n v).tb = s.tb := rfl
@[simp] theorem State.setField_sch (s : State) (o lo n v : Nat) : (s.setField o lo n v).sch = s.sch := rfl
@[simp] theorem State.setField_cores (s : State) (o lo n v : Nat) : (s.setField o lo n v).cores = s.cores := rfl
@[simp] theorem State.setField_fen (s : State) (o lo n v : Nat) : (s.setField o lo n v).fen = s.fen := rfl
@[simp] theorem State.setField_counts (s : State) (o lo n v : Nat) : (s.setField o lo n v).counts = s.counts := rfl
@[simp] theorem State.setField_syncOps (s : State) (o lo n v : Nat) : (s.setField o lo n v).syncOps = s.syncOps := rfl
@[simp] theorem State.setField_integ (s : State) (o lo n v : Nat) : (s.setField o lo n v).integ = s.integ := rfl
@[simp] theorem State.setField_banks (s : State) (o lo n v : Nat) : (s.setField o lo n v).banks = s.banks := rfl
@[simp] theorem State.setField_dma (s : State) (o lo n v : Nat) : (s.setField o lo n v).dma = s.dma := rfl
@[simp] theorem State.setField_dig (s : State) (o lo n v : Nat) : (s.setField o lo n v).dig = s.dig := rfl
@[simp] theorem State.setField_net (s : State) (o lo n v : Nat) : (s.setField o lo n v).net = s.net := rfl
@[simp] theorem State.setField_pair (s : State) (o lo n v : Nat) : (s.setField o lo n v).pair = s.pair := rfl
@[simp] theorem State.setField_host (s : State) (o lo n v : Nat) : (s.setField o lo n v).host = s.host := rfl
@[simp] theorem State.setField_log (s : State) (o lo n v : Nat) : (s.setField o lo n v).log = s.log := rfl
@[simp] theorem State.setField_esc (s : State) (o lo n v : Nat) : (s.setField o lo n v).esc = s.esc := rfl
@[simp] theorem State.setField_cyc (s : State) (o lo n v : Nat) : (s.setField o lo n v).cyc = s.cyc := rfl
@[simp] theorem State.setField_out (s : State) (o lo n v : Nat) : (s.setField o lo n v).out = s.out := rfl
@[simp] theorem State.setField_free (s : State) (o lo n v : Nat) : (s.setField o lo n v).free = s.free := rfl
@[simp] theorem State.setField_memReq (s : State) (o lo n v : Nat) : (s.setField o lo n v).memReq = s.memReq := rfl
@[simp] theorem State.setField_pending (s : State) (o lo n v : Nat) : (s.setField o lo n v).pending = s.pending := rfl
@[simp] theorem State.setField_core (s : State) (o lo n v : Nat) (z : Nat) : (s.setField o lo n v).core z = s.core z := rfl
@[simp] theorem State.setField_dmaOf (s : State) (o lo n v : Nat) (z : Nat) : (s.setField o lo n v).dmaOf z = s.dmaOf z := rfl
@[simp] theorem State.setField_fenOf (s : State) (o lo n v : Nat) (z : Nat) : (s.setField o lo n v).fenOf z = s.fenOf z := rfl
@[simp] theorem State.setField_integOf (s : State) (o lo n v : Nat) (z : Nat) : (s.setField o lo n v).integOf z = s.integOf z := rfl
@[simp] theorem State.setField_byteAt (s : State) (o lo n v : Nat) (z : Nat) : (s.setField o lo n v).byteAt z = s.byteAt z := rfl
@[simp] theorem State.setField_count (s : State) (o lo n v : Nat) (z : Nat) : (s.setField o lo n v).count z = s.count z := rfl
@[simp] theorem State.setField_escOf (s : State) (o lo n v : Nat) (z : Nat) : (s.setField o lo n v).escOf z = s.escOf z := rfl
@[simp] theorem State.setField_running (s : State) (o lo n v : Nat) : (s.setField o lo n v).running = s.running := rfl

/-! ### setBits -/

@[simp] theorem State.setBits_latch (s : State) (o : Nat) (m : Word) : (s.setBits o m).latch = s.latch := rfl
@[simp] theorem State.setBits_mem (s : State) (o : Nat) (m : Word) : (s.setBits o m).mem = s.mem := rfl
@[simp] theorem State.setBits_syn (s : State) (o : Nat) (m : Word) : (s.setBits o m).syn = s.syn := rfl
@[simp] theorem State.setBits_fuses (s : State) (o : Nat) (m : Word) : (s.setBits o m).fuses = s.fuses := rfl
@[simp] theorem State.setBits_boot (s : State) (o : Nat) (m : Word) : (s.setBits o m).boot = s.boot := rfl
@[simp] theorem State.setBits_tb (s : State) (o : Nat) (m : Word) : (s.setBits o m).tb = s.tb := rfl
@[simp] theorem State.setBits_sch (s : State) (o : Nat) (m : Word) : (s.setBits o m).sch = s.sch := rfl
@[simp] theorem State.setBits_cores (s : State) (o : Nat) (m : Word) : (s.setBits o m).cores = s.cores := rfl
@[simp] theorem State.setBits_fen (s : State) (o : Nat) (m : Word) : (s.setBits o m).fen = s.fen := rfl
@[simp] theorem State.setBits_counts (s : State) (o : Nat) (m : Word) : (s.setBits o m).counts = s.counts := rfl
@[simp] theorem State.setBits_syncOps (s : State) (o : Nat) (m : Word) : (s.setBits o m).syncOps = s.syncOps := rfl
@[simp] theorem State.setBits_integ (s : State) (o : Nat) (m : Word) : (s.setBits o m).integ = s.integ := rfl
@[simp] theorem State.setBits_banks (s : State) (o : Nat) (m : Word) : (s.setBits o m).banks = s.banks := rfl
@[simp] theorem State.setBits_dma (s : State) (o : Nat) (m : Word) : (s.setBits o m).dma = s.dma := rfl
@[simp] theorem State.setBits_dig (s : State) (o : Nat) (m : Word) : (s.setBits o m).dig = s.dig := rfl
@[simp] theorem State.setBits_net (s : State) (o : Nat) (m : Word) : (s.setBits o m).net = s.net := rfl
@[simp] theorem State.setBits_pair (s : State) (o : Nat) (m : Word) : (s.setBits o m).pair = s.pair := rfl
@[simp] theorem State.setBits_host (s : State) (o : Nat) (m : Word) : (s.setBits o m).host = s.host := rfl
@[simp] theorem State.setBits_log (s : State) (o : Nat) (m : Word) : (s.setBits o m).log = s.log := rfl
@[simp] theorem State.setBits_esc (s : State) (o : Nat) (m : Word) : (s.setBits o m).esc = s.esc := rfl
@[simp] theorem State.setBits_out (s : State) (o : Nat) (m : Word) : (s.setBits o m).out = s.out := rfl
@[simp] theorem State.setBits_free (s : State) (o : Nat) (m : Word) : (s.setBits o m).free = s.free := rfl
@[simp] theorem State.setBits_memReq (s : State) (o : Nat) (m : Word) : (s.setBits o m).memReq = s.memReq := rfl
@[simp] theorem State.setBits_pending (s : State) (o : Nat) (m : Word) : (s.setBits o m).pending = s.pending := rfl
@[simp] theorem State.setBits_core (s : State) (o : Nat) (m : Word) (z : Nat) : (s.setBits o m).core z = s.core z := rfl
@[simp] theorem State.setBits_dmaOf (s : State) (o : Nat) (m : Word) (z : Nat) : (s.setBits o m).dmaOf z = s.dmaOf z := rfl
@[simp] theorem State.setBits_fenOf (s : State) (o : Nat) (m : Word) (z : Nat) : (s.setBits o m).fenOf z = s.fenOf z := rfl
@[simp] theorem State.setBits_integOf (s : State) (o : Nat) (m : Word) (z : Nat) : (s.setBits o m).integOf z = s.integOf z := rfl
@[simp] theorem State.setBits_byteAt (s : State) (o : Nat) (m : Word) (z : Nat) : (s.setBits o m).byteAt z = s.byteAt z := rfl
@[simp] theorem State.setBits_count (s : State) (o : Nat) (m : Word) (z : Nat) : (s.setBits o m).count z = s.count z := rfl
@[simp] theorem State.setBits_escOf (s : State) (o : Nat) (m : Word) (z : Nat) : (s.setBits o m).escOf z = s.escOf z := rfl
@[simp] theorem State.setBits_running (s : State) (o : Nat) (m : Word) : (s.setBits o m).running = s.running := rfl

/-! ### clrBits -/

@[simp] theorem State.clrBits_latch (s : State) (o : Nat) (m : Word) : (s.clrBits o m).latch = s.latch := rfl
@[simp] theorem State.clrBits_mem (s : State) (o : Nat) (m : Word) : (s.clrBits o m).mem = s.mem := rfl
@[simp] theorem State.clrBits_syn (s : State) (o : Nat) (m : Word) : (s.clrBits o m).syn = s.syn := rfl
@[simp] theorem State.clrBits_fuses (s : State) (o : Nat) (m : Word) : (s.clrBits o m).fuses = s.fuses := rfl
@[simp] theorem State.clrBits_boot (s : State) (o : Nat) (m : Word) : (s.clrBits o m).boot = s.boot := rfl
@[simp] theorem State.clrBits_tb (s : State) (o : Nat) (m : Word) : (s.clrBits o m).tb = s.tb := rfl
@[simp] theorem State.clrBits_sch (s : State) (o : Nat) (m : Word) : (s.clrBits o m).sch = s.sch := rfl
@[simp] theorem State.clrBits_cores (s : State) (o : Nat) (m : Word) : (s.clrBits o m).cores = s.cores := rfl
@[simp] theorem State.clrBits_fen (s : State) (o : Nat) (m : Word) : (s.clrBits o m).fen = s.fen := rfl
@[simp] theorem State.clrBits_counts (s : State) (o : Nat) (m : Word) : (s.clrBits o m).counts = s.counts := rfl
@[simp] theorem State.clrBits_syncOps (s : State) (o : Nat) (m : Word) : (s.clrBits o m).syncOps = s.syncOps := rfl
@[simp] theorem State.clrBits_integ (s : State) (o : Nat) (m : Word) : (s.clrBits o m).integ = s.integ := rfl
@[simp] theorem State.clrBits_banks (s : State) (o : Nat) (m : Word) : (s.clrBits o m).banks = s.banks := rfl
@[simp] theorem State.clrBits_dma (s : State) (o : Nat) (m : Word) : (s.clrBits o m).dma = s.dma := rfl
@[simp] theorem State.clrBits_dig (s : State) (o : Nat) (m : Word) : (s.clrBits o m).dig = s.dig := rfl
@[simp] theorem State.clrBits_net (s : State) (o : Nat) (m : Word) : (s.clrBits o m).net = s.net := rfl
@[simp] theorem State.clrBits_pair (s : State) (o : Nat) (m : Word) : (s.clrBits o m).pair = s.pair := rfl
@[simp] theorem State.clrBits_host (s : State) (o : Nat) (m : Word) : (s.clrBits o m).host = s.host := rfl
@[simp] theorem State.clrBits_log (s : State) (o : Nat) (m : Word) : (s.clrBits o m).log = s.log := rfl
@[simp] theorem State.clrBits_esc (s : State) (o : Nat) (m : Word) : (s.clrBits o m).esc = s.esc := rfl
@[simp] theorem State.clrBits_cyc (s : State) (o : Nat) (m : Word) : (s.clrBits o m).cyc = s.cyc := rfl
@[simp] theorem State.clrBits_out (s : State) (o : Nat) (m : Word) : (s.clrBits o m).out = s.out := rfl
@[simp] theorem State.clrBits_free (s : State) (o : Nat) (m : Word) : (s.clrBits o m).free = s.free := rfl
@[simp] theorem State.clrBits_memReq (s : State) (o : Nat) (m : Word) : (s.clrBits o m).memReq = s.memReq := rfl
@[simp] theorem State.clrBits_pending (s : State) (o : Nat) (m : Word) : (s.clrBits o m).pending = s.pending := rfl
@[simp] theorem State.clrBits_core (s : State) (o : Nat) (m : Word) (z : Nat) : (s.clrBits o m).core z = s.core z := rfl
@[simp] theorem State.clrBits_dmaOf (s : State) (o : Nat) (m : Word) (z : Nat) : (s.clrBits o m).dmaOf z = s.dmaOf z := rfl
@[simp] theorem State.clrBits_fenOf (s : State) (o : Nat) (m : Word) (z : Nat) : (s.clrBits o m).fenOf z = s.fenOf z := rfl
@[simp] theorem State.clrBits_integOf (s : State) (o : Nat) (m : Word) (z : Nat) : (s.clrBits o m).integOf z = s.integOf z := rfl
@[simp] theorem State.clrBits_byteAt (s : State) (o : Nat) (m : Word) (z : Nat) : (s.clrBits o m).byteAt z = s.byteAt z := rfl
@[simp] theorem State.clrBits_count (s : State) (o : Nat) (m : Word) (z : Nat) : (s.clrBits o m).count z = s.count z := rfl
@[simp] theorem State.clrBits_escOf (s : State) (o : Nat) (m : Word) (z : Nat) : (s.clrBits o m).escOf z = s.escOf z := rfl
@[simp] theorem State.clrBits_running (s : State) (o : Nat) (m : Word) : (s.clrBits o m).running = s.running := rfl

/-! ### addSat -/

@[simp] theorem State.addSat_latch (s : State) (o n : Nat) : (s.addSat o n).latch = s.latch := rfl
@[simp] theorem State.addSat_mem (s : State) (o n : Nat) : (s.addSat o n).mem = s.mem := rfl
@[simp] theorem State.addSat_syn (s : State) (o n : Nat) : (s.addSat o n).syn = s.syn := rfl
@[simp] theorem State.addSat_fuses (s : State) (o n : Nat) : (s.addSat o n).fuses = s.fuses := rfl
@[simp] theorem State.addSat_boot (s : State) (o n : Nat) : (s.addSat o n).boot = s.boot := rfl
@[simp] theorem State.addSat_tb (s : State) (o n : Nat) : (s.addSat o n).tb = s.tb := rfl
@[simp] theorem State.addSat_sch (s : State) (o n : Nat) : (s.addSat o n).sch = s.sch := rfl
@[simp] theorem State.addSat_cores (s : State) (o n : Nat) : (s.addSat o n).cores = s.cores := rfl
@[simp] theorem State.addSat_fen (s : State) (o n : Nat) : (s.addSat o n).fen = s.fen := rfl
@[simp] theorem State.addSat_counts (s : State) (o n : Nat) : (s.addSat o n).counts = s.counts := rfl
@[simp] theorem State.addSat_syncOps (s : State) (o n : Nat) : (s.addSat o n).syncOps = s.syncOps := rfl
@[simp] theorem State.addSat_integ (s : State) (o n : Nat) : (s.addSat o n).integ = s.integ := rfl
@[simp] theorem State.addSat_banks (s : State) (o n : Nat) : (s.addSat o n).banks = s.banks := rfl
@[simp] theorem State.addSat_dma (s : State) (o n : Nat) : (s.addSat o n).dma = s.dma := rfl
@[simp] theorem State.addSat_dig (s : State) (o n : Nat) : (s.addSat o n).dig = s.dig := rfl
@[simp] theorem State.addSat_net (s : State) (o n : Nat) : (s.addSat o n).net = s.net := rfl
@[simp] theorem State.addSat_pair (s : State) (o n : Nat) : (s.addSat o n).pair = s.pair := rfl
@[simp] theorem State.addSat_host (s : State) (o n : Nat) : (s.addSat o n).host = s.host := rfl
@[simp] theorem State.addSat_log (s : State) (o n : Nat) : (s.addSat o n).log = s.log := rfl
@[simp] theorem State.addSat_esc (s : State) (o n : Nat) : (s.addSat o n).esc = s.esc := rfl
@[simp] theorem State.addSat_out (s : State) (o n : Nat) : (s.addSat o n).out = s.out := rfl
@[simp] theorem State.addSat_free (s : State) (o n : Nat) : (s.addSat o n).free = s.free := rfl
@[simp] theorem State.addSat_memReq (s : State) (o n : Nat) : (s.addSat o n).memReq = s.memReq := rfl
@[simp] theorem State.addSat_pending (s : State) (o n : Nat) : (s.addSat o n).pending = s.pending := rfl
@[simp] theorem State.addSat_core (s : State) (o n : Nat) (z : Nat) : (s.addSat o n).core z = s.core z := rfl
@[simp] theorem State.addSat_dmaOf (s : State) (o n : Nat) (z : Nat) : (s.addSat o n).dmaOf z = s.dmaOf z := rfl
@[simp] theorem State.addSat_fenOf (s : State) (o n : Nat) (z : Nat) : (s.addSat o n).fenOf z = s.fenOf z := rfl
@[simp] theorem State.addSat_integOf (s : State) (o n : Nat) (z : Nat) : (s.addSat o n).integOf z = s.integOf z := rfl
@[simp] theorem State.addSat_byteAt (s : State) (o n : Nat) (z : Nat) : (s.addSat o n).byteAt z = s.byteAt z := rfl
@[simp] theorem State.addSat_count (s : State) (o n : Nat) (z : Nat) : (s.addSat o n).count z = s.count z := rfl
@[simp] theorem State.addSat_escOf (s : State) (o n : Nat) (z : Nat) : (s.addSat o n).escOf z = s.escOf z := rfl
@[simp] theorem State.addSat_running (s : State) (o n : Nat) : (s.addSat o n).running = s.running := rfl

/-! ### counter -/

@[simp] theorem State.counter_latch (s : State) (o : Nat) (v n : Word) : (s.counter o v n).latch = s.latch := rfl
@[simp] theorem State.counter_mem (s : State) (o : Nat) (v n : Word) : (s.counter o v n).mem = s.mem := rfl
@[simp] theorem State.counter_syn (s : State) (o : Nat) (v n : Word) : (s.counter o v n).syn = s.syn := rfl
@[simp] theorem State.counter_fuses (s : State) (o : Nat) (v n : Word) : (s.counter o v n).fuses = s.fuses := rfl
@[simp] theorem State.counter_boot (s : State) (o : Nat) (v n : Word) : (s.counter o v n).boot = s.boot := rfl
@[simp] theorem State.counter_tb (s : State) (o : Nat) (v n : Word) : (s.counter o v n).tb = s.tb := rfl
@[simp] theorem State.counter_sch (s : State) (o : Nat) (v n : Word) : (s.counter o v n).sch = s.sch := rfl
@[simp] theorem State.counter_cores (s : State) (o : Nat) (v n : Word) : (s.counter o v n).cores = s.cores := rfl
@[simp] theorem State.counter_fen (s : State) (o : Nat) (v n : Word) : (s.counter o v n).fen = s.fen := rfl
@[simp] theorem State.counter_counts (s : State) (o : Nat) (v n : Word) : (s.counter o v n).counts = s.counts := rfl
@[simp] theorem State.counter_syncOps (s : State) (o : Nat) (v n : Word) : (s.counter o v n).syncOps = s.syncOps := rfl
@[simp] theorem State.counter_integ (s : State) (o : Nat) (v n : Word) : (s.counter o v n).integ = s.integ := rfl
@[simp] theorem State.counter_banks (s : State) (o : Nat) (v n : Word) : (s.counter o v n).banks = s.banks := rfl
@[simp] theorem State.counter_dma (s : State) (o : Nat) (v n : Word) : (s.counter o v n).dma = s.dma := rfl
@[simp] theorem State.counter_dig (s : State) (o : Nat) (v n : Word) : (s.counter o v n).dig = s.dig := rfl
@[simp] theorem State.counter_net (s : State) (o : Nat) (v n : Word) : (s.counter o v n).net = s.net := rfl
@[simp] theorem State.counter_pair (s : State) (o : Nat) (v n : Word) : (s.counter o v n).pair = s.pair := rfl
@[simp] theorem State.counter_host (s : State) (o : Nat) (v n : Word) : (s.counter o v n).host = s.host := rfl
@[simp] theorem State.counter_log (s : State) (o : Nat) (v n : Word) : (s.counter o v n).log = s.log := rfl
@[simp] theorem State.counter_esc (s : State) (o : Nat) (v n : Word) : (s.counter o v n).esc = s.esc := rfl
@[simp] theorem State.counter_out (s : State) (o : Nat) (v n : Word) : (s.counter o v n).out = s.out := rfl
@[simp] theorem State.counter_free (s : State) (o : Nat) (v n : Word) : (s.counter o v n).free = s.free := rfl
@[simp] theorem State.counter_memReq (s : State) (o : Nat) (v n : Word) : (s.counter o v n).memReq = s.memReq := rfl
@[simp] theorem State.counter_pending (s : State) (o : Nat) (v n : Word) : (s.counter o v n).pending = s.pending := rfl
@[simp] theorem State.counter_core (s : State) (o : Nat) (v n : Word) (z : Nat) : (s.counter o v n).core z = s.core z := rfl
@[simp] theorem State.counter_dmaOf (s : State) (o : Nat) (v n : Word) (z : Nat) : (s.counter o v n).dmaOf z = s.dmaOf z := rfl
@[simp] theorem State.counter_fenOf (s : State) (o : Nat) (v n : Word) (z : Nat) : (s.counter o v n).fenOf z = s.fenOf z := rfl
@[simp] theorem State.counter_integOf (s : State) (o : Nat) (v n : Word) (z : Nat) : (s.counter o v n).integOf z = s.integOf z := rfl
@[simp] theorem State.counter_byteAt (s : State) (o : Nat) (v n : Word) (z : Nat) : (s.counter o v n).byteAt z = s.byteAt z := rfl
@[simp] theorem State.counter_count (s : State) (o : Nat) (v n : Word) (z : Nat) : (s.counter o v n).count z = s.count z := rfl
@[simp] theorem State.counter_escOf (s : State) (o : Nat) (v n : Word) (z : Nat) : (s.counter o v n).escOf z = s.escOf z := rfl
@[simp] theorem State.counter_running (s : State) (o : Nat) (v n : Word) : (s.counter o v n).running = s.running := rfl

/-! ### bumpField -/

@[simp] theorem State.bumpField_latch (s : State) (o lo : Nat) : (s.bumpField o lo).latch = s.latch := rfl
@[simp] theorem State.bumpField_mem (s : State) (o lo : Nat) : (s.bumpField o lo).mem = s.mem := rfl
@[simp] theorem State.bumpField_syn (s : State) (o lo : Nat) : (s.bumpField o lo).syn = s.syn := rfl
@[simp] theorem State.bumpField_fuses (s : State) (o lo : Nat) : (s.bumpField o lo).fuses = s.fuses := rfl
@[simp] theorem State.bumpField_boot (s : State) (o lo : Nat) : (s.bumpField o lo).boot = s.boot := rfl
@[simp] theorem State.bumpField_tb (s : State) (o lo : Nat) : (s.bumpField o lo).tb = s.tb := rfl
@[simp] theorem State.bumpField_sch (s : State) (o lo : Nat) : (s.bumpField o lo).sch = s.sch := rfl
@[simp] theorem State.bumpField_cores (s : State) (o lo : Nat) : (s.bumpField o lo).cores = s.cores := rfl
@[simp] theorem State.bumpField_fen (s : State) (o lo : Nat) : (s.bumpField o lo).fen = s.fen := rfl
@[simp] theorem State.bumpField_counts (s : State) (o lo : Nat) : (s.bumpField o lo).counts = s.counts := rfl
@[simp] theorem State.bumpField_syncOps (s : State) (o lo : Nat) : (s.bumpField o lo).syncOps = s.syncOps := rfl
@[simp] theorem State.bumpField_integ (s : State) (o lo : Nat) : (s.bumpField o lo).integ = s.integ := rfl
@[simp] theorem State.bumpField_banks (s : State) (o lo : Nat) : (s.bumpField o lo).banks = s.banks := rfl
@[simp] theorem State.bumpField_dma (s : State) (o lo : Nat) : (s.bumpField o lo).dma = s.dma := rfl
@[simp] theorem State.bumpField_dig (s : State) (o lo : Nat) : (s.bumpField o lo).dig = s.dig := rfl
@[simp] theorem State.bumpField_net (s : State) (o lo : Nat) : (s.bumpField o lo).net = s.net := rfl
@[simp] theorem State.bumpField_pair (s : State) (o lo : Nat) : (s.bumpField o lo).pair = s.pair := rfl
@[simp] theorem State.bumpField_host (s : State) (o lo : Nat) : (s.bumpField o lo).host = s.host := rfl
@[simp] theorem State.bumpField_log (s : State) (o lo : Nat) : (s.bumpField o lo).log = s.log := rfl
@[simp] theorem State.bumpField_esc (s : State) (o lo : Nat) : (s.bumpField o lo).esc = s.esc := rfl
@[simp] theorem State.bumpField_out (s : State) (o lo : Nat) : (s.bumpField o lo).out = s.out := rfl
@[simp] theorem State.bumpField_free (s : State) (o lo : Nat) : (s.bumpField o lo).free = s.free := rfl
@[simp] theorem State.bumpField_memReq (s : State) (o lo : Nat) : (s.bumpField o lo).memReq = s.memReq := rfl
@[simp] theorem State.bumpField_pending (s : State) (o lo : Nat) : (s.bumpField o lo).pending = s.pending := rfl
@[simp] theorem State.bumpField_core (s : State) (o lo : Nat) (z : Nat) : (s.bumpField o lo).core z = s.core z := rfl
@[simp] theorem State.bumpField_dmaOf (s : State) (o lo : Nat) (z : Nat) : (s.bumpField o lo).dmaOf z = s.dmaOf z := rfl
@[simp] theorem State.bumpField_fenOf (s : State) (o lo : Nat) (z : Nat) : (s.bumpField o lo).fenOf z = s.fenOf z := rfl
@[simp] theorem State.bumpField_integOf (s : State) (o lo : Nat) (z : Nat) : (s.bumpField o lo).integOf z = s.integOf z := rfl
@[simp] theorem State.bumpField_byteAt (s : State) (o lo : Nat) (z : Nat) : (s.bumpField o lo).byteAt z = s.byteAt z := rfl
@[simp] theorem State.bumpField_count (s : State) (o lo : Nat) (z : Nat) : (s.bumpField o lo).count z = s.count z := rfl
@[simp] theorem State.bumpField_escOf (s : State) (o lo : Nat) (z : Nat) : (s.bumpField o lo).escOf z = s.escOf z := rfl
@[simp] theorem State.bumpField_running (s : State) (o lo : Nat) : (s.bumpField o lo).running = s.running := rfl

/-! ### bump -/

@[simp] theorem State.bump_latch (s : State) (o : Nat) : (s.bump o).latch = s.latch := rfl
@[simp] theorem State.bump_mem (s : State) (o : Nat) : (s.bump o).mem = s.mem := rfl
@[simp] theorem State.bump_syn (s : State) (o : Nat) : (s.bump o).syn = s.syn := rfl
@[simp] theorem State.bump_fuses (s : State) (o : Nat) : (s.bump o).fuses = s.fuses := rfl
@[simp] theorem State.bump_boot (s : State) (o : Nat) : (s.bump o).boot = s.boot := rfl
@[simp] theorem State.bump_tb (s : State) (o : Nat) : (s.bump o).tb = s.tb := rfl
@[simp] theorem State.bump_sch (s : State) (o : Nat) : (s.bump o).sch = s.sch := rfl
@[simp] theorem State.bump_cores (s : State) (o : Nat) : (s.bump o).cores = s.cores := rfl
@[simp] theorem State.bump_fen (s : State) (o : Nat) : (s.bump o).fen = s.fen := rfl
@[simp] theorem State.bump_counts (s : State) (o : Nat) : (s.bump o).counts = s.counts := rfl
@[simp] theorem State.bump_syncOps (s : State) (o : Nat) : (s.bump o).syncOps = s.syncOps := rfl
@[simp] theorem State.bump_integ (s : State) (o : Nat) : (s.bump o).integ = s.integ := rfl
@[simp] theorem State.bump_banks (s : State) (o : Nat) : (s.bump o).banks = s.banks := rfl
@[simp] theorem State.bump_dma (s : State) (o : Nat) : (s.bump o).dma = s.dma := rfl
@[simp] theorem State.bump_dig (s : State) (o : Nat) : (s.bump o).dig = s.dig := rfl
@[simp] theorem State.bump_net (s : State) (o : Nat) : (s.bump o).net = s.net := rfl
@[simp] theorem State.bump_pair (s : State) (o : Nat) : (s.bump o).pair = s.pair := rfl
@[simp] theorem State.bump_host (s : State) (o : Nat) : (s.bump o).host = s.host := rfl
@[simp] theorem State.bump_log (s : State) (o : Nat) : (s.bump o).log = s.log := rfl
@[simp] theorem State.bump_esc (s : State) (o : Nat) : (s.bump o).esc = s.esc := rfl
@[simp] theorem State.bump_out (s : State) (o : Nat) : (s.bump o).out = s.out := rfl
@[simp] theorem State.bump_free (s : State) (o : Nat) : (s.bump o).free = s.free := rfl
@[simp] theorem State.bump_memReq (s : State) (o : Nat) : (s.bump o).memReq = s.memReq := rfl
@[simp] theorem State.bump_pending (s : State) (o : Nat) : (s.bump o).pending = s.pending := rfl
@[simp] theorem State.bump_core (s : State) (o : Nat) (z : Nat) : (s.bump o).core z = s.core z := rfl
@[simp] theorem State.bump_dmaOf (s : State) (o : Nat) (z : Nat) : (s.bump o).dmaOf z = s.dmaOf z := rfl
@[simp] theorem State.bump_fenOf (s : State) (o : Nat) (z : Nat) : (s.bump o).fenOf z = s.fenOf z := rfl
@[simp] theorem State.bump_integOf (s : State) (o : Nat) (z : Nat) : (s.bump o).integOf z = s.integOf z := rfl
@[simp] theorem State.bump_byteAt (s : State) (o : Nat) (z : Nat) : (s.bump o).byteAt z = s.byteAt z := rfl
@[simp] theorem State.bump_count (s : State) (o : Nat) (z : Nat) : (s.bump o).count z = s.count z := rfl
@[simp] theorem State.bump_escOf (s : State) (o : Nat) (z : Nat) : (s.bump o).escOf z = s.escOf z := rfl
@[simp] theorem State.bump_running (s : State) (o : Nat) : (s.bump o).running = s.running := rfl

/-! ### emit -/

@[simp] theorem State.emit_regs (s : State) (o : Output) : (s.emit o).regs = s.regs := rfl
@[simp] theorem State.emit_latch (s : State) (o : Output) : (s.emit o).latch = s.latch := rfl
@[simp] theorem State.emit_mem (s : State) (o : Output) : (s.emit o).mem = s.mem := rfl
@[simp] theorem State.emit_syn (s : State) (o : Output) : (s.emit o).syn = s.syn := rfl
@[simp] theorem State.emit_fuses (s : State) (o : Output) : (s.emit o).fuses = s.fuses := rfl
@[simp] theorem State.emit_boot (s : State) (o : Output) : (s.emit o).boot = s.boot := rfl
@[simp] theorem State.emit_tb (s : State) (o : Output) : (s.emit o).tb = s.tb := rfl
@[simp] theorem State.emit_sch (s : State) (o : Output) : (s.emit o).sch = s.sch := rfl
@[simp] theorem State.emit_cores (s : State) (o : Output) : (s.emit o).cores = s.cores := rfl
@[simp] theorem State.emit_fen (s : State) (o : Output) : (s.emit o).fen = s.fen := rfl
@[simp] theorem State.emit_counts (s : State) (o : Output) : (s.emit o).counts = s.counts := rfl
@[simp] theorem State.emit_syncOps (s : State) (o : Output) : (s.emit o).syncOps = s.syncOps := rfl
@[simp] theorem State.emit_integ (s : State) (o : Output) : (s.emit o).integ = s.integ := rfl
@[simp] theorem State.emit_banks (s : State) (o : Output) : (s.emit o).banks = s.banks := rfl
@[simp] theorem State.emit_dma (s : State) (o : Output) : (s.emit o).dma = s.dma := rfl
@[simp] theorem State.emit_dig (s : State) (o : Output) : (s.emit o).dig = s.dig := rfl
@[simp] theorem State.emit_net (s : State) (o : Output) : (s.emit o).net = s.net := rfl
@[simp] theorem State.emit_pair (s : State) (o : Output) : (s.emit o).pair = s.pair := rfl
@[simp] theorem State.emit_host (s : State) (o : Output) : (s.emit o).host = s.host := rfl
@[simp] theorem State.emit_log (s : State) (o : Output) : (s.emit o).log = s.log := rfl
@[simp] theorem State.emit_esc (s : State) (o : Output) : (s.emit o).esc = s.esc := rfl
@[simp] theorem State.emit_cyc (s : State) (o : Output) : (s.emit o).cyc = s.cyc := rfl
@[simp] theorem State.emit_free (s : State) (o : Output) : (s.emit o).free = s.free := rfl
@[simp] theorem State.emit_memReq (s : State) (o : Output) : (s.emit o).memReq = s.memReq := rfl
@[simp] theorem State.emit_pending (s : State) (o : Output) : (s.emit o).pending = s.pending := rfl
@[simp] theorem State.emit_core (s : State) (o : Output) (z : Nat) : (s.emit o).core z = s.core z := rfl
@[simp] theorem State.emit_dmaOf (s : State) (o : Output) (z : Nat) : (s.emit o).dmaOf z = s.dmaOf z := rfl
@[simp] theorem State.emit_fenOf (s : State) (o : Output) (z : Nat) : (s.emit o).fenOf z = s.fenOf z := rfl
@[simp] theorem State.emit_integOf (s : State) (o : Output) (z : Nat) : (s.emit o).integOf z = s.integOf z := rfl
@[simp] theorem State.emit_byteAt (s : State) (o : Output) (z : Nat) : (s.emit o).byteAt z = s.byteAt z := rfl
@[simp] theorem State.emit_count (s : State) (o : Output) (z : Nat) : (s.emit o).count z = s.count z := rfl
@[simp] theorem State.emit_escOf (s : State) (o : Output) (z : Nat) : (s.emit o).escOf z = s.escOf z := rfl
@[simp] theorem State.emit_running (s : State) (o : Output) : (s.emit o).running = s.running := rfl

@[simp] theorem State.emit_rd (s : State) (o : Output) (i : Nat) : (s.emit o).rd i = s.rd i := rfl

/-! ### escStat -/

@[simp] theorem State.escStat_latch (s : State) : (s.escStat).latch = s.latch := rfl
@[simp] theorem State.escStat_mem (s : State) : (s.escStat).mem = s.mem := rfl
@[simp] theorem State.escStat_syn (s : State) : (s.escStat).syn = s.syn := rfl
@[simp] theorem State.escStat_fuses (s : State) : (s.escStat).fuses = s.fuses := rfl
@[simp] theorem State.escStat_boot (s : State) : (s.escStat).boot = s.boot := rfl
@[simp] theorem State.escStat_tb (s : State) : (s.escStat).tb = s.tb := rfl
@[simp] theorem State.escStat_sch (s : State) : (s.escStat).sch = s.sch := rfl
@[simp] theorem State.escStat_cores (s : State) : (s.escStat).cores = s.cores := rfl
@[simp] theorem State.escStat_fen (s : State) : (s.escStat).fen = s.fen := rfl
@[simp] theorem State.escStat_counts (s : State) : (s.escStat).counts = s.counts := rfl
@[simp] theorem State.escStat_syncOps (s : State) : (s.escStat).syncOps = s.syncOps := rfl
@[simp] theorem State.escStat_integ (s : State) : (s.escStat).integ = s.integ := rfl
@[simp] theorem State.escStat_banks (s : State) : (s.escStat).banks = s.banks := rfl
@[simp] theorem State.escStat_dma (s : State) : (s.escStat).dma = s.dma := rfl
@[simp] theorem State.escStat_dig (s : State) : (s.escStat).dig = s.dig := rfl
@[simp] theorem State.escStat_net (s : State) : (s.escStat).net = s.net := rfl
@[simp] theorem State.escStat_pair (s : State) : (s.escStat).pair = s.pair := rfl
@[simp] theorem State.escStat_host (s : State) : (s.escStat).host = s.host := rfl
@[simp] theorem State.escStat_log (s : State) : (s.escStat).log = s.log := rfl
@[simp] theorem State.escStat_esc (s : State) : (s.escStat).esc = s.esc := rfl
@[simp] theorem State.escStat_cyc (s : State) : (s.escStat).cyc = s.cyc := rfl
@[simp] theorem State.escStat_out (s : State) : (s.escStat).out = s.out := rfl
@[simp] theorem State.escStat_free (s : State) : (s.escStat).free = s.free := rfl
@[simp] theorem State.escStat_memReq (s : State) : (s.escStat).memReq = s.memReq := rfl
@[simp] theorem State.escStat_pending (s : State) : (s.escStat).pending = s.pending := rfl
@[simp] theorem State.escStat_core (s : State) (z : Nat) : (s.escStat).core z = s.core z := rfl
@[simp] theorem State.escStat_dmaOf (s : State) (z : Nat) : (s.escStat).dmaOf z = s.dmaOf z := rfl
@[simp] theorem State.escStat_fenOf (s : State) (z : Nat) : (s.escStat).fenOf z = s.fenOf z := rfl
@[simp] theorem State.escStat_integOf (s : State) (z : Nat) : (s.escStat).integOf z = s.integOf z := rfl
@[simp] theorem State.escStat_byteAt (s : State) (z : Nat) : (s.escStat).byteAt z = s.byteAt z := rfl
@[simp] theorem State.escStat_count (s : State) (z : Nat) : (s.escStat).count z = s.count z := rfl
@[simp] theorem State.escStat_escOf (s : State) (z : Nat) : (s.escStat).escOf z = s.escOf z := rfl
@[simp] theorem State.escStat_running (s : State) : (s.escStat).running = s.running := rfl

/-! ### escOk -/

@[simp] theorem State.escOk_regs (s : State) (a b c : Nat) : (s.escOk a b c).regs = s.regs := rfl
@[simp] theorem State.escOk_latch (s : State) (a b c : Nat) : (s.escOk a b c).latch = s.latch := rfl
@[simp] theorem State.escOk_mem (s : State) (a b c : Nat) : (s.escOk a b c).mem = s.mem := rfl
@[simp] theorem State.escOk_syn (s : State) (a b c : Nat) : (s.escOk a b c).syn = s.syn := rfl
@[simp] theorem State.escOk_fuses (s : State) (a b c : Nat) : (s.escOk a b c).fuses = s.fuses := rfl
@[simp] theorem State.escOk_boot (s : State) (a b c : Nat) : (s.escOk a b c).boot = s.boot := rfl
@[simp] theorem State.escOk_tb (s : State) (a b c : Nat) : (s.escOk a b c).tb = s.tb := rfl
@[simp] theorem State.escOk_sch (s : State) (a b c : Nat) : (s.escOk a b c).sch = s.sch := rfl
@[simp] theorem State.escOk_cores (s : State) (a b c : Nat) : (s.escOk a b c).cores = s.cores := rfl
@[simp] theorem State.escOk_fen (s : State) (a b c : Nat) : (s.escOk a b c).fen = s.fen := rfl
@[simp] theorem State.escOk_counts (s : State) (a b c : Nat) : (s.escOk a b c).counts = s.counts := rfl
@[simp] theorem State.escOk_syncOps (s : State) (a b c : Nat) : (s.escOk a b c).syncOps = s.syncOps := rfl
@[simp] theorem State.escOk_integ (s : State) (a b c : Nat) : (s.escOk a b c).integ = s.integ := rfl
@[simp] theorem State.escOk_banks (s : State) (a b c : Nat) : (s.escOk a b c).banks = s.banks := rfl
@[simp] theorem State.escOk_dma (s : State) (a b c : Nat) : (s.escOk a b c).dma = s.dma := rfl
@[simp] theorem State.escOk_dig (s : State) (a b c : Nat) : (s.escOk a b c).dig = s.dig := rfl
@[simp] theorem State.escOk_net (s : State) (a b c : Nat) : (s.escOk a b c).net = s.net := rfl
@[simp] theorem State.escOk_pair (s : State) (a b c : Nat) : (s.escOk a b c).pair = s.pair := rfl
@[simp] theorem State.escOk_host (s : State) (a b c : Nat) : (s.escOk a b c).host = s.host := rfl
@[simp] theorem State.escOk_log (s : State) (a b c : Nat) : (s.escOk a b c).log = s.log := rfl
@[simp] theorem State.escOk_cyc (s : State) (a b c : Nat) : (s.escOk a b c).cyc = s.cyc := rfl
@[simp] theorem State.escOk_out (s : State) (a b c : Nat) : (s.escOk a b c).out = s.out := rfl
@[simp] theorem State.escOk_free (s : State) (a b c : Nat) : (s.escOk a b c).free = s.free := rfl
@[simp] theorem State.escOk_memReq (s : State) (a b c : Nat) : (s.escOk a b c).memReq = s.memReq := rfl
@[simp] theorem State.escOk_pending (s : State) (a b c : Nat) : (s.escOk a b c).pending = s.pending := rfl
@[simp] theorem State.escOk_core (s : State) (a b c : Nat) (z : Nat) : (s.escOk a b c).core z = s.core z := rfl
@[simp] theorem State.escOk_dmaOf (s : State) (a b c : Nat) (z : Nat) : (s.escOk a b c).dmaOf z = s.dmaOf z := rfl
@[simp] theorem State.escOk_fenOf (s : State) (a b c : Nat) (z : Nat) : (s.escOk a b c).fenOf z = s.fenOf z := rfl
@[simp] theorem State.escOk_integOf (s : State) (a b c : Nat) (z : Nat) : (s.escOk a b c).integOf z = s.integOf z := rfl
@[simp] theorem State.escOk_byteAt (s : State) (a b c : Nat) (z : Nat) : (s.escOk a b c).byteAt z = s.byteAt z := rfl
@[simp] theorem State.escOk_count (s : State) (a b c : Nat) (z : Nat) : (s.escOk a b c).count z = s.count z := rfl
@[simp] theorem State.escOk_running (s : State) (a b c : Nat) : (s.escOk a b c).running = s.running := rfl

@[simp] theorem State.escOk_rd (s : State) (a b c : Nat) (i : Nat) : (s.escOk a b c).rd i = s.rd i := rfl

/-! ### setCore -/

@[simp] theorem State.setCore_regs (s : State) (n : Nat) (c : Core) : (s.setCore n c).regs = s.regs := rfl
@[simp] theorem State.setCore_latch (s : State) (n : Nat) (c : Core) : (s.setCore n c).latch = s.latch := rfl
@[simp] theorem State.setCore_mem (s : State) (n : Nat) (c : Core) : (s.setCore n c).mem = s.mem := rfl
@[simp] theorem State.setCore_syn (s : State) (n : Nat) (c : Core) : (s.setCore n c).syn = s.syn := rfl
@[simp] theorem State.setCore_fuses (s : State) (n : Nat) (c : Core) : (s.setCore n c).fuses = s.fuses := rfl
@[simp] theorem State.setCore_boot (s : State) (n : Nat) (c : Core) : (s.setCore n c).boot = s.boot := rfl
@[simp] theorem State.setCore_tb (s : State) (n : Nat) (c : Core) : (s.setCore n c).tb = s.tb := rfl
@[simp] theorem State.setCore_sch (s : State) (n : Nat) (c : Core) : (s.setCore n c).sch = s.sch := rfl
@[simp] theorem State.setCore_fen (s : State) (n : Nat) (c : Core) : (s.setCore n c).fen = s.fen := rfl
@[simp] theorem State.setCore_counts (s : State) (n : Nat) (c : Core) : (s.setCore n c).counts = s.counts := rfl
@[simp] theorem State.setCore_syncOps (s : State) (n : Nat) (c : Core) : (s.setCore n c).syncOps = s.syncOps := rfl
@[simp] theorem State.setCore_integ (s : State) (n : Nat) (c : Core) : (s.setCore n c).integ = s.integ := rfl
@[simp] theorem State.setCore_banks (s : State) (n : Nat) (c : Core) : (s.setCore n c).banks = s.banks := rfl
@[simp] theorem State.setCore_dma (s : State) (n : Nat) (c : Core) : (s.setCore n c).dma = s.dma := rfl
@[simp] theorem State.setCore_dig (s : State) (n : Nat) (c : Core) : (s.setCore n c).dig = s.dig := rfl
@[simp] theorem State.setCore_net (s : State) (n : Nat) (c : Core) : (s.setCore n c).net = s.net := rfl
@[simp] theorem State.setCore_pair (s : State) (n : Nat) (c : Core) : (s.setCore n c).pair = s.pair := rfl
@[simp] theorem State.setCore_host (s : State) (n : Nat) (c : Core) : (s.setCore n c).host = s.host := rfl
@[simp] theorem State.setCore_log (s : State) (n : Nat) (c : Core) : (s.setCore n c).log = s.log := rfl
@[simp] theorem State.setCore_esc (s : State) (n : Nat) (c : Core) : (s.setCore n c).esc = s.esc := rfl
@[simp] theorem State.setCore_cyc (s : State) (n : Nat) (c : Core) : (s.setCore n c).cyc = s.cyc := rfl
@[simp] theorem State.setCore_out (s : State) (n : Nat) (c : Core) : (s.setCore n c).out = s.out := rfl
@[simp] theorem State.setCore_free (s : State) (n : Nat) (c : Core) : (s.setCore n c).free = s.free := rfl
@[simp] theorem State.setCore_memReq (s : State) (n : Nat) (c : Core) : (s.setCore n c).memReq = s.memReq := rfl
@[simp] theorem State.setCore_pending (s : State) (n : Nat) (c : Core) : (s.setCore n c).pending = s.pending := rfl
@[simp] theorem State.setCore_dmaOf (s : State) (n : Nat) (c : Core) (z : Nat) : (s.setCore n c).dmaOf z = s.dmaOf z := rfl
@[simp] theorem State.setCore_fenOf (s : State) (n : Nat) (c : Core) (z : Nat) : (s.setCore n c).fenOf z = s.fenOf z := rfl
@[simp] theorem State.setCore_integOf (s : State) (n : Nat) (c : Core) (z : Nat) : (s.setCore n c).integOf z = s.integOf z := rfl
@[simp] theorem State.setCore_byteAt (s : State) (n : Nat) (c : Core) (z : Nat) : (s.setCore n c).byteAt z = s.byteAt z := rfl
@[simp] theorem State.setCore_count (s : State) (n : Nat) (c : Core) (z : Nat) : (s.setCore n c).count z = s.count z := rfl
@[simp] theorem State.setCore_escOf (s : State) (n : Nat) (c : Core) (z : Nat) : (s.setCore n c).escOf z = s.escOf z := rfl
@[simp] theorem State.setCore_running (s : State) (n : Nat) (c : Core) : (s.setCore n c).running = s.running := rfl

@[simp] theorem State.setCore_rd (s : State) (n : Nat) (c : Core) (i : Nat) : (s.setCore n c).rd i = s.rd i := rfl

/-! ### modCore -/

@[simp] theorem State.modCore_regs (s : State) (n : Nat) (f : Core → Core) : (s.modCore n f).regs = s.regs := rfl
@[simp] theorem State.modCore_latch (s : State) (n : Nat) (f : Core → Core) : (s.modCore n f).latch = s.latch := rfl
@[simp] theorem State.modCore_mem (s : State) (n : Nat) (f : Core → Core) : (s.modCore n f).mem = s.mem := rfl
@[simp] theorem State.modCore_syn (s : State) (n : Nat) (f : Core → Core) : (s.modCore n f).syn = s.syn := rfl
@[simp] theorem State.modCore_fuses (s : State) (n : Nat) (f : Core → Core) : (s.modCore n f).fuses = s.fuses := rfl
@[simp] theorem State.modCore_boot (s : State) (n : Nat) (f : Core → Core) : (s.modCore n f).boot = s.boot := rfl
@[simp] theorem State.modCore_tb (s : State) (n : Nat) (f : Core → Core) : (s.modCore n f).tb = s.tb := rfl
@[simp] theorem State.modCore_sch (s : State) (n : Nat) (f : Core → Core) : (s.modCore n f).sch = s.sch := rfl
@[simp] theorem State.modCore_fen (s : State) (n : Nat) (f : Core → Core) : (s.modCore n f).fen = s.fen := rfl
@[simp] theorem State.modCore_counts (s : State) (n : Nat) (f : Core → Core) : (s.modCore n f).counts = s.counts := rfl
@[simp] theorem State.modCore_syncOps (s : State) (n : Nat) (f : Core → Core) : (s.modCore n f).syncOps = s.syncOps := rfl
@[simp] theorem State.modCore_integ (s : State) (n : Nat) (f : Core → Core) : (s.modCore n f).integ = s.integ := rfl
@[simp] theorem State.modCore_banks (s : State) (n : Nat) (f : Core → Core) : (s.modCore n f).banks = s.banks := rfl
@[simp] theorem State.modCore_dma (s : State) (n : Nat) (f : Core → Core) : (s.modCore n f).dma = s.dma := rfl
@[simp] theorem State.modCore_dig (s : State) (n : Nat) (f : Core → Core) : (s.modCore n f).dig = s.dig := rfl
@[simp] theorem State.modCore_net (s : State) (n : Nat) (f : Core → Core) : (s.modCore n f).net = s.net := rfl
@[simp] theorem State.modCore_pair (s : State) (n : Nat) (f : Core → Core) : (s.modCore n f).pair = s.pair := rfl
@[simp] theorem State.modCore_host (s : State) (n : Nat) (f : Core → Core) : (s.modCore n f).host = s.host := rfl
@[simp] theorem State.modCore_log (s : State) (n : Nat) (f : Core → Core) : (s.modCore n f).log = s.log := rfl
@[simp] theorem State.modCore_esc (s : State) (n : Nat) (f : Core → Core) : (s.modCore n f).esc = s.esc := rfl
@[simp] theorem State.modCore_cyc (s : State) (n : Nat) (f : Core → Core) : (s.modCore n f).cyc = s.cyc := rfl
@[simp] theorem State.modCore_out (s : State) (n : Nat) (f : Core → Core) : (s.modCore n f).out = s.out := rfl
@[simp] theorem State.modCore_free (s : State) (n : Nat) (f : Core → Core) : (s.modCore n f).free = s.free := rfl
@[simp] theorem State.modCore_memReq (s : State) (n : Nat) (f : Core → Core) : (s.modCore n f).memReq = s.memReq := rfl
@[simp] theorem State.modCore_pending (s : State) (n : Nat) (f : Core → Core) : (s.modCore n f).pending = s.pending := rfl
@[simp] theorem State.modCore_dmaOf (s : State) (n : Nat) (f : Core → Core) (z : Nat) : (s.modCore n f).dmaOf z = s.dmaOf z := rfl
@[simp] theorem State.modCore_fenOf (s : State) (n : Nat) (f : Core → Core) (z : Nat) : (s.modCore n f).fenOf z = s.fenOf z := rfl
@[simp] theorem State.modCore_integOf (s : State) (n : Nat) (f : Core → Core) (z : Nat) : (s.modCore n f).integOf z = s.integOf z := rfl
@[simp] theorem State.modCore_byteAt (s : State) (n : Nat) (f : Core → Core) (z : Nat) : (s.modCore n f).byteAt z = s.byteAt z := rfl
@[simp] theorem State.modCore_count (s : State) (n : Nat) (f : Core → Core) (z : Nat) : (s.modCore n f).count z = s.count z := rfl
@[simp] theorem State.modCore_escOf (s : State) (n : Nat) (f : Core → Core) (z : Nat) : (s.modCore n f).escOf z = s.escOf z := rfl
@[simp] theorem State.modCore_running (s : State) (n : Nat) (f : Core → Core) : (s.modCore n f).running = s.running := rfl

@[simp] theorem State.modCore_rd (s : State) (n : Nat) (f : Core → Core) (i : Nat) : (s.modCore n f).rd i = s.rd i := rfl

/-! ### putByte -/

@[simp] theorem State.putByte_regs (s : State) (a : Nat) (b : Byte) : (s.putByte a b).regs = s.regs := rfl
@[simp] theorem State.putByte_latch (s : State) (a : Nat) (b : Byte) : (s.putByte a b).latch = s.latch := rfl
@[simp] theorem State.putByte_syn (s : State) (a : Nat) (b : Byte) : (s.putByte a b).syn = s.syn := rfl
@[simp] theorem State.putByte_fuses (s : State) (a : Nat) (b : Byte) : (s.putByte a b).fuses = s.fuses := rfl
@[simp] theorem State.putByte_boot (s : State) (a : Nat) (b : Byte) : (s.putByte a b).boot = s.boot := rfl
@[simp] theorem State.putByte_tb (s : State) (a : Nat) (b : Byte) : (s.putByte a b).tb = s.tb := rfl
@[simp] theorem State.putByte_sch (s : State) (a : Nat) (b : Byte) : (s.putByte a b).sch = s.sch := rfl
@[simp] theorem State.putByte_cores (s : State) (a : Nat) (b : Byte) : (s.putByte a b).cores = s.cores := rfl
@[simp] theorem State.putByte_fen (s : State) (a : Nat) (b : Byte) : (s.putByte a b).fen = s.fen := rfl
@[simp] theorem State.putByte_counts (s : State) (a : Nat) (b : Byte) : (s.putByte a b).counts = s.counts := rfl
@[simp] theorem State.putByte_syncOps (s : State) (a : Nat) (b : Byte) : (s.putByte a b).syncOps = s.syncOps := rfl
@[simp] theorem State.putByte_integ (s : State) (a : Nat) (b : Byte) : (s.putByte a b).integ = s.integ := rfl
@[simp] theorem State.putByte_banks (s : State) (a : Nat) (b : Byte) : (s.putByte a b).banks = s.banks := rfl
@[simp] theorem State.putByte_dma (s : State) (a : Nat) (b : Byte) : (s.putByte a b).dma = s.dma := rfl
@[simp] theorem State.putByte_dig (s : State) (a : Nat) (b : Byte) : (s.putByte a b).dig = s.dig := rfl
@[simp] theorem State.putByte_net (s : State) (a : Nat) (b : Byte) : (s.putByte a b).net = s.net := rfl
@[simp] theorem State.putByte_pair (s : State) (a : Nat) (b : Byte) : (s.putByte a b).pair = s.pair := rfl
@[simp] theorem State.putByte_host (s : State) (a : Nat) (b : Byte) : (s.putByte a b).host = s.host := rfl
@[simp] theorem State.putByte_log (s : State) (a : Nat) (b : Byte) : (s.putByte a b).log = s.log := rfl
@[simp] theorem State.putByte_esc (s : State) (a : Nat) (b : Byte) : (s.putByte a b).esc = s.esc := rfl
@[simp] theorem State.putByte_cyc (s : State) (a : Nat) (b : Byte) : (s.putByte a b).cyc = s.cyc := rfl
@[simp] theorem State.putByte_out (s : State) (a : Nat) (b : Byte) : (s.putByte a b).out = s.out := rfl
@[simp] theorem State.putByte_free (s : State) (a : Nat) (b : Byte) : (s.putByte a b).free = s.free := rfl
@[simp] theorem State.putByte_memReq (s : State) (a : Nat) (b : Byte) : (s.putByte a b).memReq = s.memReq := rfl
@[simp] theorem State.putByte_pending (s : State) (a : Nat) (b : Byte) : (s.putByte a b).pending = s.pending := rfl
@[simp] theorem State.putByte_core (s : State) (a : Nat) (b : Byte) (z : Nat) : (s.putByte a b).core z = s.core z := rfl
@[simp] theorem State.putByte_dmaOf (s : State) (a : Nat) (b : Byte) (z : Nat) : (s.putByte a b).dmaOf z = s.dmaOf z := rfl
@[simp] theorem State.putByte_fenOf (s : State) (a : Nat) (b : Byte) (z : Nat) : (s.putByte a b).fenOf z = s.fenOf z := rfl
@[simp] theorem State.putByte_integOf (s : State) (a : Nat) (b : Byte) (z : Nat) : (s.putByte a b).integOf z = s.integOf z := rfl
@[simp] theorem State.putByte_count (s : State) (a : Nat) (b : Byte) (z : Nat) : (s.putByte a b).count z = s.count z := rfl
@[simp] theorem State.putByte_escOf (s : State) (a : Nat) (b : Byte) (z : Nat) : (s.putByte a b).escOf z = s.escOf z := rfl
@[simp] theorem State.putByte_running (s : State) (a : Nat) (b : Byte) : (s.putByte a b).running = s.running := rfl

@[simp] theorem State.putByte_rd (s : State) (a : Nat) (b : Byte) (i : Nat) : (s.putByte a b).rd i = s.rd i := rfl

/-! ### setInteg -/

@[simp] theorem State.setInteg_regs (s : State) (n : Nat) (x : Integrity) : (s.setInteg n x).regs = s.regs := rfl
@[simp] theorem State.setInteg_latch (s : State) (n : Nat) (x : Integrity) : (s.setInteg n x).latch = s.latch := rfl
@[simp] theorem State.setInteg_mem (s : State) (n : Nat) (x : Integrity) : (s.setInteg n x).mem = s.mem := rfl
@[simp] theorem State.setInteg_syn (s : State) (n : Nat) (x : Integrity) : (s.setInteg n x).syn = s.syn := rfl
@[simp] theorem State.setInteg_fuses (s : State) (n : Nat) (x : Integrity) : (s.setInteg n x).fuses = s.fuses := rfl
@[simp] theorem State.setInteg_boot (s : State) (n : Nat) (x : Integrity) : (s.setInteg n x).boot = s.boot := rfl
@[simp] theorem State.setInteg_tb (s : State) (n : Nat) (x : Integrity) : (s.setInteg n x).tb = s.tb := rfl
@[simp] theorem State.setInteg_sch (s : State) (n : Nat) (x : Integrity) : (s.setInteg n x).sch = s.sch := rfl
@[simp] theorem State.setInteg_cores (s : State) (n : Nat) (x : Integrity) : (s.setInteg n x).cores = s.cores := rfl
@[simp] theorem State.setInteg_fen (s : State) (n : Nat) (x : Integrity) : (s.setInteg n x).fen = s.fen := rfl
@[simp] theorem State.setInteg_counts (s : State) (n : Nat) (x : Integrity) : (s.setInteg n x).counts = s.counts := rfl
@[simp] theorem State.setInteg_syncOps (s : State) (n : Nat) (x : Integrity) : (s.setInteg n x).syncOps = s.syncOps := rfl
@[simp] theorem State.setInteg_banks (s : State) (n : Nat) (x : Integrity) : (s.setInteg n x).banks = s.banks := rfl
@[simp] theorem State.setInteg_dma (s : State) (n : Nat) (x : Integrity) : (s.setInteg n x).dma = s.dma := rfl
@[simp] theorem State.setInteg_dig (s : State) (n : Nat) (x : Integrity) : (s.setInteg n x).dig = s.dig := rfl
@[simp] theorem State.setInteg_net (s : State) (n : Nat) (x : Integrity) : (s.setInteg n x).net = s.net := rfl
@[simp] theorem State.setInteg_pair (s : State) (n : Nat) (x : Integrity) : (s.setInteg n x).pair = s.pair := rfl
@[simp] theorem State.setInteg_host (s : State) (n : Nat) (x : Integrity) : (s.setInteg n x).host = s.host := rfl
@[simp] theorem State.setInteg_log (s : State) (n : Nat) (x : Integrity) : (s.setInteg n x).log = s.log := rfl
@[simp] theorem State.setInteg_esc (s : State) (n : Nat) (x : Integrity) : (s.setInteg n x).esc = s.esc := rfl
@[simp] theorem State.setInteg_cyc (s : State) (n : Nat) (x : Integrity) : (s.setInteg n x).cyc = s.cyc := rfl
@[simp] theorem State.setInteg_out (s : State) (n : Nat) (x : Integrity) : (s.setInteg n x).out = s.out := rfl
@[simp] theorem State.setInteg_free (s : State) (n : Nat) (x : Integrity) : (s.setInteg n x).free = s.free := rfl
@[simp] theorem State.setInteg_memReq (s : State) (n : Nat) (x : Integrity) : (s.setInteg n x).memReq = s.memReq := rfl
@[simp] theorem State.setInteg_pending (s : State) (n : Nat) (x : Integrity) : (s.setInteg n x).pending = s.pending := rfl
@[simp] theorem State.setInteg_core (s : State) (n : Nat) (x : Integrity) (z : Nat) : (s.setInteg n x).core z = s.core z := rfl
@[simp] theorem State.setInteg_dmaOf (s : State) (n : Nat) (x : Integrity) (z : Nat) : (s.setInteg n x).dmaOf z = s.dmaOf z := rfl
@[simp] theorem State.setInteg_fenOf (s : State) (n : Nat) (x : Integrity) (z : Nat) : (s.setInteg n x).fenOf z = s.fenOf z := rfl
@[simp] theorem State.setInteg_byteAt (s : State) (n : Nat) (x : Integrity) (z : Nat) : (s.setInteg n x).byteAt z = s.byteAt z := rfl
@[simp] theorem State.setInteg_count (s : State) (n : Nat) (x : Integrity) (z : Nat) : (s.setInteg n x).count z = s.count z := rfl
@[simp] theorem State.setInteg_escOf (s : State) (n : Nat) (x : Integrity) (z : Nat) : (s.setInteg n x).escOf z = s.escOf z := rfl
@[simp] theorem State.setInteg_running (s : State) (n : Nat) (x : Integrity) : (s.setInteg n x).running = s.running := rfl

@[simp] theorem State.setInteg_rd (s : State) (n : Nat) (x : Integrity) (i : Nat) : (s.setInteg n x).rd i = s.rd i := rfl

/-! ### cancelWb -/

@[simp] theorem State.cancelWb_regs (s : State) (n a : Nat) : (s.cancelWb n a).regs = s.regs := rfl
@[simp] theorem State.cancelWb_latch (s : State) (n a : Nat) : (s.cancelWb n a).latch = s.latch := rfl
@[simp] theorem State.cancelWb_mem (s : State) (n a : Nat) : (s.cancelWb n a).mem = s.mem := rfl
@[simp] theorem State.cancelWb_syn (s : State) (n a : Nat) : (s.cancelWb n a).syn = s.syn := rfl
@[simp] theorem State.cancelWb_fuses (s : State) (n a : Nat) : (s.cancelWb n a).fuses = s.fuses := rfl
@[simp] theorem State.cancelWb_boot (s : State) (n a : Nat) : (s.cancelWb n a).boot = s.boot := rfl
@[simp] theorem State.cancelWb_tb (s : State) (n a : Nat) : (s.cancelWb n a).tb = s.tb := rfl
@[simp] theorem State.cancelWb_sch (s : State) (n a : Nat) : (s.cancelWb n a).sch = s.sch := rfl
@[simp] theorem State.cancelWb_cores (s : State) (n a : Nat) : (s.cancelWb n a).cores = s.cores := rfl
@[simp] theorem State.cancelWb_fen (s : State) (n a : Nat) : (s.cancelWb n a).fen = s.fen := rfl
@[simp] theorem State.cancelWb_counts (s : State) (n a : Nat) : (s.cancelWb n a).counts = s.counts := rfl
@[simp] theorem State.cancelWb_syncOps (s : State) (n a : Nat) : (s.cancelWb n a).syncOps = s.syncOps := rfl
@[simp] theorem State.cancelWb_banks (s : State) (n a : Nat) : (s.cancelWb n a).banks = s.banks := rfl
@[simp] theorem State.cancelWb_dma (s : State) (n a : Nat) : (s.cancelWb n a).dma = s.dma := rfl
@[simp] theorem State.cancelWb_dig (s : State) (n a : Nat) : (s.cancelWb n a).dig = s.dig := rfl
@[simp] theorem State.cancelWb_net (s : State) (n a : Nat) : (s.cancelWb n a).net = s.net := rfl
@[simp] theorem State.cancelWb_pair (s : State) (n a : Nat) : (s.cancelWb n a).pair = s.pair := rfl
@[simp] theorem State.cancelWb_host (s : State) (n a : Nat) : (s.cancelWb n a).host = s.host := rfl
@[simp] theorem State.cancelWb_log (s : State) (n a : Nat) : (s.cancelWb n a).log = s.log := rfl
@[simp] theorem State.cancelWb_esc (s : State) (n a : Nat) : (s.cancelWb n a).esc = s.esc := rfl
@[simp] theorem State.cancelWb_cyc (s : State) (n a : Nat) : (s.cancelWb n a).cyc = s.cyc := rfl
@[simp] theorem State.cancelWb_out (s : State) (n a : Nat) : (s.cancelWb n a).out = s.out := rfl
@[simp] theorem State.cancelWb_free (s : State) (n a : Nat) : (s.cancelWb n a).free = s.free := rfl
@[simp] theorem State.cancelWb_memReq (s : State) (n a : Nat) : (s.cancelWb n a).memReq = s.memReq := rfl
@[simp] theorem State.cancelWb_pending (s : State) (n a : Nat) : (s.cancelWb n a).pending = s.pending := rfl
@[simp] theorem State.cancelWb_core (s : State) (n a : Nat) (z : Nat) : (s.cancelWb n a).core z = s.core z := rfl
@[simp] theorem State.cancelWb_dmaOf (s : State) (n a : Nat) (z : Nat) : (s.cancelWb n a).dmaOf z = s.dmaOf z := rfl
@[simp] theorem State.cancelWb_fenOf (s : State) (n a : Nat) (z : Nat) : (s.cancelWb n a).fenOf z = s.fenOf z := rfl
@[simp] theorem State.cancelWb_byteAt (s : State) (n a : Nat) (z : Nat) : (s.cancelWb n a).byteAt z = s.byteAt z := rfl
@[simp] theorem State.cancelWb_count (s : State) (n a : Nat) (z : Nat) : (s.cancelWb n a).count z = s.count z := rfl
@[simp] theorem State.cancelWb_escOf (s : State) (n a : Nat) (z : Nat) : (s.cancelWb n a).escOf z = s.escOf z := rfl
@[simp] theorem State.cancelWb_running (s : State) (n a : Nat) : (s.cancelWb n a).running = s.running := rfl

@[simp] theorem State.cancelWb_rd (s : State) (n a : Nat) (i : Nat) : (s.cancelWb n a).rd i = s.rd i := rfl

/-! ### post -/

@[simp] theorem State.post_regs (s : State) (o n : Nat) (k : SyncKind) : (s.post o n k).regs = s.regs := rfl
@[simp] theorem State.post_latch (s : State) (o n : Nat) (k : SyncKind) : (s.post o n k).latch = s.latch := rfl
@[simp] theorem State.post_mem (s : State) (o n : Nat) (k : SyncKind) : (s.post o n k).mem = s.mem := rfl
@[simp] theorem State.post_syn (s : State) (o n : Nat) (k : SyncKind) : (s.post o n k).syn = s.syn := rfl
@[simp] theorem State.post_fuses (s : State) (o n : Nat) (k : SyncKind) : (s.post o n k).fuses = s.fuses := rfl
@[simp] theorem State.post_boot (s : State) (o n : Nat) (k : SyncKind) : (s.post o n k).boot = s.boot := rfl
@[simp] theorem State.post_tb (s : State) (o n : Nat) (k : SyncKind) : (s.post o n k).tb = s.tb := rfl
@[simp] theorem State.post_sch (s : State) (o n : Nat) (k : SyncKind) : (s.post o n k).sch = s.sch := rfl
@[simp] theorem State.post_cores (s : State) (o n : Nat) (k : SyncKind) : (s.post o n k).cores = s.cores := rfl
@[simp] theorem State.post_fen (s : State) (o n : Nat) (k : SyncKind) : (s.post o n k).fen = s.fen := rfl
@[simp] theorem State.post_counts (s : State) (o n : Nat) (k : SyncKind) : (s.post o n k).counts = s.counts := rfl
@[simp] theorem State.post_integ (s : State) (o n : Nat) (k : SyncKind) : (s.post o n k).integ = s.integ := rfl
@[simp] theorem State.post_banks (s : State) (o n : Nat) (k : SyncKind) : (s.post o n k).banks = s.banks := rfl
@[simp] theorem State.post_dma (s : State) (o n : Nat) (k : SyncKind) : (s.post o n k).dma = s.dma := rfl
@[simp] theorem State.post_dig (s : State) (o n : Nat) (k : SyncKind) : (s.post o n k).dig = s.dig := rfl
@[simp] theorem State.post_net (s : State) (o n : Nat) (k : SyncKind) : (s.post o n k).net = s.net := rfl
@[simp] theorem State.post_pair (s : State) (o n : Nat) (k : SyncKind) : (s.post o n k).pair = s.pair := rfl
@[simp] theorem State.post_host (s : State) (o n : Nat) (k : SyncKind) : (s.post o n k).host = s.host := rfl
@[simp] theorem State.post_log (s : State) (o n : Nat) (k : SyncKind) : (s.post o n k).log = s.log := rfl
@[simp] theorem State.post_esc (s : State) (o n : Nat) (k : SyncKind) : (s.post o n k).esc = s.esc := rfl
@[simp] theorem State.post_cyc (s : State) (o n : Nat) (k : SyncKind) : (s.post o n k).cyc = s.cyc := rfl
@[simp] theorem State.post_out (s : State) (o n : Nat) (k : SyncKind) : (s.post o n k).out = s.out := rfl
@[simp] theorem State.post_free (s : State) (o n : Nat) (k : SyncKind) : (s.post o n k).free = s.free := rfl
@[simp] theorem State.post_memReq (s : State) (o n : Nat) (k : SyncKind) : (s.post o n k).memReq = s.memReq := rfl
@[simp] theorem State.post_pending (s : State) (o n : Nat) (k : SyncKind) : (s.post o n k).pending = s.pending := rfl
@[simp] theorem State.post_core (s : State) (o n : Nat) (k : SyncKind) (z : Nat) : (s.post o n k).core z = s.core z := rfl
@[simp] theorem State.post_dmaOf (s : State) (o n : Nat) (k : SyncKind) (z : Nat) : (s.post o n k).dmaOf z = s.dmaOf z := rfl
@[simp] theorem State.post_fenOf (s : State) (o n : Nat) (k : SyncKind) (z : Nat) : (s.post o n k).fenOf z = s.fenOf z := rfl
@[simp] theorem State.post_integOf (s : State) (o n : Nat) (k : SyncKind) (z : Nat) : (s.post o n k).integOf z = s.integOf z := rfl
@[simp] theorem State.post_byteAt (s : State) (o n : Nat) (k : SyncKind) (z : Nat) : (s.post o n k).byteAt z = s.byteAt z := rfl
@[simp] theorem State.post_count (s : State) (o n : Nat) (k : SyncKind) (z : Nat) : (s.post o n k).count z = s.count z := rfl
@[simp] theorem State.post_escOf (s : State) (o n : Nat) (k : SyncKind) (z : Nat) : (s.post o n k).escOf z = s.escOf z := rfl
@[simp] theorem State.post_running (s : State) (o n : Nat) (k : SyncKind) : (s.post o n k).running = s.running := rfl

@[simp] theorem State.post_rd (s : State) (o n : Nat) (k : SyncKind) (i : Nat) : (s.post o n k).rd i = s.rd i := rfl

/-! ### setPin -/

@[simp] theorem State.setPin_regs (s : State) (k : Nat) (p : Pin) : (s.setPin k p).regs = s.regs := rfl
@[simp] theorem State.setPin_latch (s : State) (k : Nat) (p : Pin) : (s.setPin k p).latch = s.latch := rfl
@[simp] theorem State.setPin_mem (s : State) (k : Nat) (p : Pin) : (s.setPin k p).mem = s.mem := rfl
@[simp] theorem State.setPin_syn (s : State) (k : Nat) (p : Pin) : (s.setPin k p).syn = s.syn := rfl
@[simp] theorem State.setPin_fuses (s : State) (k : Nat) (p : Pin) : (s.setPin k p).fuses = s.fuses := rfl
@[simp] theorem State.setPin_boot (s : State) (k : Nat) (p : Pin) : (s.setPin k p).boot = s.boot := rfl
@[simp] theorem State.setPin_sch (s : State) (k : Nat) (p : Pin) : (s.setPin k p).sch = s.sch := rfl
@[simp] theorem State.setPin_cores (s : State) (k : Nat) (p : Pin) : (s.setPin k p).cores = s.cores := rfl
@[simp] theorem State.setPin_fen (s : State) (k : Nat) (p : Pin) : (s.setPin k p).fen = s.fen := rfl
@[simp] theorem State.setPin_counts (s : State) (k : Nat) (p : Pin) : (s.setPin k p).counts = s.counts := rfl
@[simp] theorem State.setPin_syncOps (s : State) (k : Nat) (p : Pin) : (s.setPin k p).syncOps = s.syncOps := rfl
@[simp] theorem State.setPin_integ (s : State) (k : Nat) (p : Pin) : (s.setPin k p).integ = s.integ := rfl
@[simp] theorem State.setPin_banks (s : State) (k : Nat) (p : Pin) : (s.setPin k p).banks = s.banks := rfl
@[simp] theorem State.setPin_dma (s : State) (k : Nat) (p : Pin) : (s.setPin k p).dma = s.dma := rfl
@[simp] theorem State.setPin_dig (s : State) (k : Nat) (p : Pin) : (s.setPin k p).dig = s.dig := rfl
@[simp] theorem State.setPin_net (s : State) (k : Nat) (p : Pin) : (s.setPin k p).net = s.net := rfl
@[simp] theorem State.setPin_pair (s : State) (k : Nat) (p : Pin) : (s.setPin k p).pair = s.pair := rfl
@[simp] theorem State.setPin_host (s : State) (k : Nat) (p : Pin) : (s.setPin k p).host = s.host := rfl
@[simp] theorem State.setPin_log (s : State) (k : Nat) (p : Pin) : (s.setPin k p).log = s.log := rfl
@[simp] theorem State.setPin_esc (s : State) (k : Nat) (p : Pin) : (s.setPin k p).esc = s.esc := rfl
@[simp] theorem State.setPin_cyc (s : State) (k : Nat) (p : Pin) : (s.setPin k p).cyc = s.cyc := rfl
@[simp] theorem State.setPin_out (s : State) (k : Nat) (p : Pin) : (s.setPin k p).out = s.out := rfl
@[simp] theorem State.setPin_free (s : State) (k : Nat) (p : Pin) : (s.setPin k p).free = s.free := rfl
@[simp] theorem State.setPin_memReq (s : State) (k : Nat) (p : Pin) : (s.setPin k p).memReq = s.memReq := rfl
@[simp] theorem State.setPin_pending (s : State) (k : Nat) (p : Pin) : (s.setPin k p).pending = s.pending := rfl
@[simp] theorem State.setPin_core (s : State) (k : Nat) (p : Pin) (z : Nat) : (s.setPin k p).core z = s.core z := rfl
@[simp] theorem State.setPin_dmaOf (s : State) (k : Nat) (p : Pin) (z : Nat) : (s.setPin k p).dmaOf z = s.dmaOf z := rfl
@[simp] theorem State.setPin_fenOf (s : State) (k : Nat) (p : Pin) (z : Nat) : (s.setPin k p).fenOf z = s.fenOf z := rfl
@[simp] theorem State.setPin_integOf (s : State) (k : Nat) (p : Pin) (z : Nat) : (s.setPin k p).integOf z = s.integOf z := rfl
@[simp] theorem State.setPin_byteAt (s : State) (k : Nat) (p : Pin) (z : Nat) : (s.setPin k p).byteAt z = s.byteAt z := rfl
@[simp] theorem State.setPin_count (s : State) (k : Nat) (p : Pin) (z : Nat) : (s.setPin k p).count z = s.count z := rfl
@[simp] theorem State.setPin_escOf (s : State) (k : Nat) (p : Pin) (z : Nat) : (s.setPin k p).escOf z = s.escOf z := rfl
@[simp] theorem State.setPin_running (s : State) (k : Nat) (p : Pin) : (s.setPin k p).running = s.running := rfl

@[simp] theorem State.setPin_rd (s : State) (k : Nat) (p : Pin) (i : Nat) : (s.setPin k p).rd i = s.rd i := rfl

/-! ### acquire -/

@[simp] theorem State.acquire_regs (s : State) (k : Nat) : (s.acquire k).regs = s.regs := rfl
@[simp] theorem State.acquire_latch (s : State) (k : Nat) : (s.acquire k).latch = s.latch := rfl
@[simp] theorem State.acquire_mem (s : State) (k : Nat) : (s.acquire k).mem = s.mem := rfl
@[simp] theorem State.acquire_syn (s : State) (k : Nat) : (s.acquire k).syn = s.syn := rfl
@[simp] theorem State.acquire_fuses (s : State) (k : Nat) : (s.acquire k).fuses = s.fuses := rfl
@[simp] theorem State.acquire_boot (s : State) (k : Nat) : (s.acquire k).boot = s.boot := rfl
@[simp] theorem State.acquire_sch (s : State) (k : Nat) : (s.acquire k).sch = s.sch := rfl
@[simp] theorem State.acquire_cores (s : State) (k : Nat) : (s.acquire k).cores = s.cores := rfl
@[simp] theorem State.acquire_fen (s : State) (k : Nat) : (s.acquire k).fen = s.fen := rfl
@[simp] theorem State.acquire_counts (s : State) (k : Nat) : (s.acquire k).counts = s.counts := rfl
@[simp] theorem State.acquire_syncOps (s : State) (k : Nat) : (s.acquire k).syncOps = s.syncOps := rfl
@[simp] theorem State.acquire_integ (s : State) (k : Nat) : (s.acquire k).integ = s.integ := rfl
@[simp] theorem State.acquire_banks (s : State) (k : Nat) : (s.acquire k).banks = s.banks := rfl
@[simp] theorem State.acquire_dma (s : State) (k : Nat) : (s.acquire k).dma = s.dma := rfl
@[simp] theorem State.acquire_dig (s : State) (k : Nat) : (s.acquire k).dig = s.dig := rfl
@[simp] theorem State.acquire_net (s : State) (k : Nat) : (s.acquire k).net = s.net := rfl
@[simp] theorem State.acquire_pair (s : State) (k : Nat) : (s.acquire k).pair = s.pair := rfl
@[simp] theorem State.acquire_host (s : State) (k : Nat) : (s.acquire k).host = s.host := rfl
@[simp] theorem State.acquire_log (s : State) (k : Nat) : (s.acquire k).log = s.log := rfl
@[simp] theorem State.acquire_esc (s : State) (k : Nat) : (s.acquire k).esc = s.esc := rfl
@[simp] theorem State.acquire_cyc (s : State) (k : Nat) : (s.acquire k).cyc = s.cyc := rfl
@[simp] theorem State.acquire_out (s : State) (k : Nat) : (s.acquire k).out = s.out := rfl
@[simp] theorem State.acquire_free (s : State) (k : Nat) : (s.acquire k).free = s.free := rfl
@[simp] theorem State.acquire_memReq (s : State) (k : Nat) : (s.acquire k).memReq = s.memReq := rfl
@[simp] theorem State.acquire_pending (s : State) (k : Nat) : (s.acquire k).pending = s.pending := rfl
@[simp] theorem State.acquire_core (s : State) (k : Nat) (z : Nat) : (s.acquire k).core z = s.core z := rfl
@[simp] theorem State.acquire_dmaOf (s : State) (k : Nat) (z : Nat) : (s.acquire k).dmaOf z = s.dmaOf z := rfl
@[simp] theorem State.acquire_fenOf (s : State) (k : Nat) (z : Nat) : (s.acquire k).fenOf z = s.fenOf z := rfl
@[simp] theorem State.acquire_integOf (s : State) (k : Nat) (z : Nat) : (s.acquire k).integOf z = s.integOf z := rfl
@[simp] theorem State.acquire_byteAt (s : State) (k : Nat) (z : Nat) : (s.acquire k).byteAt z = s.byteAt z := rfl
@[simp] theorem State.acquire_count (s : State) (k : Nat) (z : Nat) : (s.acquire k).count z = s.count z := rfl
@[simp] theorem State.acquire_escOf (s : State) (k : Nat) (z : Nat) : (s.acquire k).escOf z = s.escOf z := rfl
@[simp] theorem State.acquire_running (s : State) (k : Nat) : (s.acquire k).running = s.running := rfl

@[simp] theorem State.acquire_rd (s : State) (k : Nat) (i : Nat) : (s.acquire k).rd i = s.rd i := rfl

/-! ### dropWait -/

@[simp] theorem State.dropWait_regs (s : State) (k : Nat) : (s.dropWait k).regs = s.regs := rfl
@[simp] theorem State.dropWait_latch (s : State) (k : Nat) : (s.dropWait k).latch = s.latch := rfl
@[simp] theorem State.dropWait_mem (s : State) (k : Nat) : (s.dropWait k).mem = s.mem := rfl
@[simp] theorem State.dropWait_syn (s : State) (k : Nat) : (s.dropWait k).syn = s.syn := rfl
@[simp] theorem State.dropWait_fuses (s : State) (k : Nat) : (s.dropWait k).fuses = s.fuses := rfl
@[simp] theorem State.dropWait_boot (s : State) (k : Nat) : (s.dropWait k).boot = s.boot := rfl
@[simp] theorem State.dropWait_tb (s : State) (k : Nat) : (s.dropWait k).tb = s.tb := rfl
@[simp] theorem State.dropWait_sch (s : State) (k : Nat) : (s.dropWait k).sch = s.sch := rfl
@[simp] theorem State.dropWait_cores (s : State) (k : Nat) : (s.dropWait k).cores = s.cores := rfl
@[simp] theorem State.dropWait_fen (s : State) (k : Nat) : (s.dropWait k).fen = s.fen := rfl
@[simp] theorem State.dropWait_counts (s : State) (k : Nat) : (s.dropWait k).counts = s.counts := rfl
@[simp] theorem State.dropWait_integ (s : State) (k : Nat) : (s.dropWait k).integ = s.integ := rfl
@[simp] theorem State.dropWait_banks (s : State) (k : Nat) : (s.dropWait k).banks = s.banks := rfl
@[simp] theorem State.dropWait_dma (s : State) (k : Nat) : (s.dropWait k).dma = s.dma := rfl
@[simp] theorem State.dropWait_dig (s : State) (k : Nat) : (s.dropWait k).dig = s.dig := rfl
@[simp] theorem State.dropWait_net (s : State) (k : Nat) : (s.dropWait k).net = s.net := rfl
@[simp] theorem State.dropWait_pair (s : State) (k : Nat) : (s.dropWait k).pair = s.pair := rfl
@[simp] theorem State.dropWait_host (s : State) (k : Nat) : (s.dropWait k).host = s.host := rfl
@[simp] theorem State.dropWait_log (s : State) (k : Nat) : (s.dropWait k).log = s.log := rfl
@[simp] theorem State.dropWait_esc (s : State) (k : Nat) : (s.dropWait k).esc = s.esc := rfl
@[simp] theorem State.dropWait_cyc (s : State) (k : Nat) : (s.dropWait k).cyc = s.cyc := rfl
@[simp] theorem State.dropWait_out (s : State) (k : Nat) : (s.dropWait k).out = s.out := rfl
@[simp] theorem State.dropWait_free (s : State) (k : Nat) : (s.dropWait k).free = s.free := rfl
@[simp] theorem State.dropWait_memReq (s : State) (k : Nat) : (s.dropWait k).memReq = s.memReq := rfl
@[simp] theorem State.dropWait_pending (s : State) (k : Nat) : (s.dropWait k).pending = s.pending := rfl
@[simp] theorem State.dropWait_core (s : State) (k : Nat) (z : Nat) : (s.dropWait k).core z = s.core z := rfl
@[simp] theorem State.dropWait_dmaOf (s : State) (k : Nat) (z : Nat) : (s.dropWait k).dmaOf z = s.dmaOf z := rfl
@[simp] theorem State.dropWait_fenOf (s : State) (k : Nat) (z : Nat) : (s.dropWait k).fenOf z = s.fenOf z := rfl
@[simp] theorem State.dropWait_integOf (s : State) (k : Nat) (z : Nat) : (s.dropWait k).integOf z = s.integOf z := rfl
@[simp] theorem State.dropWait_byteAt (s : State) (k : Nat) (z : Nat) : (s.dropWait k).byteAt z = s.byteAt z := rfl
@[simp] theorem State.dropWait_count (s : State) (k : Nat) (z : Nat) : (s.dropWait k).count z = s.count z := rfl
@[simp] theorem State.dropWait_escOf (s : State) (k : Nat) (z : Nat) : (s.dropWait k).escOf z = s.escOf z := rfl
@[simp] theorem State.dropWait_running (s : State) (k : Nat) : (s.dropWait k).running = s.running := rfl

@[simp] theorem State.dropWait_rd (s : State) (k : Nat) (i : Nat) : (s.dropWait k).rd i = s.rd i := rfl

/-! ### grantBus -/

@[simp] theorem State.grantBus_regs (s : State) (o : Nat) (cs : List Claim) : (s.grantBus o cs).regs = s.regs := rfl
@[simp] theorem State.grantBus_latch (s : State) (o : Nat) (cs : List Claim) : (s.grantBus o cs).latch = s.latch := rfl
@[simp] theorem State.grantBus_mem (s : State) (o : Nat) (cs : List Claim) : (s.grantBus o cs).mem = s.mem := rfl
@[simp] theorem State.grantBus_syn (s : State) (o : Nat) (cs : List Claim) : (s.grantBus o cs).syn = s.syn := rfl
@[simp] theorem State.grantBus_fuses (s : State) (o : Nat) (cs : List Claim) : (s.grantBus o cs).fuses = s.fuses := rfl
@[simp] theorem State.grantBus_boot (s : State) (o : Nat) (cs : List Claim) : (s.grantBus o cs).boot = s.boot := rfl
@[simp] theorem State.grantBus_tb (s : State) (o : Nat) (cs : List Claim) : (s.grantBus o cs).tb = s.tb := rfl
@[simp] theorem State.grantBus_sch (s : State) (o : Nat) (cs : List Claim) : (s.grantBus o cs).sch = s.sch := rfl
@[simp] theorem State.grantBus_cores (s : State) (o : Nat) (cs : List Claim) : (s.grantBus o cs).cores = s.cores := rfl
@[simp] theorem State.grantBus_fen (s : State) (o : Nat) (cs : List Claim) : (s.grantBus o cs).fen = s.fen := rfl
@[simp] theorem State.grantBus_counts (s : State) (o : Nat) (cs : List Claim) : (s.grantBus o cs).counts = s.counts := rfl
@[simp] theorem State.grantBus_syncOps (s : State) (o : Nat) (cs : List Claim) : (s.grantBus o cs).syncOps = s.syncOps := rfl
@[simp] theorem State.grantBus_integ (s : State) (o : Nat) (cs : List Claim) : (s.grantBus o cs).integ = s.integ := rfl
@[simp] theorem State.grantBus_banks (s : State) (o : Nat) (cs : List Claim) : (s.grantBus o cs).banks = s.banks := rfl
@[simp] theorem State.grantBus_dma (s : State) (o : Nat) (cs : List Claim) : (s.grantBus o cs).dma = s.dma := rfl
@[simp] theorem State.grantBus_dig (s : State) (o : Nat) (cs : List Claim) : (s.grantBus o cs).dig = s.dig := rfl
@[simp] theorem State.grantBus_net (s : State) (o : Nat) (cs : List Claim) : (s.grantBus o cs).net = s.net := rfl
@[simp] theorem State.grantBus_pair (s : State) (o : Nat) (cs : List Claim) : (s.grantBus o cs).pair = s.pair := rfl
@[simp] theorem State.grantBus_host (s : State) (o : Nat) (cs : List Claim) : (s.grantBus o cs).host = s.host := rfl
@[simp] theorem State.grantBus_log (s : State) (o : Nat) (cs : List Claim) : (s.grantBus o cs).log = s.log := rfl
@[simp] theorem State.grantBus_esc (s : State) (o : Nat) (cs : List Claim) : (s.grantBus o cs).esc = s.esc := rfl
@[simp] theorem State.grantBus_out (s : State) (o : Nat) (cs : List Claim) : (s.grantBus o cs).out = s.out := rfl
@[simp] theorem State.grantBus_free (s : State) (o : Nat) (cs : List Claim) : (s.grantBus o cs).free = s.free := rfl
@[simp] theorem State.grantBus_memReq (s : State) (o : Nat) (cs : List Claim) : (s.grantBus o cs).memReq = s.memReq := rfl
@[simp] theorem State.grantBus_pending (s : State) (o : Nat) (cs : List Claim) : (s.grantBus o cs).pending = s.pending := rfl
@[simp] theorem State.grantBus_core (s : State) (o : Nat) (cs : List Claim) (z : Nat) : (s.grantBus o cs).core z = s.core z := rfl
@[simp] theorem State.grantBus_dmaOf (s : State) (o : Nat) (cs : List Claim) (z : Nat) : (s.grantBus o cs).dmaOf z = s.dmaOf z := rfl
@[simp] theorem State.grantBus_fenOf (s : State) (o : Nat) (cs : List Claim) (z : Nat) : (s.grantBus o cs).fenOf z = s.fenOf z := rfl
@[simp] theorem State.grantBus_integOf (s : State) (o : Nat) (cs : List Claim) (z : Nat) : (s.grantBus o cs).integOf z = s.integOf z := rfl
@[simp] theorem State.grantBus_byteAt (s : State) (o : Nat) (cs : List Claim) (z : Nat) : (s.grantBus o cs).byteAt z = s.byteAt z := rfl
@[simp] theorem State.grantBus_count (s : State) (o : Nat) (cs : List Claim) (z : Nat) : (s.grantBus o cs).count z = s.count z := rfl
@[simp] theorem State.grantBus_escOf (s : State) (o : Nat) (cs : List Claim) (z : Nat) : (s.grantBus o cs).escOf z = s.escOf z := rfl
@[simp] theorem State.grantBus_running (s : State) (o : Nat) (cs : List Claim) : (s.grantBus o cs).running = s.running := rfl

@[simp] theorem State.grantBus_rd (s : State) (o : Nat) (cs : List Claim) (i : Nat) : (s.grantBus o cs).rd i = s.rd i := rfl

/-! ### noteHeld -/

@[simp] theorem State.noteHeld_regs (s : State) (cs : List Claim) : (s.noteHeld cs).regs = s.regs := rfl
@[simp] theorem State.noteHeld_latch (s : State) (cs : List Claim) : (s.noteHeld cs).latch = s.latch := rfl
@[simp] theorem State.noteHeld_mem (s : State) (cs : List Claim) : (s.noteHeld cs).mem = s.mem := rfl
@[simp] theorem State.noteHeld_syn (s : State) (cs : List Claim) : (s.noteHeld cs).syn = s.syn := rfl
@[simp] theorem State.noteHeld_fuses (s : State) (cs : List Claim) : (s.noteHeld cs).fuses = s.fuses := rfl
@[simp] theorem State.noteHeld_boot (s : State) (cs : List Claim) : (s.noteHeld cs).boot = s.boot := rfl
@[simp] theorem State.noteHeld_tb (s : State) (cs : List Claim) : (s.noteHeld cs).tb = s.tb := rfl
@[simp] theorem State.noteHeld_sch (s : State) (cs : List Claim) : (s.noteHeld cs).sch = s.sch := rfl
@[simp] theorem State.noteHeld_cores (s : State) (cs : List Claim) : (s.noteHeld cs).cores = s.cores := rfl
@[simp] theorem State.noteHeld_fen (s : State) (cs : List Claim) : (s.noteHeld cs).fen = s.fen := rfl
@[simp] theorem State.noteHeld_counts (s : State) (cs : List Claim) : (s.noteHeld cs).counts = s.counts := rfl
@[simp] theorem State.noteHeld_syncOps (s : State) (cs : List Claim) : (s.noteHeld cs).syncOps = s.syncOps := rfl
@[simp] theorem State.noteHeld_integ (s : State) (cs : List Claim) : (s.noteHeld cs).integ = s.integ := rfl
@[simp] theorem State.noteHeld_banks (s : State) (cs : List Claim) : (s.noteHeld cs).banks = s.banks := rfl
@[simp] theorem State.noteHeld_dma (s : State) (cs : List Claim) : (s.noteHeld cs).dma = s.dma := rfl
@[simp] theorem State.noteHeld_dig (s : State) (cs : List Claim) : (s.noteHeld cs).dig = s.dig := rfl
@[simp] theorem State.noteHeld_net (s : State) (cs : List Claim) : (s.noteHeld cs).net = s.net := rfl
@[simp] theorem State.noteHeld_pair (s : State) (cs : List Claim) : (s.noteHeld cs).pair = s.pair := rfl
@[simp] theorem State.noteHeld_host (s : State) (cs : List Claim) : (s.noteHeld cs).host = s.host := rfl
@[simp] theorem State.noteHeld_log (s : State) (cs : List Claim) : (s.noteHeld cs).log = s.log := rfl
@[simp] theorem State.noteHeld_esc (s : State) (cs : List Claim) : (s.noteHeld cs).esc = s.esc := rfl
@[simp] theorem State.noteHeld_out (s : State) (cs : List Claim) : (s.noteHeld cs).out = s.out := rfl
@[simp] theorem State.noteHeld_free (s : State) (cs : List Claim) : (s.noteHeld cs).free = s.free := rfl
@[simp] theorem State.noteHeld_memReq (s : State) (cs : List Claim) : (s.noteHeld cs).memReq = s.memReq := rfl
@[simp] theorem State.noteHeld_pending (s : State) (cs : List Claim) : (s.noteHeld cs).pending = s.pending := rfl
@[simp] theorem State.noteHeld_core (s : State) (cs : List Claim) (z : Nat) : (s.noteHeld cs).core z = s.core z := rfl
@[simp] theorem State.noteHeld_dmaOf (s : State) (cs : List Claim) (z : Nat) : (s.noteHeld cs).dmaOf z = s.dmaOf z := rfl
@[simp] theorem State.noteHeld_fenOf (s : State) (cs : List Claim) (z : Nat) : (s.noteHeld cs).fenOf z = s.fenOf z := rfl
@[simp] theorem State.noteHeld_integOf (s : State) (cs : List Claim) (z : Nat) : (s.noteHeld cs).integOf z = s.integOf z := rfl
@[simp] theorem State.noteHeld_byteAt (s : State) (cs : List Claim) (z : Nat) : (s.noteHeld cs).byteAt z = s.byteAt z := rfl
@[simp] theorem State.noteHeld_count (s : State) (cs : List Claim) (z : Nat) : (s.noteHeld cs).count z = s.count z := rfl
@[simp] theorem State.noteHeld_escOf (s : State) (cs : List Claim) (z : Nat) : (s.noteHeld cs).escOf z = s.escOf z := rfl
@[simp] theorem State.noteHeld_running (s : State) (cs : List Claim) : (s.noteHeld cs).running = s.running := rfl

@[simp] theorem State.noteHeld_rd (s : State) (cs : List Claim) (i : Nat) : (s.noteHeld cs).rd i = s.rd i := rfl

/-! ### timed -/

@[simp] theorem State.timed_regs (s : State) (n t : Nat) : (s.timed n t).regs = s.regs := rfl
@[simp] theorem State.timed_latch (s : State) (n t : Nat) : (s.timed n t).latch = s.latch := rfl
@[simp] theorem State.timed_mem (s : State) (n t : Nat) : (s.timed n t).mem = s.mem := rfl
@[simp] theorem State.timed_syn (s : State) (n t : Nat) : (s.timed n t).syn = s.syn := rfl
@[simp] theorem State.timed_fuses (s : State) (n t : Nat) : (s.timed n t).fuses = s.fuses := rfl
@[simp] theorem State.timed_boot (s : State) (n t : Nat) : (s.timed n t).boot = s.boot := rfl
@[simp] theorem State.timed_tb (s : State) (n t : Nat) : (s.timed n t).tb = s.tb := rfl
@[simp] theorem State.timed_sch (s : State) (n t : Nat) : (s.timed n t).sch = s.sch := rfl
@[simp] theorem State.timed_cores (s : State) (n t : Nat) : (s.timed n t).cores = s.cores := rfl
@[simp] theorem State.timed_fen (s : State) (n t : Nat) : (s.timed n t).fen = s.fen := rfl
@[simp] theorem State.timed_counts (s : State) (n t : Nat) : (s.timed n t).counts = s.counts := rfl
@[simp] theorem State.timed_syncOps (s : State) (n t : Nat) : (s.timed n t).syncOps = s.syncOps := rfl
@[simp] theorem State.timed_integ (s : State) (n t : Nat) : (s.timed n t).integ = s.integ := rfl
@[simp] theorem State.timed_banks (s : State) (n t : Nat) : (s.timed n t).banks = s.banks := rfl
@[simp] theorem State.timed_dma (s : State) (n t : Nat) : (s.timed n t).dma = s.dma := rfl
@[simp] theorem State.timed_dig (s : State) (n t : Nat) : (s.timed n t).dig = s.dig := rfl
@[simp] theorem State.timed_net (s : State) (n t : Nat) : (s.timed n t).net = s.net := rfl
@[simp] theorem State.timed_pair (s : State) (n t : Nat) : (s.timed n t).pair = s.pair := rfl
@[simp] theorem State.timed_host (s : State) (n t : Nat) : (s.timed n t).host = s.host := rfl
@[simp] theorem State.timed_log (s : State) (n t : Nat) : (s.timed n t).log = s.log := rfl
@[simp] theorem State.timed_esc (s : State) (n t : Nat) : (s.timed n t).esc = s.esc := rfl
@[simp] theorem State.timed_out (s : State) (n t : Nat) : (s.timed n t).out = s.out := rfl
@[simp] theorem State.timed_free (s : State) (n t : Nat) : (s.timed n t).free = s.free := rfl
@[simp] theorem State.timed_memReq (s : State) (n t : Nat) : (s.timed n t).memReq = s.memReq := rfl
@[simp] theorem State.timed_pending (s : State) (n t : Nat) : (s.timed n t).pending = s.pending := rfl
@[simp] theorem State.timed_core (s : State) (n t : Nat) (z : Nat) : (s.timed n t).core z = s.core z := rfl
@[simp] theorem State.timed_dmaOf (s : State) (n t : Nat) (z : Nat) : (s.timed n t).dmaOf z = s.dmaOf z := rfl
@[simp] theorem State.timed_fenOf (s : State) (n t : Nat) (z : Nat) : (s.timed n t).fenOf z = s.fenOf z := rfl
@[simp] theorem State.timed_integOf (s : State) (n t : Nat) (z : Nat) : (s.timed n t).integOf z = s.integOf z := rfl
@[simp] theorem State.timed_byteAt (s : State) (n t : Nat) (z : Nat) : (s.timed n t).byteAt z = s.byteAt z := rfl
@[simp] theorem State.timed_count (s : State) (n t : Nat) (z : Nat) : (s.timed n t).count z = s.count z := rfl
@[simp] theorem State.timed_escOf (s : State) (n t : Nat) (z : Nat) : (s.timed n t).escOf z = s.escOf z := rfl
@[simp] theorem State.timed_running (s : State) (n t : Nat) : (s.timed n t).running = s.running := rfl

@[simp] theorem State.timed_rd (s : State) (n t : Nat) (i : Nat) : (s.timed n t).rd i = s.rd i := rfl

/-! ### timedAt -/

@[simp] theorem State.timedAt_regs (s : State) (w : Option Dword) : (s.timedAt w).regs = s.regs := rfl
@[simp] theorem State.timedAt_latch (s : State) (w : Option Dword) : (s.timedAt w).latch = s.latch := rfl
@[simp] theorem State.timedAt_mem (s : State) (w : Option Dword) : (s.timedAt w).mem = s.mem := rfl
@[simp] theorem State.timedAt_syn (s : State) (w : Option Dword) : (s.timedAt w).syn = s.syn := rfl
@[simp] theorem State.timedAt_fuses (s : State) (w : Option Dword) : (s.timedAt w).fuses = s.fuses := rfl
@[simp] theorem State.timedAt_boot (s : State) (w : Option Dword) : (s.timedAt w).boot = s.boot := rfl
@[simp] theorem State.timedAt_tb (s : State) (w : Option Dword) : (s.timedAt w).tb = s.tb := rfl
@[simp] theorem State.timedAt_sch (s : State) (w : Option Dword) : (s.timedAt w).sch = s.sch := rfl
@[simp] theorem State.timedAt_cores (s : State) (w : Option Dword) : (s.timedAt w).cores = s.cores := rfl
@[simp] theorem State.timedAt_fen (s : State) (w : Option Dword) : (s.timedAt w).fen = s.fen := rfl
@[simp] theorem State.timedAt_counts (s : State) (w : Option Dword) : (s.timedAt w).counts = s.counts := rfl
@[simp] theorem State.timedAt_syncOps (s : State) (w : Option Dword) : (s.timedAt w).syncOps = s.syncOps := rfl
@[simp] theorem State.timedAt_integ (s : State) (w : Option Dword) : (s.timedAt w).integ = s.integ := rfl
@[simp] theorem State.timedAt_banks (s : State) (w : Option Dword) : (s.timedAt w).banks = s.banks := rfl
@[simp] theorem State.timedAt_dma (s : State) (w : Option Dword) : (s.timedAt w).dma = s.dma := rfl
@[simp] theorem State.timedAt_dig (s : State) (w : Option Dword) : (s.timedAt w).dig = s.dig := rfl
@[simp] theorem State.timedAt_net (s : State) (w : Option Dword) : (s.timedAt w).net = s.net := rfl
@[simp] theorem State.timedAt_pair (s : State) (w : Option Dword) : (s.timedAt w).pair = s.pair := rfl
@[simp] theorem State.timedAt_host (s : State) (w : Option Dword) : (s.timedAt w).host = s.host := rfl
@[simp] theorem State.timedAt_log (s : State) (w : Option Dword) : (s.timedAt w).log = s.log := rfl
@[simp] theorem State.timedAt_esc (s : State) (w : Option Dword) : (s.timedAt w).esc = s.esc := rfl
@[simp] theorem State.timedAt_out (s : State) (w : Option Dword) : (s.timedAt w).out = s.out := rfl
@[simp] theorem State.timedAt_free (s : State) (w : Option Dword) : (s.timedAt w).free = s.free := rfl
@[simp] theorem State.timedAt_memReq (s : State) (w : Option Dword) : (s.timedAt w).memReq = s.memReq := rfl
@[simp] theorem State.timedAt_pending (s : State) (w : Option Dword) : (s.timedAt w).pending = s.pending := rfl
@[simp] theorem State.timedAt_core (s : State) (w : Option Dword) (z : Nat) : (s.timedAt w).core z = s.core z := rfl
@[simp] theorem State.timedAt_dmaOf (s : State) (w : Option Dword) (z : Nat) : (s.timedAt w).dmaOf z = s.dmaOf z := rfl
@[simp] theorem State.timedAt_fenOf (s : State) (w : Option Dword) (z : Nat) : (s.timedAt w).fenOf z = s.fenOf z := rfl
@[simp] theorem State.timedAt_integOf (s : State) (w : Option Dword) (z : Nat) : (s.timedAt w).integOf z = s.integOf z := rfl
@[simp] theorem State.timedAt_byteAt (s : State) (w : Option Dword) (z : Nat) : (s.timedAt w).byteAt z = s.byteAt z := rfl
@[simp] theorem State.timedAt_count (s : State) (w : Option Dword) (z : Nat) : (s.timedAt w).count z = s.count z := rfl
@[simp] theorem State.timedAt_escOf (s : State) (w : Option Dword) (z : Nat) : (s.timedAt w).escOf z = s.escOf z := rfl
@[simp] theorem State.timedAt_running (s : State) (w : Option Dword) : (s.timedAt w).running = s.running := rfl

@[simp] theorem State.timedAt_rd (s : State) (w : Option Dword) (i : Nat) : (s.timedAt w).rd i = s.rd i := rfl

/-! ### modDma -/

@[simp] theorem State.modDma_regs (s : State) (k : Nat) (f : DmaChan → DmaChan) : (s.modDma k f).regs = s.regs := rfl
@[simp] theorem State.modDma_latch (s : State) (k : Nat) (f : DmaChan → DmaChan) : (s.modDma k f).latch = s.latch := rfl
@[simp] theorem State.modDma_mem (s : State) (k : Nat) (f : DmaChan → DmaChan) : (s.modDma k f).mem = s.mem := rfl
@[simp] theorem State.modDma_syn (s : State) (k : Nat) (f : DmaChan → DmaChan) : (s.modDma k f).syn = s.syn := rfl
@[simp] theorem State.modDma_fuses (s : State) (k : Nat) (f : DmaChan → DmaChan) : (s.modDma k f).fuses = s.fuses := rfl
@[simp] theorem State.modDma_boot (s : State) (k : Nat) (f : DmaChan → DmaChan) : (s.modDma k f).boot = s.boot := rfl
@[simp] theorem State.modDma_tb (s : State) (k : Nat) (f : DmaChan → DmaChan) : (s.modDma k f).tb = s.tb := rfl
@[simp] theorem State.modDma_sch (s : State) (k : Nat) (f : DmaChan → DmaChan) : (s.modDma k f).sch = s.sch := rfl
@[simp] theorem State.modDma_cores (s : State) (k : Nat) (f : DmaChan → DmaChan) : (s.modDma k f).cores = s.cores := rfl
@[simp] theorem State.modDma_fen (s : State) (k : Nat) (f : DmaChan → DmaChan) : (s.modDma k f).fen = s.fen := rfl
@[simp] theorem State.modDma_counts (s : State) (k : Nat) (f : DmaChan → DmaChan) : (s.modDma k f).counts = s.counts := rfl
@[simp] theorem State.modDma_syncOps (s : State) (k : Nat) (f : DmaChan → DmaChan) : (s.modDma k f).syncOps = s.syncOps := rfl
@[simp] theorem State.modDma_integ (s : State) (k : Nat) (f : DmaChan → DmaChan) : (s.modDma k f).integ = s.integ := rfl
@[simp] theorem State.modDma_banks (s : State) (k : Nat) (f : DmaChan → DmaChan) : (s.modDma k f).banks = s.banks := rfl
@[simp] theorem State.modDma_dig (s : State) (k : Nat) (f : DmaChan → DmaChan) : (s.modDma k f).dig = s.dig := rfl
@[simp] theorem State.modDma_net (s : State) (k : Nat) (f : DmaChan → DmaChan) : (s.modDma k f).net = s.net := rfl
@[simp] theorem State.modDma_pair (s : State) (k : Nat) (f : DmaChan → DmaChan) : (s.modDma k f).pair = s.pair := rfl
@[simp] theorem State.modDma_host (s : State) (k : Nat) (f : DmaChan → DmaChan) : (s.modDma k f).host = s.host := rfl
@[simp] theorem State.modDma_log (s : State) (k : Nat) (f : DmaChan → DmaChan) : (s.modDma k f).log = s.log := rfl
@[simp] theorem State.modDma_esc (s : State) (k : Nat) (f : DmaChan → DmaChan) : (s.modDma k f).esc = s.esc := rfl
@[simp] theorem State.modDma_cyc (s : State) (k : Nat) (f : DmaChan → DmaChan) : (s.modDma k f).cyc = s.cyc := rfl
@[simp] theorem State.modDma_out (s : State) (k : Nat) (f : DmaChan → DmaChan) : (s.modDma k f).out = s.out := rfl
@[simp] theorem State.modDma_free (s : State) (k : Nat) (f : DmaChan → DmaChan) : (s.modDma k f).free = s.free := rfl
@[simp] theorem State.modDma_memReq (s : State) (k : Nat) (f : DmaChan → DmaChan) : (s.modDma k f).memReq = s.memReq := rfl
@[simp] theorem State.modDma_pending (s : State) (k : Nat) (f : DmaChan → DmaChan) : (s.modDma k f).pending = s.pending := rfl
@[simp] theorem State.modDma_core (s : State) (k : Nat) (f : DmaChan → DmaChan) (z : Nat) : (s.modDma k f).core z = s.core z := rfl
@[simp] theorem State.modDma_fenOf (s : State) (k : Nat) (f : DmaChan → DmaChan) (z : Nat) : (s.modDma k f).fenOf z = s.fenOf z := rfl
@[simp] theorem State.modDma_integOf (s : State) (k : Nat) (f : DmaChan → DmaChan) (z : Nat) : (s.modDma k f).integOf z = s.integOf z := rfl
@[simp] theorem State.modDma_byteAt (s : State) (k : Nat) (f : DmaChan → DmaChan) (z : Nat) : (s.modDma k f).byteAt z = s.byteAt z := rfl
@[simp] theorem State.modDma_count (s : State) (k : Nat) (f : DmaChan → DmaChan) (z : Nat) : (s.modDma k f).count z = s.count z := rfl
@[simp] theorem State.modDma_escOf (s : State) (k : Nat) (f : DmaChan → DmaChan) (z : Nat) : (s.modDma k f).escOf z = s.escOf z := rfl
@[simp] theorem State.modDma_running (s : State) (k : Nat) (f : DmaChan → DmaChan) : (s.modDma k f).running = s.running := rfl

@[simp] theorem State.modDma_rd (s : State) (k : Nat) (f : DmaChan → DmaChan) (i : Nat) : (s.modDma k f).rd i = s.rd i := rfl

/-! ### setDma -/

@[simp] theorem State.setDma_regs (s : State) (k : Nat) (c : DmaChan) : (s.setDma k c).regs = s.regs := rfl
@[simp] theorem State.setDma_latch (s : State) (k : Nat) (c : DmaChan) : (s.setDma k c).latch = s.latch := rfl
@[simp] theorem State.setDma_mem (s : State) (k : Nat) (c : DmaChan) : (s.setDma k c).mem = s.mem := rfl
@[simp] theorem State.setDma_syn (s : State) (k : Nat) (c : DmaChan) : (s.setDma k c).syn = s.syn := rfl
@[simp] theorem State.setDma_fuses (s : State) (k : Nat) (c : DmaChan) : (s.setDma k c).fuses = s.fuses := rfl
@[simp] theorem State.setDma_boot (s : State) (k : Nat) (c : DmaChan) : (s.setDma k c).boot = s.boot := rfl
@[simp] theorem State.setDma_tb (s : State) (k : Nat) (c : DmaChan) : (s.setDma k c).tb = s.tb := rfl
@[simp] theorem State.setDma_sch (s : State) (k : Nat) (c : DmaChan) : (s.setDma k c).sch = s.sch := rfl
@[simp] theorem State.setDma_cores (s : State) (k : Nat) (c : DmaChan) : (s.setDma k c).cores = s.cores := rfl
@[simp] theorem State.setDma_fen (s : State) (k : Nat) (c : DmaChan) : (s.setDma k c).fen = s.fen := rfl
@[simp] theorem State.setDma_counts (s : State) (k : Nat) (c : DmaChan) : (s.setDma k c).counts = s.counts := rfl
@[simp] theorem State.setDma_syncOps (s : State) (k : Nat) (c : DmaChan) : (s.setDma k c).syncOps = s.syncOps := rfl
@[simp] theorem State.setDma_integ (s : State) (k : Nat) (c : DmaChan) : (s.setDma k c).integ = s.integ := rfl
@[simp] theorem State.setDma_banks (s : State) (k : Nat) (c : DmaChan) : (s.setDma k c).banks = s.banks := rfl
@[simp] theorem State.setDma_dig (s : State) (k : Nat) (c : DmaChan) : (s.setDma k c).dig = s.dig := rfl
@[simp] theorem State.setDma_net (s : State) (k : Nat) (c : DmaChan) : (s.setDma k c).net = s.net := rfl
@[simp] theorem State.setDma_pair (s : State) (k : Nat) (c : DmaChan) : (s.setDma k c).pair = s.pair := rfl
@[simp] theorem State.setDma_host (s : State) (k : Nat) (c : DmaChan) : (s.setDma k c).host = s.host := rfl
@[simp] theorem State.setDma_log (s : State) (k : Nat) (c : DmaChan) : (s.setDma k c).log = s.log := rfl
@[simp] theorem State.setDma_esc (s : State) (k : Nat) (c : DmaChan) : (s.setDma k c).esc = s.esc := rfl
@[simp] theorem State.setDma_cyc (s : State) (k : Nat) (c : DmaChan) : (s.setDma k c).cyc = s.cyc := rfl
@[simp] theorem State.setDma_out (s : State) (k : Nat) (c : DmaChan) : (s.setDma k c).out = s.out := rfl
@[simp] theorem State.setDma_free (s : State) (k : Nat) (c : DmaChan) : (s.setDma k c).free = s.free := rfl
@[simp] theorem State.setDma_memReq (s : State) (k : Nat) (c : DmaChan) : (s.setDma k c).memReq = s.memReq := rfl
@[simp] theorem State.setDma_pending (s : State) (k : Nat) (c : DmaChan) : (s.setDma k c).pending = s.pending := rfl
@[simp] theorem State.setDma_core (s : State) (k : Nat) (c : DmaChan) (z : Nat) : (s.setDma k c).core z = s.core z := rfl
@[simp] theorem State.setDma_fenOf (s : State) (k : Nat) (c : DmaChan) (z : Nat) : (s.setDma k c).fenOf z = s.fenOf z := rfl
@[simp] theorem State.setDma_integOf (s : State) (k : Nat) (c : DmaChan) (z : Nat) : (s.setDma k c).integOf z = s.integOf z := rfl
@[simp] theorem State.setDma_byteAt (s : State) (k : Nat) (c : DmaChan) (z : Nat) : (s.setDma k c).byteAt z = s.byteAt z := rfl
@[simp] theorem State.setDma_count (s : State) (k : Nat) (c : DmaChan) (z : Nat) : (s.setDma k c).count z = s.count z := rfl
@[simp] theorem State.setDma_escOf (s : State) (k : Nat) (c : DmaChan) (z : Nat) : (s.setDma k c).escOf z = s.escOf z := rfl
@[simp] theorem State.setDma_running (s : State) (k : Nat) (c : DmaChan) : (s.setDma k c).running = s.running := rfl

@[simp] theorem State.setDma_rd (s : State) (k : Nat) (c : DmaChan) (i : Nat) : (s.setDma k c).rd i = s.rd i := rfl

/-! ### setFen -/

@[simp] theorem State.setFen_regs (s : State) (m : Nat) (e : Fennel) : (s.setFen m e).regs = s.regs := rfl
@[simp] theorem State.setFen_latch (s : State) (m : Nat) (e : Fennel) : (s.setFen m e).latch = s.latch := rfl
@[simp] theorem State.setFen_mem (s : State) (m : Nat) (e : Fennel) : (s.setFen m e).mem = s.mem := rfl
@[simp] theorem State.setFen_syn (s : State) (m : Nat) (e : Fennel) : (s.setFen m e).syn = s.syn := rfl
@[simp] theorem State.setFen_fuses (s : State) (m : Nat) (e : Fennel) : (s.setFen m e).fuses = s.fuses := rfl
@[simp] theorem State.setFen_boot (s : State) (m : Nat) (e : Fennel) : (s.setFen m e).boot = s.boot := rfl
@[simp] theorem State.setFen_tb (s : State) (m : Nat) (e : Fennel) : (s.setFen m e).tb = s.tb := rfl
@[simp] theorem State.setFen_sch (s : State) (m : Nat) (e : Fennel) : (s.setFen m e).sch = s.sch := rfl
@[simp] theorem State.setFen_cores (s : State) (m : Nat) (e : Fennel) : (s.setFen m e).cores = s.cores := rfl
@[simp] theorem State.setFen_counts (s : State) (m : Nat) (e : Fennel) : (s.setFen m e).counts = s.counts := rfl
@[simp] theorem State.setFen_syncOps (s : State) (m : Nat) (e : Fennel) : (s.setFen m e).syncOps = s.syncOps := rfl
@[simp] theorem State.setFen_integ (s : State) (m : Nat) (e : Fennel) : (s.setFen m e).integ = s.integ := rfl
@[simp] theorem State.setFen_banks (s : State) (m : Nat) (e : Fennel) : (s.setFen m e).banks = s.banks := rfl
@[simp] theorem State.setFen_dma (s : State) (m : Nat) (e : Fennel) : (s.setFen m e).dma = s.dma := rfl
@[simp] theorem State.setFen_dig (s : State) (m : Nat) (e : Fennel) : (s.setFen m e).dig = s.dig := rfl
@[simp] theorem State.setFen_net (s : State) (m : Nat) (e : Fennel) : (s.setFen m e).net = s.net := rfl
@[simp] theorem State.setFen_pair (s : State) (m : Nat) (e : Fennel) : (s.setFen m e).pair = s.pair := rfl
@[simp] theorem State.setFen_host (s : State) (m : Nat) (e : Fennel) : (s.setFen m e).host = s.host := rfl
@[simp] theorem State.setFen_log (s : State) (m : Nat) (e : Fennel) : (s.setFen m e).log = s.log := rfl
@[simp] theorem State.setFen_esc (s : State) (m : Nat) (e : Fennel) : (s.setFen m e).esc = s.esc := rfl
@[simp] theorem State.setFen_cyc (s : State) (m : Nat) (e : Fennel) : (s.setFen m e).cyc = s.cyc := rfl
@[simp] theorem State.setFen_out (s : State) (m : Nat) (e : Fennel) : (s.setFen m e).out = s.out := rfl
@[simp] theorem State.setFen_free (s : State) (m : Nat) (e : Fennel) : (s.setFen m e).free = s.free := rfl
@[simp] theorem State.setFen_memReq (s : State) (m : Nat) (e : Fennel) : (s.setFen m e).memReq = s.memReq := rfl
@[simp] theorem State.setFen_pending (s : State) (m : Nat) (e : Fennel) : (s.setFen m e).pending = s.pending := rfl
@[simp] theorem State.setFen_core (s : State) (m : Nat) (e : Fennel) (z : Nat) : (s.setFen m e).core z = s.core z := rfl
@[simp] theorem State.setFen_dmaOf (s : State) (m : Nat) (e : Fennel) (z : Nat) : (s.setFen m e).dmaOf z = s.dmaOf z := rfl
@[simp] theorem State.setFen_integOf (s : State) (m : Nat) (e : Fennel) (z : Nat) : (s.setFen m e).integOf z = s.integOf z := rfl
@[simp] theorem State.setFen_byteAt (s : State) (m : Nat) (e : Fennel) (z : Nat) : (s.setFen m e).byteAt z = s.byteAt z := rfl
@[simp] theorem State.setFen_count (s : State) (m : Nat) (e : Fennel) (z : Nat) : (s.setFen m e).count z = s.count z := rfl
@[simp] theorem State.setFen_escOf (s : State) (m : Nat) (e : Fennel) (z : Nat) : (s.setFen m e).escOf z = s.escOf z := rfl
@[simp] theorem State.setFen_running (s : State) (m : Nat) (e : Fennel) : (s.setFen m e).running = s.running := rfl

@[simp] theorem State.setFen_rd (s : State) (m : Nat) (e : Fennel) (i : Nat) : (s.setFen m e).rd i = s.rd i := rfl

/-! ### setPort -/

@[simp] theorem State.setPort_regs (s : State) (k : Nat) (p : Port) : (s.setPort k p).regs = s.regs := rfl
@[simp] theorem State.setPort_latch (s : State) (k : Nat) (p : Port) : (s.setPort k p).latch = s.latch := rfl
@[simp] theorem State.setPort_mem (s : State) (k : Nat) (p : Port) : (s.setPort k p).mem = s.mem := rfl
@[simp] theorem State.setPort_syn (s : State) (k : Nat) (p : Port) : (s.setPort k p).syn = s.syn := rfl
@[simp] theorem State.setPort_fuses (s : State) (k : Nat) (p : Port) : (s.setPort k p).fuses = s.fuses := rfl
@[simp] theorem State.setPort_boot (s : State) (k : Nat) (p : Port) : (s.setPort k p).boot = s.boot := rfl
@[simp] theorem State.setPort_tb (s : State) (k : Nat) (p : Port) : (s.setPort k p).tb = s.tb := rfl
@[simp] theorem State.setPort_sch (s : State) (k : Nat) (p : Port) : (s.setPort k p).sch = s.sch := rfl
@[simp] theorem State.setPort_cores (s : State) (k : Nat) (p : Port) : (s.setPort k p).cores = s.cores := rfl
@[simp] theorem State.setPort_fen (s : State) (k : Nat) (p : Port) : (s.setPort k p).fen = s.fen := rfl
@[simp] theorem State.setPort_counts (s : State) (k : Nat) (p : Port) : (s.setPort k p).counts = s.counts := rfl
@[simp] theorem State.setPort_syncOps (s : State) (k : Nat) (p : Port) : (s.setPort k p).syncOps = s.syncOps := rfl
@[simp] theorem State.setPort_integ (s : State) (k : Nat) (p : Port) : (s.setPort k p).integ = s.integ := rfl
@[simp] theorem State.setPort_banks (s : State) (k : Nat) (p : Port) : (s.setPort k p).banks = s.banks := rfl
@[simp] theorem State.setPort_dma (s : State) (k : Nat) (p : Port) : (s.setPort k p).dma = s.dma := rfl
@[simp] theorem State.setPort_dig (s : State) (k : Nat) (p : Port) : (s.setPort k p).dig = s.dig := rfl
@[simp] theorem State.setPort_pair (s : State) (k : Nat) (p : Port) : (s.setPort k p).pair = s.pair := rfl
@[simp] theorem State.setPort_host (s : State) (k : Nat) (p : Port) : (s.setPort k p).host = s.host := rfl
@[simp] theorem State.setPort_log (s : State) (k : Nat) (p : Port) : (s.setPort k p).log = s.log := rfl
@[simp] theorem State.setPort_esc (s : State) (k : Nat) (p : Port) : (s.setPort k p).esc = s.esc := rfl
@[simp] theorem State.setPort_cyc (s : State) (k : Nat) (p : Port) : (s.setPort k p).cyc = s.cyc := rfl
@[simp] theorem State.setPort_out (s : State) (k : Nat) (p : Port) : (s.setPort k p).out = s.out := rfl
@[simp] theorem State.setPort_free (s : State) (k : Nat) (p : Port) : (s.setPort k p).free = s.free := rfl
@[simp] theorem State.setPort_memReq (s : State) (k : Nat) (p : Port) : (s.setPort k p).memReq = s.memReq := rfl
@[simp] theorem State.setPort_pending (s : State) (k : Nat) (p : Port) : (s.setPort k p).pending = s.pending := rfl
@[simp] theorem State.setPort_core (s : State) (k : Nat) (p : Port) (z : Nat) : (s.setPort k p).core z = s.core z := rfl
@[simp] theorem State.setPort_dmaOf (s : State) (k : Nat) (p : Port) (z : Nat) : (s.setPort k p).dmaOf z = s.dmaOf z := rfl
@[simp] theorem State.setPort_fenOf (s : State) (k : Nat) (p : Port) (z : Nat) : (s.setPort k p).fenOf z = s.fenOf z := rfl
@[simp] theorem State.setPort_integOf (s : State) (k : Nat) (p : Port) (z : Nat) : (s.setPort k p).integOf z = s.integOf z := rfl
@[simp] theorem State.setPort_byteAt (s : State) (k : Nat) (p : Port) (z : Nat) : (s.setPort k p).byteAt z = s.byteAt z := rfl
@[simp] theorem State.setPort_count (s : State) (k : Nat) (p : Port) (z : Nat) : (s.setPort k p).count z = s.count z := rfl
@[simp] theorem State.setPort_escOf (s : State) (k : Nat) (p : Port) (z : Nat) : (s.setPort k p).escOf z = s.escOf z := rfl
@[simp] theorem State.setPort_running (s : State) (k : Nat) (p : Port) : (s.setPort k p).running = s.running := rfl

@[simp] theorem State.setPort_rd (s : State) (k : Nat) (p : Port) (i : Nat) : (s.setPort k p).rd i = s.rd i := rfl

/-! ### setFrame -/

@[simp] theorem State.setFrame_regs (s : State) (p g : Nat) (f : Frame) : (s.setFrame p g f).regs = s.regs := rfl
@[simp] theorem State.setFrame_latch (s : State) (p g : Nat) (f : Frame) : (s.setFrame p g f).latch = s.latch := rfl
@[simp] theorem State.setFrame_mem (s : State) (p g : Nat) (f : Frame) : (s.setFrame p g f).mem = s.mem := rfl
@[simp] theorem State.setFrame_syn (s : State) (p g : Nat) (f : Frame) : (s.setFrame p g f).syn = s.syn := rfl
@[simp] theorem State.setFrame_fuses (s : State) (p g : Nat) (f : Frame) : (s.setFrame p g f).fuses = s.fuses := rfl
@[simp] theorem State.setFrame_boot (s : State) (p g : Nat) (f : Frame) : (s.setFrame p g f).boot = s.boot := rfl
@[simp] theorem State.setFrame_tb (s : State) (p g : Nat) (f : Frame) : (s.setFrame p g f).tb = s.tb := rfl
@[simp] theorem State.setFrame_cores (s : State) (p g : Nat) (f : Frame) : (s.setFrame p g f).cores = s.cores := rfl
@[simp] theorem State.setFrame_fen (s : State) (p g : Nat) (f : Frame) : (s.setFrame p g f).fen = s.fen := rfl
@[simp] theorem State.setFrame_counts (s : State) (p g : Nat) (f : Frame) : (s.setFrame p g f).counts = s.counts := rfl
@[simp] theorem State.setFrame_syncOps (s : State) (p g : Nat) (f : Frame) : (s.setFrame p g f).syncOps = s.syncOps := rfl
@[simp] theorem State.setFrame_integ (s : State) (p g : Nat) (f : Frame) : (s.setFrame p g f).integ = s.integ := rfl
@[simp] theorem State.setFrame_banks (s : State) (p g : Nat) (f : Frame) : (s.setFrame p g f).banks = s.banks := rfl
@[simp] theorem State.setFrame_dma (s : State) (p g : Nat) (f : Frame) : (s.setFrame p g f).dma = s.dma := rfl
@[simp] theorem State.setFrame_dig (s : State) (p g : Nat) (f : Frame) : (s.setFrame p g f).dig = s.dig := rfl
@[simp] theorem State.setFrame_net (s : State) (p g : Nat) (f : Frame) : (s.setFrame p g f).net = s.net := rfl
@[simp] theorem State.setFrame_pair (s : State) (p g : Nat) (f : Frame) : (s.setFrame p g f).pair = s.pair := rfl
@[simp] theorem State.setFrame_host (s : State) (p g : Nat) (f : Frame) : (s.setFrame p g f).host = s.host := rfl
@[simp] theorem State.setFrame_log (s : State) (p g : Nat) (f : Frame) : (s.setFrame p g f).log = s.log := rfl
@[simp] theorem State.setFrame_esc (s : State) (p g : Nat) (f : Frame) : (s.setFrame p g f).esc = s.esc := rfl
@[simp] theorem State.setFrame_cyc (s : State) (p g : Nat) (f : Frame) : (s.setFrame p g f).cyc = s.cyc := rfl
@[simp] theorem State.setFrame_out (s : State) (p g : Nat) (f : Frame) : (s.setFrame p g f).out = s.out := rfl
@[simp] theorem State.setFrame_free (s : State) (p g : Nat) (f : Frame) : (s.setFrame p g f).free = s.free := rfl
@[simp] theorem State.setFrame_memReq (s : State) (p g : Nat) (f : Frame) : (s.setFrame p g f).memReq = s.memReq := rfl
@[simp] theorem State.setFrame_pending (s : State) (p g : Nat) (f : Frame) : (s.setFrame p g f).pending = s.pending := rfl
@[simp] theorem State.setFrame_core (s : State) (p g : Nat) (f : Frame) (z : Nat) : (s.setFrame p g f).core z = s.core z := rfl
@[simp] theorem State.setFrame_dmaOf (s : State) (p g : Nat) (f : Frame) (z : Nat) : (s.setFrame p g f).dmaOf z = s.dmaOf z := rfl
@[simp] theorem State.setFrame_fenOf (s : State) (p g : Nat) (f : Frame) (z : Nat) : (s.setFrame p g f).fenOf z = s.fenOf z := rfl
@[simp] theorem State.setFrame_integOf (s : State) (p g : Nat) (f : Frame) (z : Nat) : (s.setFrame p g f).integOf z = s.integOf z := rfl
@[simp] theorem State.setFrame_byteAt (s : State) (p g : Nat) (f : Frame) (z : Nat) : (s.setFrame p g f).byteAt z = s.byteAt z := rfl
@[simp] theorem State.setFrame_count (s : State) (p g : Nat) (f : Frame) (z : Nat) : (s.setFrame p g f).count z = s.count z := rfl
@[simp] theorem State.setFrame_escOf (s : State) (p g : Nat) (f : Frame) (z : Nat) : (s.setFrame p g f).escOf z = s.escOf z := rfl
@[simp] theorem State.setFrame_running (s : State) (p g : Nat) (f : Frame) : (s.setFrame p g f).running = s.running := rfl

@[simp] theorem State.setFrame_rd (s : State) (p g : Nat) (f : Frame) (i : Nat) : (s.setFrame p g f).rd i = s.rd i := rfl

/-! ### What reads after a write -/

/-- A register after a register write. -/
theorem State.wr_rd (s : State) (o i : Nat) (v : Word) : (s.wr o v).rd i = if i = o then v else s.rd i := by
  by_cases h : i = o
  · subst h; simp [State.rd, State.wr]
  · simp [State.rd, State.wr, FMap.get, FMap.set, FMap.find_upd, h]

@[simp] theorem State.wr_rd_same (s : State) (o : Nat) (v : Word) : (s.wr o v).rd o = v := by simp [State.wr_rd]

theorem State.wr_rd_other (s : State) {o i : Nat} (v : Word) (h : i ≠ o) : (s.wr o v).rd i = s.rd i := by simp [State.wr_rd, h]

/-- A register after the write of a 64-bit register. -/
theorem State.wr64_rd (s : State) (o i : Nat) (v : Dword) :
    (s.wr64 o v).rd i = if i = o + 4 then hi32 v else if i = o then lo32 v else s.rd i := by
  simp [State.wr64, State.wr_rd]

theorem State.setField_rd (s : State) (o lo n v i : Nat) :
    (s.setField o lo n v).rd i = if i = o then putFld (s.rd o) lo n v else s.rd i := s.wr_rd ..

theorem State.setBits_rd (s : State) (o i : Nat) (m : Word) : (s.setBits o m).rd i = if i = o then s.rd o ||| m else s.rd i := s.wr_rd ..

theorem State.clrBits_rd (s : State) (o i : Nat) (m : Word) : (s.clrBits o m).rd i = if i = o then s.rd o &&& ~~~ m else s.rd i :=
  s.wr_rd ..

theorem State.counter_rd (s : State) (o i : Nat) (v n : Word) : (s.counter o v n).rd i = if i = o then v else s.rd i := s.wr_rd ..

theorem State.addSat_rd (s : State) (o n i : Nat) : (s.addSat o n).rd i = if i = o then satAdd (s.rd o) n else s.rd i := s.wr_rd ..

theorem State.bump_rd (s : State) (o i : Nat) : (s.bump o).rd i = if i = o then satAdd (s.rd o) 1 else s.rd i := s.wr_rd ..

/-- Another register after an update of GLB_ESCSTAT. -/
theorem State.escStat_rd_other (s : State) {i : Nat} (h : i ≠ R.GLB_ESCSTAT) : s.escStat.rd i = s.rd i := s.wr_rd_other _ h

/-- A core after a core is replaced. -/
theorem State.setCore_core (s : State) (n i : Nat) (c : Core) : (s.setCore n c).core i = if i = n then c else s.core i :=
  FMap.get_set ..

@[simp] theorem State.setCore_core_same (s : State) (n : Nat) (c : Core) : (s.setCore n c).core n = c := by simp [State.setCore_core]

theorem State.modCore_core (s : State) (n i : Nat) (f : Core → Core) :
    (s.modCore n f).core i = if i = n then f (s.core n) else s.core i := s.setCore_core ..

@[simp] theorem State.modCore_core_same (s : State) (n : Nat) (f : Core → Core) : (s.modCore n f).core n = f (s.core n) := by
  simp [State.modCore_core]

/-- A channel after a channel is replaced. -/
theorem State.setDma_dmaOf (s : State) (k i : Nat) (c : DmaChan) : (s.setDma k c).dmaOf i = if i = k then c else s.dmaOf i :=
  FMap.get_set ..

theorem State.modDma_dmaOf (s : State) (k i : Nat) (f : DmaChan → DmaChan) :
    (s.modDma k f).dmaOf i = if i = k then f (s.dmaOf k) else s.dmaOf i := s.setDma_dmaOf ..

@[simp] theorem State.modDma_dmaOf_same (s : State) (k : Nat) (f : DmaChan → DmaChan) : (s.modDma k f).dmaOf k = f (s.dmaOf k) := by
  simp [State.modDma_dmaOf]

@[simp] theorem State.setDma_dmaOf_same (s : State) (k : Nat) (c : DmaChan) : (s.setDma k c).dmaOf k = c := by simp [State.setDma_dmaOf]

/-- An engine after an engine is replaced. -/
theorem State.setFen_fenOf (s : State) (m i : Nat) (e : Fennel) : (s.setFen m e).fenOf i = if i = m then e else s.fenOf i :=
  FMap.get_set ..

@[simp] theorem State.setFen_fenOf_same (s : State) (m : Nat) (e : Fennel) : (s.setFen m e).fenOf m = e := by simp [State.setFen_fenOf]

/-- The integrity state of a memory after one is replaced. -/
theorem State.setInteg_integOf (s : State) (n i : Nat) (x : Integrity) :
    (s.setInteg n x).integOf i = if i = n then x else s.integOf i := FMap.get_set ..

/-- A unit of an escalation scope after one is returned to 0. -/
theorem State.escOk_escOf (s : State) (a b c k : Nat) :
    (s.escOk a b c).escOf k = if k = escKey a b c then ⟨0, (s.escOf (escKey a b c)).action⟩ else s.escOf k := FMap.get_set ..

/-- A byte of memory after a byte is written. -/
theorem State.putByte_byteAt (s : State) (a i : Nat) (b : Byte) : (s.putByte a b).byteAt i = if i = a then b else s.byteAt i := by
  by_cases h : i = a
  · subst h; simp [State.byteAt, State.putByte, memFind, FMap.find_upd]
  · simp [State.byteAt, State.putByte, memFind, FMap.find_upd, h]

/-! ### Folds -/

@[simp] theorem forEach_nil {σ α : Type} (s : σ) (f : σ → α → σ) : forEach [] s f = s := rfl

@[simp] theorem forEach_cons {σ α : Type} (a : α) (l : List α) (s : σ) (f : σ → α → σ) :
    forEach (a :: l) s f = forEach l (f s a) f := rfl

/-- What every step of a fold keeps, the fold keeps. -/
theorem forEach_keeps {σ α : Type} (P : σ → Prop) (l : List α) (s : σ) (f : σ → α → σ) (h : P s) (hf : ∀ s a, P s → P (f s a)) :
    P (forEach l s f) := by
  induction l generalizing s with
  | nil => exact h
  | cons a l ih => exact ih _ (hf _ _ h)

/-- What every step of a fold leaves equal, the fold leaves equal. -/
theorem forEach_same {σ α β : Type} (g : σ → β) (l : List α) (s : σ) (f : σ → α → σ) (hf : ∀ s a, g (f s a) = g s) :
    g (forEach l s f) = g s := by
  induction l generalizing s with
  | nil => rfl
  | cons a l ih => exact (ih _).trans (hf _ _)

end Sys2Proof.Machine
end

