-- ==== Sys2Proof/Laws/Ops.lean ====
section
/-! SUPPORT. Everything that raising a vector, an event record or an escalation can do. -/

namespace Sys2Proof.Machine

namespace State.Logged

theorem refl (s : State) : s.Logged s := ⟨rfl, fun _ _ => rfl⟩

theorem trans {s t u : State} (h : s.Logged t) (k : t.Logged u) : s.Logged u := by
  refine ⟨?_, fun o ho => (k.regs o ho).trans (h.regs o ho)⟩
  rw [k.rest, h.rest]
  rfl

/-- A write of one of the log's or the escalations' registers. -/
theorem wr (s : State) (o : Nat) (v : Word) (ho : escReg o) : s.Logged (s.wr o v) :=
  ⟨rfl, fun i hi => s.wr_rd_other v fun e => hi (e ▸ ho)⟩

/-- A count of one of these registers, and a bit set in one. -/
theorem counter (s : State) (o : Nat) (v n : Word) (ho : escReg o) : s.Logged (s.counter o v n) :=
  ⟨rfl, fun i hi => s.wr_rd_other v fun e => hi (e ▸ ho)⟩

theorem setBits (s : State) (o : Nat) (m : Word) (ho : escReg o) : s.Logged (s.setBits o m) :=
  ⟨rfl, fun i hi => s.wr_rd_other _ fun e => hi (e ▸ ho)⟩

theorem ite {s t u : State} {p : Prop} [Decidable p] (h : p → s.Logged t) (k : ¬ p → s.Logged u) : s.Logged (if p then t else u) := by
  split
  · exact h ‹_›
  · exact k ‹_›

theorem forEach {α : Type} (l : List α) (s : State) (f : State → α → State) (h : ∀ a ∈ l, ∀ s : State, s.Logged (f s a)) :
    s.Logged (forEach l s f) := by
  induction l generalizing s with
  | nil => exact refl s
  | cons a l ih =>
    exact (h a List.mem_cons_self s).trans (ih _ fun b hb => h b (List.mem_cons_of_mem _ hb))

end State.Logged

theorem State.raiseVec_logged (s : State) (v : Nat) (hv : v < 64) : s.Logged (s.raiseVec v) := by
  unfold State.raiseVec
  refine .ite (fun _ => .setBits _ _ _ (.inl (.inr (.inr (.inr ⟨?_, ?_⟩))))) fun _ => ⟨rfl, fun _ _ => rfl⟩ <;>
    simp only [R.PCI_PBA] <;> omega

theorem State.putLast_logged (s : State) (idx : Nat) (ws : List Word) (hx : idx < 64) : s.Logged (s.putLast idx ws) := by
  refine .forEach _ _ _ fun a ha s => .wr _ _ _ (.inl (.inr (.inr (.inl ?_))))
  obtain ⟨x, k⟩ := a
  have := List.mem_zipIdx ha
  simp only [List.length_take, Nat.zero_add] at this
  simp only [R.GLB_LOGLAST]
  omega

theorem State.queueRec_logged (s : State) (r : LogRec) : s.Logged (s.queueRec r) := by
  unfold State.queueRec
  refine .ite (fun _ => ⟨rfl, fun _ _ => rfl⟩) fun _ => ?_
  exact (State.Logged.counter s R.GLB_LOGDROP _ _ (.inl (.inr (.inl rfl)))).trans ⟨rfl, fun _ _ => rfl⟩

theorem State.refreshLast_logged (s : State) (n : Nat) : s.Logged (s.refreshLast n) :=
  .forEach _ _ _ fun _ _ _ => State.putLast_logged _ _ _ (Nat.mod_lt _ (by decide))

theorem State.record_logged (s : State) (code : Nat) (arg : Word) (ctx : Option Nat) : s.Logged (s.record code arg ctx) := by
  unfold State.record
  extract_lets seq ws r k u v
  have h : s.Logged v :=
    ((State.Logged.wr s _ _ (.inl (.inl rfl))).trans (State.putLast_logged _ _ _ (Nat.mod_lt _ (by decide)))).trans
      (State.queueRec_logged _ _)
  exact .ite (fun _ => h) fun _ => h.trans (State.refreshLast_logged _ _)

theorem State.raiseUrgent_logged (s : State) (code : Nat) : s.Logged (s.raiseUrgent code) :=
  .ite (fun _ => State.raiseVec_logged _ _ (Nat.mod_lt _ (by decide))) fun _ => .refl _

/-- Everything an event record can change. -/
theorem State.event_logged (s : State) (code : Nat) (arg : Word) (ctx : Option Nat) : s.Logged (s.event code arg ctx) :=
  (State.record_logged ..).trans (State.raiseUrgent_logged ..)

theorem State.escStat_logged (s : State) : s.Logged s.escStat := .wr _ _ _ (.inr (.inl rfl))

/-- Everything a failure of a unit can change (R426). -/
theorem State.escFail_logged (s : State) (scope unit engine cause : Nat) : s.Logged (s.escFail scope unit engine cause) := by
  unfold State.escFail
  extract_lets key u run act v w arg
  have h : s.Logged v := ⟨rfl, fun _ _ => rfl⟩
  refine .ite (fun _ => ?_) fun _ => h
  have h2 : s.Logged w := h.trans (State.escStat_logged _)
  refine .ite (fun _ => h2.trans (State.event_logged ..)) fun _ => ?_
  exact (h2.trans (.wr _ _ _ (.inr (.inr rfl)))).trans (State.event_logged ..)

theorem State.escOk_logged (s : State) (a b c : Nat) : s.Logged (s.escOk a b c) := ⟨rfl, fun _ _ => rfl⟩

theorem State.escClear_logged (s : State) (a b c : Nat) : s.Logged (s.escClear a b c) :=
  .trans (t := { s with esc := FMap.set ⟨0, false⟩ s.esc (escKey a b c) ⟨0, false⟩ }) ⟨rfl, fun _ _ => rfl⟩ (State.escStat_logged _)

/-! ## Field by field -/

namespace State.Logged

variable {s t : State} (h : s.Logged t)
include h

theorem latch : t.latch = s.latch := by rw [h.rest]
theorem mem : t.mem = s.mem := by rw [h.rest]
theorem syn : t.syn = s.syn := by rw [h.rest]
theorem fuses : t.fuses = s.fuses := by rw [h.rest]
theorem boot : t.boot = s.boot := by rw [h.rest]
theorem tb : t.tb = s.tb := by rw [h.rest]
theorem sch : t.sch = s.sch := by rw [h.rest]
theorem cores : t.cores = s.cores := by rw [h.rest]
theorem core (n : Nat) : t.core n = s.core n := by rw [h.rest]; rfl
theorem fen : t.fen = s.fen := by rw [h.rest]
theorem counts : t.counts = s.counts := by rw [h.rest]
theorem syncOps : t.syncOps = s.syncOps := by rw [h.rest]
theorem integ : t.integ = s.integ := by rw [h.rest]
theorem banks : t.banks = s.banks := by rw [h.rest]
theorem dma : t.dma = s.dma := by rw [h.rest]
theorem dig : t.dig = s.dig := by rw [h.rest]
theorem net : t.net = s.net := by rw [h.rest]
theorem pair : t.pair = s.pair := by rw [h.rest]
theorem host : t.host = s.host := by rw [h.rest]
theorem memReq : t.memReq = s.memReq := by rw [h.rest]
theorem cycBus : t.cyc.bus = s.cyc.bus := by rw [h.rest]; rfl
theorem free : t.free = s.free := by rw [h.rest]
theorem pending : t.pending = s.pending := by rw [h.rest]
theorem byteAt (a : Nat) : t.byteAt a = s.byteAt a := by rw [h.rest]; rfl

end State.Logged

end Sys2Proof.Machine
end

