-- ==== Sys2Proof/Laws/Memory.lean ====
section
/-! SUPPORT. Memory: bytes after writes, and everything that a read, with its detection and correction, can do. -/

namespace Sys2Proof.Machine

/-! ## Places -/

/-- A backed place lies in one of the 145 memories. -/
theorem State.place_mem {s : State} {a : Nat} {p : Place} (h : s.place a = some p) : p.mem < 145 := by
  unfold State.place at h
  extract_lets n at h
  split at h
  · rename_i hn
    rw [Option.some.injEq] at h
    subst h
    exact hn.1
  · simp at h

/-! ## What only reads memory -/

namespace State.OnlyRead

theorem refl (s : State) : s.OnlyRead s := ⟨rfl, fun _ => rfl, fun _ _ _ => rfl⟩

theorem trans {s t u : State} (h : s.OnlyRead t) (k : t.OnlyRead u) : s.OnlyRead u := by
  refine ⟨?_, fun n => ?_, fun o h1 h2 => (k.regs o h1 h2).trans (h.regs o h1 h2)⟩
  · rw [k.rest, h.rest]
    rfl
  · rw [k.cores n, h.cores n]

theorem logged {s t : State} (h : s.Logged t) : s.OnlyRead t :=
  ⟨h.rest.trans (by rw [h.mem, h.syn, h.cores, h.integ]), fun n => by rw [h.core], fun o _ h2 => h.regs o h2⟩

/-- A write of a register of the error-correction block. -/
theorem wr (s : State) (o : Nat) (v : Word) (ho : eccReg o) : s.OnlyRead (s.wr o v) :=
  ⟨rfl, fun _ => rfl, fun i h1 _ => s.wr_rd_other v fun e => h1 (e ▸ ho)⟩

/-- A bit set in one, and a count of one. -/
theorem setBits (s : State) (o : Nat) (m : Word) (ho : eccReg o) : s.OnlyRead (s.setBits o m) :=
  ⟨rfl, fun _ => rfl, fun i h1 _ => s.wr_rd_other _ fun e => h1 (e ▸ ho)⟩

theorem bump (s : State) (o : Nat) (ho : eccReg o) : s.OnlyRead (s.bump o) :=
  ⟨rfl, fun _ => rfl, fun i h1 _ => s.wr_rd_other _ fun e => h1 (e ▸ ho)⟩

theorem setInteg (s : State) (n : Nat) (x : Integrity) : s.OnlyRead (s.setInteg n x) := ⟨rfl, fun _ => rfl, fun _ _ _ => rfl⟩

theorem ite {s t u : State} {p : Prop} [Decidable p] (h : s.OnlyRead t) (k : s.OnlyRead u) : s.OnlyRead (if p then t else u) := by
  split
  · exact h
  · exact k

theorem forEach {α : Type} (l : List α) (s : State) (f : State → α → State) (h : ∀ a ∈ l, ∀ s : State, s.OnlyRead (f s a)) :
    s.OnlyRead (forEach l s f) := by
  induction l generalizing s with
  | nil => exact refl s
  | cons a l ih => exact (h a List.mem_cons_self s).trans (ih _ fun b hb => h b (List.mem_cons_of_mem _ hb))

variable {s t : State} (h : s.OnlyRead t)
include h

theorem running : t.running = s.running := by rw [h.rest]; rfl
theorem boot : t.boot = s.boot := by rw [h.rest]
theorem fuses : t.fuses = s.fuses := by rw [h.rest]
theorem tb : t.tb = s.tb := by rw [h.rest]
theorem run (n : Nat) : (t.core n).run = (s.core n).run := by rw [h.cores]
theorem gr (n : Nat) : (t.core n).g = (s.core n).g := by rw [h.cores]

end State.OnlyRead

theorem State.putBank_onlyRead (s : State) (wa : Nat) (d : Dword) (x : Byte) : s.OnlyRead (s.putBank wa d x) := by
  unfold State.putBank
  extract_lets t
  have h : s.OnlyRead t := .forEach _ _ _ fun _ _ _ => ⟨rfl, fun _ => rfl, fun _ _ _ => rfl⟩
  exact h.trans ⟨rfl, fun _ => rfl, fun _ _ _ => rfl⟩

theorem State.modPod_onlyRead (s : State) (n : Nat) (f : List PodEntry → List PodEntry) :
    s.OnlyRead (s.modCore n fun c => { c with pod := f c.pod }) := by
  refine ⟨rfl, fun m => ?_, fun _ _ _ => rfl⟩
  rw [State.modCore_core]
  split <;> simp_all

/-- An injection that is taken is no longer armed (R296). -/
theorem State.inject_onlyRead (s : State) (p : Place) (d : Dword) (base : Byte) : s.OnlyRead (s.inject p d base).1 := by
  unfold State.inject
  split
  · exact .wr _ _ _ (by simp only [eccReg, R.ECC_INJCTL]; omega)
  · exact .refl s

theorem State.restore_onlyRead (s : State) (p : Place) (wa : Nat) (d : Dword) : s.OnlyRead (s.restore p wa d) := by
  unfold State.restore
  have h := s.inject_onlyRead p d 0
  generalize s.inject p d 0 = r at h
  obtain ⟨u, e, x⟩ := r
  refine h.trans ?_
  dsimp only
  split
  · exact State.modPod_onlyRead u p.mem fun pod => pod.map _
  · exact State.putBank_onlyRead ..

theorem State.synLog_onlyRead (s : State) (p : Place) (t : EccType) (w : Stored) (src : Nat) (ctx : Option Nat) :
    s.OnlyRead (s.synLog p t w src ctx) := by
  unfold State.synLog
  extract_lets i bank w0 w2 s1 s2 s3 s4
  have hi : i < 16 := Nat.mod_lt _ (by decide)
  have k : ∀ j, j < 4 → eccReg (R.ECC_LOG i j) := fun j hj => by simp only [eccReg, R.ECC_LOG]; omega
  have h1 : s.OnlyRead s1 := .wr _ _ _ (k 0 (by decide))
  have h2 : s.OnlyRead s2 := h1.trans (.wr _ _ _ (k 1 (by decide)))
  have h3 : s.OnlyRead s3 := h2.trans (.wr _ _ _ (k 2 (by decide)))
  have h4 : s.OnlyRead s4 := h3.trans (.wr _ _ _ (k 3 (by decide)))
  exact h4.trans (.wr _ _ _ (by simp only [eccReg, R.ECC_LOGCNT]; omega))

theorem eccReg_mem (n k : Nat) (hn : n < 145) (hk : k < 0x1000) : eccReg (0x710000 + k + 0x1000 * n) := by
  simp only [eccReg]; omega

theorem State.queueWb_onlyRead (s : State) (n bank wa : Nat) (d : Dword) (hn : n < 145) : s.OnlyRead (s.queueWb n bank wa d) := by
  unfold State.queueWb
  extract_lets i
  refine .ite (.refl _) (.ite (.setInteg ..) ?_)
  have h1 : s.OnlyRead (s.bump (R.ECC_WBDROP n)) := .bump _ _ (eccReg_mem n 0x2C hn (by decide))
  exact h1.trans (.setBits _ _ _ (by simp only [eccReg, R.ECC_FLAGS]; omega))

theorem eccReg_flags : eccReg R.ECC_FLAGS := by simp only [eccReg, R.ECC_FLAGS]; omega

theorem State.detectCe_onlyRead (s : State) (p : Place) (wa : Nat) (w : Stored) (d : Dword) (src : Nat) (ctx : Option Nat)
    (hp : p.mem < 145) : s.OnlyRead (s.detectCe p wa w d src ctx) := by
  unfold State.detectCe
  extract_lets n s2 first was s3 s4
  have h2 : s.OnlyRead s2 :=
    .ite (.refl _) (.ite (State.restore_onlyRead ..) (.ite (.refl _) (State.queueWb_onlyRead _ _ _ _ _ hp)))
  have h3 : s.OnlyRead s3 :=
    ((h2.trans (.bump _ _ (eccReg_mem n 0x20 hp (by decide)))).trans (.setBits _ _ _ (eccReg_mem n 0x34 hp (by decide)))).trans
      (.setBits _ _ _ eccReg_flags)
  have h4 : s.OnlyRead s4 := .ite (h3.trans (.logged (State.event_logged ..))) h3
  exact .ite ((h4.trans (.setBits _ _ _ (eccReg_mem n 0x34 hp (by decide)))).trans (.logged (State.event_logged ..))) h4

theorem State.detectUe_onlyRead (s : State) (p : Place) (w : Stored) (psn : Bool) (src : Nat) (ctx : Option Nat) (hp : p.mem < 145) :
    s.OnlyRead (s.detectUe p w psn src ctx) := by
  unfold State.detectUe
  extract_lets n was s2 s4
  have hr : eccReg (if psn then R.ECC_PSNCNT n else R.ECC_UECNT n) := by
    cases psn
    · exact eccReg_mem n 0x24 hp (by decide)
    · exact eccReg_mem n 0x28 hp (by decide)
  have h2 : s.OnlyRead s2 := .bump _ _ hr
  have h4 : s.OnlyRead s4 := (h2.trans (.setBits _ _ _ (eccReg_mem n 0x34 hp (by decide)))).trans (.setBits _ _ _ eccReg_flags)
  exact .ite h4 (h4.trans (.logged (State.event_logged ..)))

/-- Everything that the detection of a word in error can do (R274 to R277). -/
theorem State.detect_onlyRead (s : State) (p : Place) (wa : Nat) (w : Stored) (t : EccType) (src : Nat) (ctx : Option Nat)
    (hp : p.mem < 145) : s.OnlyRead (s.detect p wa w t src ctx) := by
  unfold State.detect
  extract_lets s1
  have h1 : s.OnlyRead s1 := State.synLog_onlyRead ..
  cases t with
  | clean => exact h1
  | ceCheck => exact h1.trans (State.detectCe_onlyRead _ _ _ _ _ _ _ hp)
  | ceData b => exact h1.trans (State.detectCe_onlyRead _ _ _ _ _ _ _ hp)
  | ue => exact h1.trans (State.detectUe_onlyRead _ _ _ _ _ _ hp)
  | poison => exact h1.trans (State.detectUe_onlyRead _ _ _ _ _ _ hp)

/-- Everything that the read of a word can do. -/
theorem State.readWord_onlyRead (s : State) (p : Place) (wa src : Nat) (ctx : Option Nat) (hp : p.mem < 145) :
    s.OnlyRead (s.readWord p wa src ctx).st := by
  unfold State.readWord
  exact .ite (.refl _) (State.detect_onlyRead _ _ _ _ _ _ _ hp)

/-- A read of a clean word changes nothing and delivers the word (R270). -/
theorem State.readWord_clean (s : State) (p : Place) (wa src : Nat) (ctx : Option Nat) (h : (s.stored p wa).syn = 0) :
    s.readWord p wa src ctx = ⟨s, (s.stored p wa).data, false⟩ := by
  unfold State.readWord eccDecode
  simp [h, eccDeliver, EccType.bad]

/-- Everything that reads of several words can do. -/
theorem State.readWords_onlyRead (s : State) (was : List Nat) (take : Nat → Bool) (src : Nat) (ctx : Option Nat) :
    s.OnlyRead (s.readWords was take src ctx).st := by
  unfold State.readWords
  have key : ∀ (l : List Nat) (r : Reads), s.OnlyRead r.st →
      s.OnlyRead (l.foldl (fun r wa =>
        match r.st.place wa with
        | none => r
        | some p =>
          let x := r.st.readWord p wa src ctx
          ⟨x.st, if take wa then r.words ++ [x.data] else r.words,
           if take wa && x.bad && r.bad.isNone then some wa else r.bad⟩) r).st := by
    intro l
    induction l with
    | nil => exact fun _ h => h
    | cons a l ih =>
      intro r h
      rw [List.foldl_cons]
      apply ih
      split
      · exact h
      · exact h.trans (State.readWord_onlyRead _ _ _ _ _ (State.place_mem ‹_›))
  exact key _ _ (.refl s)

/-- Everything that a wide read can do. -/
theorem State.readWide_onlyRead (s : State) (a len src : Nat) (ctx : Option Nat) : s.OnlyRead (s.readWide a len src ctx).st :=
  State.readWords_onlyRead ..

end Sys2Proof.Machine
end

