-- ==== Sys2Proof/Laws/Inv.lean ====
section
/-! SUPPORT. The invariant part by part: every operation over registers, the event log, escalations, memory and pod buffers keeps the
canonical form of memory and of the tables, the bound of the event queue, and the order of the pod buffers. -/

namespace Sys2Proof.Machine

open Sys2Proof

/-- Each part of the invariant that s has, t has. -/
structure State.Keeps (s t : State) : Prop where
  mem   : Memory.wf s.mem = true → Memory.wf t.mem = true
  syn   : FMap.rising s.syn = true → FMap.rising t.syn = true
  regs  : FMap.rising s.regs = true → FMap.rising t.regs = true
  queue : s.log.queue.length ≤ 64 → t.log.queue.length ≤ 64
  pods  : ∀ n, PodOk n (s.core n).pod → PodOk n (t.core n).pod

namespace State.Keeps

theorem refl (s : State) : s.Keeps s := ⟨id, id, id, id, fun _ => id⟩

theorem trans {s t u : State} (h : s.Keeps t) (k : t.Keeps u) : s.Keeps u :=
  ⟨k.mem ∘ h.mem, k.syn ∘ h.syn, k.regs ∘ h.regs, k.queue ∘ h.queue, fun n => k.pods n ∘ h.pods n⟩

/-- What the invariant of s gives of t. -/
theorem inv {s t : State} (h : s.Keeps t) (i : s.Inv) : t.Inv :=
  ⟨h.mem i.mem, h.syn i.syn, h.regs i.regs, h.queue i.queue, fun n => h.pods n (i.pods n)⟩

/-- Nothing that the invariant speaks of has changed. -/
theorem of_eq {s t : State} (hm : t.mem = s.mem) (hs : t.syn = s.syn) (hr : t.regs = s.regs) (hl : t.log.queue = s.log.queue)
    (hc : t.cores = s.cores) : s.Keeps t := by
  refine ⟨fun h => hm ▸ h, fun h => hs ▸ h, fun h => hr ▸ h, fun h => hl ▸ h, fun n h => ?_⟩
  unfold State.core at h ⊢
  rw [hc]; exact h

theorem ite {s t u : State} {p : Prop} [Decidable p] (h : p → s.Keeps t) (k : ¬ p → s.Keeps u) : s.Keeps (if p then t else u) := by
  split
  · exact h ‹_›
  · exact k ‹_›

theorem forEach {α : Type} (l : List α) (s : State) (f : State → α → State) (h : ∀ a ∈ l, ∀ s : State, s.Keeps (f s a)) :
    s.Keeps (forEach l s f) := by
  induction l generalizing s with
  | nil => exact refl s
  | cons a l ih => exact (h a List.mem_cons_self s).trans (ih _ fun b hb => h b (List.mem_cons_of_mem _ hb))

end State.Keeps

/-! ## Registers -/

section registers

variable (s : State) (o : Nat)

theorem State.wr_keeps (v : Word) : s.Keeps (s.wr o v) := ⟨id, id, FMap.rising_set _ _ _ _, id, fun _ => id⟩
theorem State.wr64_keeps (v : Dword) : s.Keeps (s.wr64 o v) := (s.wr_keeps o _).trans (State.wr_keeps _ _ _)
theorem State.setField_keeps (a b v : Nat) : s.Keeps (s.setField o a b v) := s.wr_keeps o _
theorem State.setBits_keeps (m : Word) : s.Keeps (s.setBits o m) := ⟨id, id, FMap.rising_set _ _ _ _, id, fun _ => id⟩
theorem State.clrBits_keeps (m : Word) : s.Keeps (s.clrBits o m) := s.wr_keeps o _
theorem State.counter_keeps (v n : Word) : s.Keeps (s.counter o v n) := ⟨id, id, FMap.rising_set _ _ _ _, id, fun _ => id⟩
theorem State.addSat_keeps (n : Nat) : s.Keeps (s.addSat o n) := s.counter_keeps o _ _
theorem State.bump_keeps : s.Keeps (s.bump o) := s.addSat_keeps o _
theorem State.apply_keeps (l : List Nat) : s.Keeps (s.apply l) := .forEach _ _ _ fun _ _ _ => State.wr_keeps ..

/-- A copied window of registers keeps the table's form. -/
theorem State.copyWindow_keeps (src dst n : Nat) : s.Keeps (s.copyWindow src dst n) := by
  refine ⟨id, id, fun h => ?_, id, fun _ => id⟩
  unfold State.copyWindow
  extract_lets moved kept
  have hk : FMap.rising kept = true := FMap.rising_filter _ _ h
  clear_value moved kept
  show FMap.rising (moved.foldl (fun (m : FMap Word) c => FMap.upd m (c.1 - src + dst) (some c.2)) kept) = true
  induction moved generalizing kept with
  | nil => exact hk
  | cons c r ih => exact ih _ (FMap.rising_upd _ _ _ hk)

end registers

/-! ## The event log, vectors and escalations -/

section events

variable (s : State)

theorem State.emit_keeps (x : Output) : s.Keeps (s.emit x) := .of_eq rfl rfl rfl rfl rfl

theorem State.raiseVec_keeps (v : Nat) : s.Keeps (s.raiseVec v) := by
  unfold State.raiseVec
  exact .ite (fun _ => s.setBits_keeps _ _) fun _ => s.emit_keeps _

theorem State.putLast_keeps (k : Nat) (ws : List Word) : s.Keeps (s.putLast k ws) := .forEach _ _ _ fun _ _ _ => State.wr_keeps ..

theorem logInsert_length (q : List LogRec) (r : LogRec) : (logInsert q r).length = q.length + 1 := by
  unfold logInsert
  extract_lets k
  simp only [List.length_append, List.length_take, List.length_cons, List.length_map, List.length_drop]
  omega

/-- A record enters the queue only while it holds fewer than 64 (R423). -/
theorem State.queueRec_keeps (r : LogRec) : s.Keeps (s.queueRec r) := by
  unfold State.queueRec
  refine .ite (fun h => ⟨id, id, id, fun _ => ?_, fun _ => id⟩) fun _ => ?_
  · simp only [logInsert_length]; omega
  · exact (s.bump_keeps _).trans (.of_eq rfl rfl rfl rfl rfl)

theorem State.refreshLast_keeps (n : Nat) : s.Keeps (s.refreshLast n) := .forEach _ _ _ fun _ _ _ => State.putLast_keeps ..

theorem State.record_keeps (code : Nat) (arg : Word) (ctx : Option Nat) : s.Keeps (s.record code arg ctx) := by
  unfold State.record
  extract_lets seq ws r k u v
  have h : s.Keeps v := ((s.wr_keeps _ _).trans (State.putLast_keeps ..)).trans (State.queueRec_keeps ..)
  exact .ite (fun _ => h) fun _ => h.trans (State.refreshLast_keeps ..)

theorem State.event_keeps (code : Nat) (arg : Word) (ctx : Option Nat) : s.Keeps (s.event code arg ctx) := by
  unfold State.event State.raiseUrgent
  refine (s.record_keeps code arg ctx).trans ?_
  exact .ite (fun _ => State.raiseVec_keeps ..) fun _ => .refl _

theorem State.escStat_keeps : s.Keeps s.escStat := s.wr_keeps _ _

theorem State.escFail_keeps (a b c d : Nat) : s.Keeps (s.escFail a b c d) := by
  unfold State.escFail
  extract_lets key u run act v w arg
  have h : s.Keeps v := .of_eq rfl rfl rfl rfl rfl
  refine .ite (fun _ => ?_) fun _ => h
  have h2 : s.Keeps w := h.trans (State.escStat_keeps _)
  exact .ite (fun _ => h2.trans (State.event_keeps ..)) fun _ => (h2.trans (State.wr_keeps ..)).trans (State.event_keeps ..)

theorem State.escOk_keeps (a b c : Nat) : s.Keeps (s.escOk a b c) := .of_eq rfl rfl rfl rfl rfl

theorem State.escClear_keeps (a b c : Nat) : s.Keeps (s.escClear a b c) :=
  .trans (t := { s with esc := FMap.set ⟨0, false⟩ s.esc (escKey a b c) ⟨0, false⟩ }) (.of_eq rfl rfl rfl rfl rfl) (State.escStat_keeps _)

end events

/-! ## Pod buffers -/

theorem PodOk.nil (n : Nat) : PodOk n [] := by
  refine ⟨⟨List.nodup_nil, ?_⟩, ⟨List.nodup_nil, ?_⟩, ?_⟩ <;> intro e he <;> cases he

/-- A part of a pod buffer, in its order. -/
theorem PodOk.sublist {n : Nat} {a b : List PodEntry} (h : PodOk n b) (k : a.Sublist b) : PodOk n a :=
  ⟨⟨h.slots.1.sublist (k.map _), fun e he => h.slots.2 e (k.subset he)⟩,
    ⟨h.rows.1.sublist (k.map _), fun e he => h.rows.2 e (k.subset he)⟩, fun e he => h.words e (k.subset he)⟩

/-- Entries whose words alone change. -/
theorem PodOk.map {n : Nat} {pod : List PodEntry} (h : PodOk n pod) (f : PodEntry → PodEntry) (hs : ∀ e, (f e).slot = e.slot)
    (hr : ∀ e, (f e).row = e.row)
    (hw : ∀ e, FMap.rising e.words = true ∧ (∀ x ∈ e.words, x.1 < 16) → FMap.rising (f e).words = true ∧ ∀ x ∈ (f e).words, x.1 < 16) :
    PodOk n (pod.map f) := by
  have es : (pod.map f).map (·.slot) = pod.map (·.slot) := by simp [hs]
  have er : (pod.map f).map (·.row) = pod.map (·.row) := by simp [hr]
  refine ⟨⟨es ▸ h.slots.1, ?_⟩, ⟨er ▸ h.rows.1, ?_⟩, ?_⟩ <;> intro e he <;> obtain ⟨x, hx, rfl⟩ := List.mem_map.mp he
  · rw [hs]; exact h.slots.2 x hx
  · rw [hr]; exact h.rows.2 x hx
  · exact hw x (h.words x hx)

/-- Values of words changed, their places kept. -/
theorem FMap.rising_map {α : Type} (m : FMap α) (f : Nat × α → Nat × α) (hf : ∀ c, (f c).1 = c.1) (h : FMap.rising m = true) :
    FMap.rising (m.map f) = true := by
  induction m with
  | nil => rfl
  | cons c r ih =>
    obtain ⟨ha, hr⟩ := (FMap.rising_iff _ _).mp h
    refine (FMap.rising_iff (f c) (r.map f)).mpr ⟨fun d hd => ?_, ih hr⟩
    obtain ⟨x, hx, rfl⟩ := List.mem_map.mp hd
    rw [hf, hf]; exact ha x hx

theorem FMap.mem_upd {α : Type} (m : FMap α) (i : Nat) (v : α) (x : Nat × α) (h : x ∈ FMap.upd m i (some v)) : x = (i, v) ∨ x ∈ m := by
  induction m with
  | nil => exact .inl (List.mem_singleton.mp h)
  | cons c r ih =>
    obtain ⟨k, w⟩ := c
    simp only [FMap.upd] at h
    split at h
    · exact (List.mem_cons.mp h).imp_right id
    · split at h
      · rcases List.mem_cons.mp h with h | h
        · exact .inl h
        · exact .inr (List.mem_cons_of_mem _ h)
      · rcases List.mem_cons.mp h with h | h
        · exact .inr (h ▸ List.mem_cons_self)
        · exact (ih h).imp_right (List.mem_cons_of_mem _)

section pods

variable (s : State) (n : Nat)

/-- A core replaced by one whose pod buffer is in order. -/
theorem State.setCore_keeps (c : Core) (h : PodOk n (s.core n).pod → PodOk n c.pod) : s.Keeps (s.setCore n c) := by
  refine ⟨id, id, id, id, fun m hm => ?_⟩
  unfold State.core State.setCore at *
  simp only [FMap.get_set]
  split
  · rename_i e; subst e; exact h hm
  · exact hm

/-- A core changed but for its pod buffer. -/
theorem State.modCore_keeps (f : Core → Core) (h : (f (s.core n)).pod = (s.core n).pod) : s.Keeps (s.modCore n f) :=
  s.setCore_keeps n _ fun k => h ▸ k

/-- A core changed by a function that leaves every pod buffer alone. -/
theorem State.touchCore_keeps (f : Core → Core) (h : ∀ c : Core, (f c).pod = c.pod) : s.Keeps (s.modCore n f) :=
  s.modCore_keeps n f (h _)

theorem State.modPod_keeps (f : List PodEntry → List PodEntry) (h : PodOk n (s.core n).pod → PodOk n (f (s.core n).pod)) :
    s.Keeps (s.modCore n fun c => { c with pod := f c.pod }) :=
  s.setCore_keeps n _ h

theorem PodOk.drop {n : Nat} {pod : List PodEntry} (wa : Nat) (h : PodOk n pod) : PodOk n (podDrop pod wa) :=
  h.map _ (fun _ => rfl) (fun _ => rfl) fun _ k => ⟨FMap.rising_filter _ _ k.1, fun x hx => k.2 x (List.mem_of_mem_filter hx)⟩

end pods

/-! ## Memory -/

section memory

variable (s : State)

theorem State.putByte_keeps (a : Nat) (b : Byte) : s.Keeps (s.putByte a b) := ⟨FMap.rising_upd _ _ _, id, id, id, fun _ => id⟩

theorem State.putBank_keeps (wa : Nat) (d : Dword) (x : Byte) : s.Keeps (s.putBank wa d x) := by
  unfold State.putBank
  extract_lets t
  have h : s.Keeps t := .forEach _ _ _ fun _ _ _ => State.putByte_keeps ..
  exact h.trans ⟨id, FMap.rising_set _ _ _ _, id, id, fun _ => id⟩

theorem State.setInteg_keeps (n : Nat) (i : Integrity) : s.Keeps (s.setInteg n i) := .of_eq rfl rfl rfl rfl rfl

theorem State.cancelWb_keeps (n wa : Nat) : s.Keeps (s.cancelWb n wa) := .of_eq rfl rfl rfl rfl rfl

theorem State.inject_keeps (p : Place) (d : Dword) (base : Byte) : s.Keeps (s.inject p d base).1 := by
  unfold State.inject
  split
  · exact s.clrBits_keeps _ _
  · exact .refl s

theorem State.writeWord_keeps (p : Place) (wa : Nat) (d : Dword) (poison : Bool) : s.Keeps (s.writeWord p wa d poison) := by
  have h := s.inject_keeps p d (cleanSyn poison)
  unfold State.writeWord
  generalize s.inject p d (cleanSyn poison) = r at h
  obtain ⟨t, d', x⟩ := r
  refine h.trans ?_
  simp only
  refine State.Keeps.trans ?_ ((State.putBank_keeps ..).trans (State.cancelWb_keeps ..))
  exact .ite (fun _ => State.modPod_keeps _ _ (fun pod => podDrop pod wa) (PodOk.drop wa)) fun _ => .refl _

theorem State.restore_keeps (p : Place) (wa : Nat) (d : Dword) : s.Keeps (s.restore p wa d) := by
  unfold State.restore
  have h := s.inject_keeps p d 0
  generalize s.inject p d 0 = r at h
  obtain ⟨u, d', x⟩ := r
  refine h.trans ?_
  dsimp only
  split
  · refine State.modPod_keeps u p.mem (fun pod => pod.map _) fun h => h.map _ (fun _ => rfl) (fun _ => rfl) fun e k => ?_
    refine ⟨FMap.rising_map _ _ (fun c => ?_) k.1, fun x hx => ?_⟩
    · split <;> rfl
    · obtain ⟨y, hy, rfl⟩ := List.mem_map.mp hx
      split
      · exact k.2 y hy
      · exact k.2 y hy
  · exact u.putBank_keeps ..

theorem State.synLog_keeps (p : Place) (t : EccType) (w : Stored) (src : Nat) (ctx : Option Nat) : s.Keeps (s.synLog p t w src ctx) := by
  unfold State.synLog
  extract_lets
  exact ((((s.wr_keeps _ _).trans (State.wr_keeps ..)).trans (State.wr_keeps ..)).trans (State.wr_keeps ..)).trans (State.wr_keeps ..)

theorem State.queueWb_keeps (n bank wa : Nat) (d : Dword) : s.Keeps (s.queueWb n bank wa d) := by
  unfold State.queueWb
  exact .ite (fun _ => .refl _) fun _ => .ite (fun _ => s.setInteg_keeps _ _) fun _ => (s.bump_keeps _).trans (State.setBits_keeps ..)

theorem State.detectCe_keeps (p : Place) (wa : Nat) (w : Stored) (d : Dword) (src : Nat) (ctx : Option Nat) :
    s.Keeps (s.detectCe p wa w d src ctx) := by
  unfold State.detectCe
  extract_lets n s2 first was s3 s4
  have h2 : s.Keeps s2 := .ite (fun _ => .refl _) fun _ => .ite (fun _ => s.restore_keeps ..) fun _ =>
    .ite (fun _ => .refl _) fun _ => s.queueWb_keeps ..
  have h3 : s.Keeps s3 := ((h2.trans (State.bump_keeps ..)).trans (State.setBits_keeps ..)).trans (State.setBits_keeps ..)
  have h4 : s.Keeps s4 := .ite (fun _ => h3.trans (State.event_keeps ..)) fun _ => h3
  exact .ite (fun _ => (h4.trans (State.setBits_keeps ..)).trans (State.event_keeps ..)) fun _ => h4

theorem State.detectUe_keeps (p : Place) (w : Stored) (psn : Bool) (src : Nat) (ctx : Option Nat) :
    s.Keeps (s.detectUe p w psn src ctx) := by
  unfold State.detectUe
  extract_lets n was s2 s4
  have h4 : s.Keeps s4 := ((s.bump_keeps _).trans (State.setBits_keeps ..)).trans (State.setBits_keeps ..)
  exact .ite (fun _ => h4) fun _ => h4.trans (State.event_keeps ..)

theorem State.detect_keeps (p : Place) (wa : Nat) (w : Stored) (t : EccType) (src : Nat) (ctx : Option Nat) :
    s.Keeps (s.detect p wa w t src ctx) := by
  unfold State.detect
  extract_lets s1
  have h1 : s.Keeps s1 := s.synLog_keeps ..
  cases t with
  | clean => exact h1
  | ceCheck => exact h1.trans (State.detectCe_keeps ..)
  | ceData b => exact h1.trans (State.detectCe_keeps ..)
  | ue => exact h1.trans (State.detectUe_keeps ..)
  | poison => exact h1.trans (State.detectUe_keeps ..)

theorem State.readWord_keeps (p : Place) (wa src : Nat) (ctx : Option Nat) : s.Keeps (s.readWord p wa src ctx).st := by
  unfold State.readWord
  exact .ite (fun _ => .refl _) fun _ => s.detect_keeps ..

theorem State.readWords_keeps (was : List Nat) (take : Nat → Bool) (src : Nat) (ctx : Option Nat) :
    s.Keeps (s.readWords was take src ctx).st := by
  unfold State.readWords
  generalize hr : (⟨s, [], none⟩ : Reads) = r
  have h : s.Keeps r.st := by subst hr; exact .refl s
  clear hr
  induction was generalizing r with
  | nil => exact h
  | cons a l ih =>
    rw [List.foldl_cons]
    apply ih
    split
    · exact h
    · exact h.trans (State.readWord_keeps ..)

theorem State.readWide_keeps (a len src : Nat) (ctx : Option Nat) : s.Keeps (s.readWide a len src ctx).st := s.readWords_keeps ..

/-- A masked write keeps the form of memory: the reads of partial words, then the words written (R280, R281). -/
theorem State.writeMasked_keeps (a : Nat) (data : List (Option Byte)) (src : Nat) (ctx : Option Nat) (poison : Bool) :
    s.Keeps (s.writeMasked a data src ctx poison).st := by
  unfold State.writeMasked
  extract_lets was part rd r
  have hr : s.Keeps r.1 := by
    have key : ∀ (l : List Nat) (x : State × List (Nat × Dword) × Option Nat), s.Keeps x.1 →
        s.Keeps (l.foldl (fun (r : State × List (Nat × Dword) × Option Nat) wa =>
          match r.1.place wa with
          | none => r
          | some p =>
            let x := r.1.readWord p wa rd.2 ctx
            (x.st, r.2.1 ++ [(wa, x.data)], if x.bad && part.contains wa && r.2.2.isNone then some wa else r.2.2)) x).1 := by
      intro l
      induction l with
      | nil => exact fun _ h => h
      | cons b l ih =>
        intro x h
        rw [List.foldl_cons]
        apply ih
        split
        · exact h
        · exact h.trans (State.readWord_keeps ..)
    exact key _ _ (.refl s)
  clear_value r
  split
  · exact hr
  · refine hr.trans ?_
    have key : ∀ (l : List Nat) (x : State), r.1.Keeps x → r.1.Keeps (l.foldl (fun s wa =>
      match s.place wa with
      | none => s
      | some p =>
        let old := (r.2.1.find? fun x => x.1 == wa).map (·.2)
        s.writeWord p wa (mergeBytes (old.getD 0) (wordMask a data wa)) poison) x) := by
      intro l
      induction l with
      | nil => exact fun _ h => h
      | cons b l ih =>
        intro x h
        rw [List.foldl_cons]
        apply ih
        split
        · exact h
        · exact h.trans (State.writeWord_keeps ..)
    exact key _ _ (.refl _)

/-- Bytes written row by row keep the form of memory. -/
theorem State.writeBytes_keeps (a : Nat) (bs : List Byte) (src : Nat) (ctx : Option Nat) (poison : Bool) :
    s.Keeps (s.writeBytes a bs src ctx poison).st := by
  unfold State.writeBytes
  generalize hr : (⟨s, none⟩ : Wrote) = r
  have h : s.Keeps r.st := by subst hr; exact .refl s
  clear hr
  induction rowsOf a bs.length generalizing r with
  | nil => exact h
  | cons b l ih =>
    rw [List.foldl_cons]
    apply ih
    split
    · exact h
    · exact h.trans (State.writeMasked_keeps ..)

/-- Forgotten bytes keep the form of memory (R261). -/
theorem State.forget_keeps (a len : Nat) : s.Keeps (s.forget a len) :=
  ⟨FMap.rising_filter _ _, FMap.rising_filter _ _, id, id, fun _ => id⟩

theorem State.forgetOld_keeps (p : Nat) (new : List Nat) : s.Keeps (s.forgetOld p new) :=
  .forEach _ _ _ fun _ _ _ => .forEach _ _ _ fun _ _ _ => State.forget_keeps ..

/-! ## The pod buffer's drain and a word placed in it -/

theorem State.drainEntry_keeps (n : Nat) (e : PodEntry) (latch : Bool) : s.Keeps (s.drainEntry n e latch) := by
  refine .forEach _ _ _ fun x _ s => ?_
  dsimp only
  have h := s.inject_keeps ⟨n, e.row + 8 * x.1 - memBase n⟩ x.2.1 (if latch && !e.old.contains x.1 then 0xFF else x.2.2)
  exact h.trans ((State.putBank_keeps ..).trans (State.cancelWb_keeps ..))

theorem forEach_cores {α : Type} (l : List α) (s : State) (f : State → α → State) (h : ∀ s a, (f s a).cores = s.cores) :
    (forEach l s f).cores = s.cores := by
  induction l generalizing s with
  | nil => rfl
  | cons a l ih => exact (ih _).trans (h s a)

theorem State.putBank_cores (wa : Nat) (d : Dword) (x : Byte) : (s.putBank wa d x).cores = s.cores :=
  forEach_cores _ s (fun s (x : Byte × Nat) => s.putByte (wa + x.2) x.1) fun _ _ => rfl

theorem State.inject_cores (p : Place) (d : Dword) (base : Byte) : (s.inject p d base).1.cores = s.cores := by
  unfold State.inject
  split <;> rfl

/-- A drain writes banks and leaves the cores as they are. -/
theorem State.drainEntry_cores (n : Nat) (e : PodEntry) (latch : Bool) : (s.drainEntry n e latch).cores = s.cores :=
  forEach_cores _ s _ fun s x => by
    have h := s.inject_cores ⟨n, e.row + 8 * x.1 - memBase n⟩ x.2.1 (if latch && !e.old.contains x.1 then 0xFF else x.2.2)
    generalize hr : s.inject ⟨n, e.row + 8 * x.1 - memBase n⟩ x.2.1 (if latch && !e.old.contains x.1 then 0xFF else x.2.2) = r at h
    obtain ⟨u, d, y⟩ := r
    simp only [hr]
    rw [State.cancelWb_cores, State.putBank_cores, h]

theorem PodOk.pop {n : Nat} {pod : List PodEntry} (h : PodOk n pod) : PodOk n (pod.drop 1) := h.sublist (List.drop_sublist _ _)

/-- A word put in a pod buffer, its row in the core's scratchpad and the slot free where it needs one (R244). -/
theorem PodOk.put {n : Nat} {pod : List PodEntry} (slot wa : Nat) (d : Dword) (x : Byte) (h : PodOk n pod) (h1 : memBase n ≤ wa / 128 * 128)
    (h2 : wa / 128 * 128 < memBase n + 0x100000)
    (hk : (pod.any fun e => e.row == wa / 128 * 128) = false → slot < 4 ∧ ∀ e ∈ pod, e.slot ≠ slot) :
    PodOk n (podPut pod slot wa d x) := by
  have hi : wa % 128 / 8 < 16 := by omega
  have hput : ∀ e : PodEntry, FMap.rising e.words = true ∧ (∀ x ∈ e.words, x.1 < 16) →
      FMap.rising (e.put (wa % 128 / 8) d x).words = true ∧ ∀ y ∈ (e.put (wa % 128 / 8) d x).words, y.1 < 16 := by
    intro e k
    refine ⟨FMap.rising_upd _ _ _ k.1, fun y hy => ?_⟩
    rcases FMap.mem_upd _ _ _ _ hy with e | hy
    · rw [e]; exact hi
    · exact k.2 y hy
  unfold podPut
  extract_lets row
  split
  · refine h.map _ (fun e => ?_) (fun e => ?_) fun e k => ?_
    · split <;> rfl
    · split <;> rfl
    · split
      · exact hput e k
      · exact k
  · rename_i hrow
    obtain ⟨hs, hf⟩ := hk (by simpa using hrow)
    have hr : ∀ e ∈ pod, e.row ≠ row := fun e he k => hrow (List.any_eq_true.mpr ⟨e, he, by simp [k]⟩)
    refine ⟨⟨?_, ?_⟩, ⟨?_, ?_⟩, ?_⟩
    · rw [List.map_append, List.nodup_append]
      refine ⟨h.slots.1, by simp, ?_⟩
      intro a ha b hb
      obtain ⟨e, he, rfl⟩ := List.mem_map.mp ha
      simp only [List.map_cons, List.map_nil, List.mem_singleton] at hb
      exact hb ▸ hf e he
    · intro e he
      rcases List.mem_append.mp he with he | he
      · exact h.slots.2 e he
      · rw [List.mem_singleton.mp he]; exact hs
    · rw [List.map_append, List.nodup_append]
      refine ⟨h.rows.1, by simp, ?_⟩
      intro a ha b hb
      obtain ⟨e, he, rfl⟩ := List.mem_map.mp ha
      simp only [List.map_cons, List.map_nil, List.mem_singleton] at hb
      exact hb ▸ hr e he
    · intro e he
      rcases List.mem_append.mp he with he | he
      · exact h.rows.2 e he
      · rw [List.mem_singleton.mp he]; exact ⟨Nat.mul_mod_left _ _, h1, h2⟩
    · intro e he
      rcases List.mem_append.mp he with he | he
      · exact h.words e he
      · rw [List.mem_singleton.mp he]; exact hput _ ⟨rfl, fun y hy => nomatch hy⟩

/-- The slot that a word placed without a forced drain takes is free (R244). -/
theorem podFree_ok {pod : List PodEntry} {k : Nat} (h : podFree pod = some k) : k < 4 ∧ ∀ e ∈ pod, e.slot ≠ k := by
  refine ⟨List.mem_range.mp (List.mem_of_find?_eq_some h), fun e he hs => ?_⟩
  have := List.find?_some h
  simp only [Bool.not_eq_true', ← Bool.not_eq_true, List.any_eq_true, not_exists, not_and] at this
  exact this e he (by simp [hs])

/-- A word placed in core n's pod buffer, its row in the core's scratchpad (R244, R245). -/
theorem State.podPlace_keeps (n wa : Nat) (d : Dword) (x : Byte) (h1 : memBase n ≤ wa / 128 * 128)
    (h2 : wa / 128 * 128 < memBase n + 0x100000) : s.Keeps (s.podPlace n wa d x) := by
  unfold State.podPlace
  extract_lets c at_
  split
  · rename_i e hf
    have hu : ((s.drainEntry n e c.poison).bump (R.SPD_PODFORCE n)).core n = c := by
      unfold State.core
      show FMap.get Core.reset (s.drainEntry n e c.poison).cores n = _
      rw [s.drainEntry_cores]
      rfl
    refine ((s.drainEntry_keeps n e c.poison).trans (State.bump_keeps _ (R.SPD_PODFORCE n))).trans ?_
    refine State.setCore_keeps _ n _ fun h => ?_
    rw [hu] at h ⊢
    unfold Core.forced at hf
    split at hf
    · simp at hf
    · obtain ⟨r, hp⟩ : ∃ r, c.pod = e :: r := by
        cases hc : c.pod with
        | nil => simp [hc] at hf
        | cons a r => exact ⟨r, by simp_all⟩
      refine h.pop.put _ _ _ _ h1 h2 fun _ => ⟨h.slots.2 e (hp ▸ List.mem_cons_self), fun f hf' hs => ?_⟩
      have hn := h.slots.1
      rw [hp] at hn hf'
      exact (List.nodup_cons.mp hn).1 (List.mem_map.mpr ⟨f, hf', hs⟩)
  · rename_i hf
    refine State.setCore_keeps _ n _ fun h => h.put _ _ _ _ h1 h2 fun hr => ?_
    unfold Core.forced at hf
    cases hk : podFree c.pod with
    | some k => exact podFree_ok hk
    | none =>
      exfalso
      cases hc : c.pod with
      | nil => rw [hc] at hk; exact absurd hk (by decide)
      | cons a r => 
        have : (c.pod.any fun e => e.row == wa / 128 * 128) = false := hr
        rw [this, hk, hc] at hf
        simp at hf

theorem State.hashWord_keeps (n : Nat) (isF : Bool) (wa : Nat) (d : Dword) (poison : Bool) : s.Keeps (s.hashWord n isF wa d poison) := by
  unfold State.hashWord
  extract_lets c loc
  refine s.setCore_keeps n _ fun h => ?_
  cases isF <;> exact h

/-- A word stored by core n's sequencer, in its own scratchpad or in a cluster memory (R241, R243, R244). -/
theorem State.storeWord_keeps (n : Nat) (p : Place) (wa : Nat) (d : Dword) (h1 : p.mem < 128 → memBase n ≤ wa / 128 * 128)
    (h2 : p.mem < 128 → wa / 128 * 128 < memBase n + 0x100000) : s.Keeps (s.storeWord n p wa d) := by
  unfold State.storeWord
  refine .ite (fun _ => .refl s) fun _ => ?_
  extract_lets c t
  have ht : s.Keeps t := by
    simp only [t]
    split
    · rename_i hp
      have h := s.inject_keeps p d (cleanSyn c.poison)
      generalize s.inject p d (cleanSyn c.poison) = r at h
      obtain ⟨u, d', x⟩ := r
      exact h.trans (State.podPlace_keeps _ _ _ _ _ (h1 hp) (h2 hp))
    · exact s.writeWord_keeps ..
  exact .ite (fun _ => ht.trans (State.hashWord_keeps ..)) fun _ => ht

/-- Whole words written by a wide side. -/
theorem State.writeLanes_keeps (n a : Nat) (ws : List Dword) (poison : Bool) : s.Keeps (s.writeLanes n a ws poison) := by
  refine .forEach _ _ _ fun x _ s => ?_
  simp only
  split
  · exact .refl s
  · refine .ite (fun _ => .refl s) fun _ => ?_
    exact .ite (fun _ => (s.writeWord_keeps ..).trans (State.hashWord_keeps ..)) fun _ => s.writeWord_keeps ..

/-- The memory stays in canonical form under each write (the summary of the lemmas above). -/
theorem Memory.wf_writes (h : Memory.wf s.mem = true) :
    (∀ a b, Memory.wf (s.putByte a b).mem = true) ∧ (∀ wa d x, Memory.wf (s.putBank wa d x).mem = true) ∧
    (∀ p wa d b, Memory.wf (s.writeWord p wa d b).mem = true) ∧ (∀ p wa d, Memory.wf (s.restore p wa d).mem = true) ∧
    (∀ p wa src ctx, Memory.wf (s.readWord p wa src ctx).st.mem = true) ∧
    (∀ a len src ctx, Memory.wf (s.readWide a len src ctx).st.mem = true) ∧
    (∀ a m src ctx b, Memory.wf (s.writeMasked a m src ctx b).st.mem = true) ∧
    (∀ a bs src ctx b, Memory.wf (s.writeBytes a bs src ctx b).st.mem = true) ∧
    (∀ n e b, Memory.wf (s.drainEntry n e b).mem = true) ∧ ∀ a len, Memory.wf (s.forget a len).mem = true :=
  ⟨fun _ _ => (s.putByte_keeps ..).mem h, fun _ _ _ => (s.putBank_keeps ..).mem h, fun _ _ _ _ => (s.writeWord_keeps ..).mem h,
    fun _ _ _ => (s.restore_keeps ..).mem h, fun _ _ _ _ => (s.readWord_keeps ..).mem h, fun _ _ _ _ => (s.readWide_keeps ..).mem h,
    fun _ _ _ _ _ => (s.writeMasked_keeps ..).mem h, fun _ _ _ _ _ => (s.writeBytes_keeps ..).mem h,
    fun _ _ _ => (s.drainEntry_keeps ..).mem h, fun _ _ => (s.forget_keeps ..).mem h⟩

/-- The memory after reset lists nothing. -/
theorem Memory.wf_reset : Memory.wf State.reset.mem = true := rfl

end memory

end Sys2Proof.Machine
end

