-- ==== Sys2Proof/Laws/Issue.lean ====
section
/-! SUPPORT. What the issue of an instruction does: the fetch, the issue cycle, and the three ways an effect ends. -/

namespace Sys2Proof.Machine

open Sys2Proof

/-! ## Registers -/

@[simp] theorem Core.gr_zero (c : Core) : c.gr 0 = 0 := rfl

/-- A general register after a write; g0 takes none. -/
theorem Core.setG_gr (c : Core) (i k : Nat) (v : Word) : (c.setG i v).gr k = if k = i ∧ i ≠ 0 then v else c.gr k := by
  unfold Core.setG Core.gr
  by_cases hi : i = 0
  · simp [hi]
  · by_cases hk : k = 0
    · subst hk; simp [Ne.symm hi]
    · simp [hi, hk, FMap.get_set]

/-- A floating register after a write. -/
theorem Core.setF_fr (c : Core) (i k : Nat) (v : Dword) : (c.setF i v).fr k = if k = i then v else c.fr k := FMap.get_set ..

/-- A write of a general register leaves the rest of the core alone. -/
theorem Core.setG_rest (c : Core) (i : Nat) (v : Word) : c.setG i v = { c with g := (c.setG i v).g } := by
  unfold Core.setG; split <;> rfl

theorem lanes_get (ls : List Word) (n : Nat) (base : Nat) (m : FMap Word) (k : Nat) :
    FMap.get 0 ((List.range n).foldl (fun m l => FMap.set 0 m (base + l) (ls.getD l 0)) m) k =
      if base ≤ k ∧ k < base + n then ls.getD (k - base) 0 else FMap.get 0 m k := by
  induction n with
  | zero => simp only [List.range_zero, List.foldl_nil]; rw [if_neg (by omega)]
  | succ n ih =>
    rw [List.range_succ, List.foldl_append, List.foldl_cons, List.foldl_nil, FMap.get_set, ih]
    by_cases h : k = base + n
    · subst h; simp
    · rw [if_neg h]
      by_cases h2 : base ≤ k ∧ k < base + n
      · rw [if_pos h2, if_pos (by omega)]
      · rw [if_neg h2, if_neg (by omega)]

/-- A lane of a row register after a row register is written. -/
theorem Core.setV_lane (c : Core) (i k l : Nat) (ls : List Word) (hl : l < 16) :
    (c.setV i ls).lane k l = if k = i then ls.getD l 0 else c.lane k l := by
  unfold Core.setV Core.lane
  simp only [lanes_get]
  by_cases h : k = i
  · subst h; rw [if_pos (by omega), if_pos rfl]; congr 1; omega
  · rw [if_neg (by omega), if_neg h]

/-! ## The issue cycle -/

/-- What a core reaches is a place. -/
theorem State.reach_place {s : State} {n a len : Nat} {p : Place} (h : s.reach n a len = some p) : s.place a = some p := by
  unfold State.reach at h
  split at h
  · split at h <;> simp_all
  · simp at h

theorem foldl_max_le (l : List Nat) (g : Nat → Nat) (t : Nat) : t ≤ l.foldl (fun t k => max t (g k)) t := by
  induction l generalizing t with
  | nil => exact le_refl _
  | cons a l ih => exact le_trans (le_max_left _ _) (ih _)

/-- The scoreboard lets nothing issue before the core's next cycle (R117). -/
theorem boardAt_ge (c : Core) (p : Plan) : c.now ≤ boardAt c p := by
  unfold boardAt
  extract_lets t1 t2
  have h1 : c.now ≤ t1 := foldl_max_le _ _ _
  have h2 : t1 ≤ t2 := by
    simp only [t2]; split <;> first | exact le_max_left _ _ | exact le_refl _
  exact h1.trans (h2.trans (foldl_max_le _ (fun a => if p.accs then max (c.arr a).free (c.arr a).doneAt else (c.arr a).free) _))

/-- No instruction issues while the scoreboard holds it (R117, R141). -/
theorem issueAt_ge_board (rt : Bool) (c : Core) (p : Plan) : boardAt c p ≤ issueAt rt c p := by
  unfold issueAt
  split
  · exact le_max_left _ _
  · exact le_refl _

/-- No instruction issues before the core's next cycle (R117). -/
theorem issueAt_ge (rt : Bool) (c : Core) (p : Plan) : c.now ≤ issueAt rt c p := (boardAt_ge c p).trans (issueAt_ge_board rt c p)

/-! ## The arrays and stores of a core in time -/

/-- A core whose arrays and stores have nothing to do stays as it is (R117, R157). -/
theorem State.coreTo_idle {s : State} {n : Nat} (h : (s.core n).nextAt = none) (t : Nat) : s.coreTo n t = s := by
  have k : ∀ j, State.coreRun n t j s = s := fun j => by cases j <;> simp [State.coreRun, h]
  simp only [State.coreTo, k]
  rfl

section wait

variable {rt : Bool} {n : Nat} {p : Plan}

/-- A core whose arrays and stores have nothing to do only waits. -/
theorem State.await_idle {s : State} (h : (s.core n).nextAt = none) (k : Nat) :
    State.await rt n p k s = (s, issueAt rt (s.core n) p) := by
  cases k with
  | zero => rfl
  | succ k => simp [State.await, State.coreTo_idle h]

/-- No instruction issues before the cycle its core has come to. -/
theorem State.await_ge (k : Nat) (s : State) : ((State.await rt n p k s).1.core n).now ≤ (State.await rt n p k s).2 := by
  induction k generalizing s with
  | zero => exact issueAt_ge ..
  | succ k ih =>
    unfold State.await
    extract_lets t u
    split
    · exact (issueAt_ge ..).trans ‹_›
    · exact ih u

end wait

/-! ## The state at issue -/

section counted

variable (s : State) (n b t : Nat)

theorem State.counted_rest : s.counted n b t = { s with
    regs := (s.counted n b t).regs, cores := (s.counted n b t).cores
    cyc := { s.cyc.flags (s.counted n b t).cyc with when := (s.counted n b t).cyc.when } } := rfl

theorem State.counted_core_same :
    (s.counted n b t).core n = { s.core n with last := (s.core n).pc, issAt := t } := by
  unfold State.counted State.issued
  simp only [State.addSat_core, State.modCore_core_same]
  rfl

theorem State.counted_core_other {m : Nat} (h : m ≠ n) : (s.counted n b t).core m = s.core m := by
  unfold State.counted State.issued
  simp only [State.addSat_core, State.modCore_core, if_neg h]
  rfl

@[simp] theorem State.counted_mem : (s.counted n b t).mem = s.mem := rfl

theorem State.counted_rd_other (o : Nat) (h1 : o ≠ R.COR_ISSUE n) (h2 : o ≠ R.COR_STALLC n) : (s.counted n b t).rd o = s.rd o := by
  unfold State.counted
  rw [State.addSat_rd, if_neg h2]
  exact ((s.timed n t).bump_rd (R.COR_ISSUE n) o).trans (if_neg h1)

theorem State.counted_rd_issue : (s.counted n b t).rd (R.COR_ISSUE n) = satAdd (s.rd (R.COR_ISSUE n)) 1 := by
  unfold State.counted
  rw [State.addSat_rd, if_neg (by simp only [R.COR_ISSUE, R.COR_STALLC]; omega)]
  exact ((s.timed n t).bump_rd (R.COR_ISSUE n) _).trans (if_pos rfl)

theorem State.counted_rd_stall :
    (s.counted n b t).rd (R.COR_STALLC n) = satAdd (s.rd (R.COR_STALLC n)) (b - (s.core n).now) := by
  have h : (s.issued n t).rd (R.COR_STALLC n) = s.rd (R.COR_STALLC n) :=
    ((s.timed n t).bump_rd (R.COR_ISSUE n) _).trans (if_neg (by simp only [R.COR_ISSUE, R.COR_STALLC]; omega))
  unfold State.counted
  rw [State.addSat_rd, if_pos rfl, h]

end counted

/-! ## The fetch -/

/-- What a fetch that succeeds can change, once the core's arrays have come to its cycle: the read of one word, and the fetch word kept
(R115, R283). -/
theorem State.fetch_ok {s u : State} {n : Nat} (h : s.fetch n = .ok u) :
    ∃ v, ((s.coreTo n (s.core n).now).timed n (s.core n).now).OnlyRead v ∧
      (u = v ∨ ∃ k, u = v.modCore n fun c => { c with fetched := k }) := by
  unfold State.fetch at h
  extract_lets c a t s1 wa at h
  split at h
  · simp at h
  · split at h
    · injection h with h
      exact ⟨s1, .refl s1, .inl h.symm⟩
    · split at h
      · simp at h
      · extract_lets r v at h
        split at h
        · simp at h
        · injection h with h
          exact ⟨r.st, State.readWord_onlyRead _ _ _ _ _ (State.place_mem (State.reach_place ‹_›)), .inr ⟨_, h.symm⟩⟩

/-- A fetch leaves a core that runs running. -/
theorem State.fetch_run {s u : State} {n : Nat} (h : s.fetch n = .ok u) :
    (u.core n).run = ((s.coreTo n (s.core n).now).core n).run := by
  obtain ⟨v, hv, e⟩ := State.fetch_ok h
  rcases e with e | ⟨k, e⟩
  · rw [e]; exact hv.run n
  · rw [e, State.modCore_core_same]; exact hv.run n

/-! ## The issue of one word -/

section issue

variable {s u : State} {n : Nat} {w : Word} {plan : Core → Plan} {bad : Core → Bool} {body : State → Core → Nat → Eff}

/-- A word that issues: the wait for the scoreboard, and what its effect ends in. -/
theorem State.issueWord_eq (hc : s.canIssue n = true) (hf : s.fetch n = .ok u) (hg : (u.core n).run = true)
    (hr : (Isa.reserved w || bad (u.core n)) = false) :
    s.issueWord n w plan bad body =
      let p := plan (u.core n)
      let st := State.await (u.coreRt n) n p ((u.core n).work + 1) u
      let c := st.1.core n
      if c.run then
        (State.finish n c (u.coreRt n) p st.2 (body (st.1.counted n (boardAt c p) st.2) c st.2)).timedAt none
      else st.1.timedAt none := by
  unfold State.issueWord
  cases h : ((State.await (u.coreRt n) n (plan (u.core n)) ((u.core n).work + 1) u).1.core n).run <;> simp [hc, hf, hg, hr, h]

/-- A reserved word that issues (R127). -/
theorem State.issueWord_reserved (hc : s.canIssue n = true) (hf : s.fetch n = .ok u) (hg : (u.core n).run = true)
    (hr : (Isa.reserved w || bad (u.core n)) = true) :
    s.issueWord n w plan bad body = ((u.issued n (u.core n).now).reservedOp n (u.core n).now w).timedAt none := by
  unfold State.issueWord
  simp [hc, hf, hg, hr]

/-- An effect that takes no trap. -/
theorem State.finish_ok {v : State} {c0 : Core} {rt : Bool} {p : Plan} {t flags : Nat} {write : Core → Core} {jump : Option Nat}
    (he : takes rt c0 p flags = 0) (hr : (v.core n).run = true) :
    State.finish n c0 rt p t (.ok v write flags jump) = v.modCore n fun c => (c.retire rt c0 p t write flags jump).tileStop := by
  simp [State.finish, he, hr]

/-- An effect with an enabled exception (R140, R143). -/
theorem State.finish_trap {v : State} {c0 : Core} {rt : Bool} {p : Plan} {t flags : Nat} {write : Core → Core} {jump : Option Nat}
    (he : takes rt c0 p flags ≠ 0) :
    State.finish n c0 rt p t (.ok v write flags jump) =
      v.trap n t (causeOf (takes rt c0 p flags)) (if causeOf (takes rt c0 p flags) = 7 then p.opB else p.opA) := by
  simp [State.finish, he]

/-- An instruction without exceptions takes no trap. -/
theorem takes_none (rt : Bool) (c : Core) (p : Plan) (flags : Nat) (h : p.raises = 0) : takes rt c p flags = 0 := by
  simp [takes, h]

end issue

end Sys2Proof.Machine
end

