-- ==== Sys2Proof/Laws/Ends.lean ====
section
/-! SUPPORT. What ends a command keeps the invariant: digest records, a Fennel engine's commit and kill, stops and teardowns. -/

namespace Sys2Proof.Machine

open Sys2Proof

/-! ## Digests (R372 to R380, R384 to R386) -/

section digests

variable (s : State)

theorem State.diverge_keeps (o t : DigRec) : s.Keeps (s.diverge o t) := by
  unfold State.diverge
  extract_lets input s1 s2 s3
  have h1 : s.Keeps s1 := s.setBits_keeps _ _
  have h3 : s.Keeps s3 := .ite (fun _ => h1) fun _ =>
    (((((h1.trans (State.wr_keeps ..)).trans (State.wr_keeps ..)).trans (State.wr64_keeps ..)).trans (State.wr64_keeps ..)).trans
      (State.wr64_keeps ..))
  exact .ite (fun _ => h3) fun _ => (h3.trans (State.setBits_keeps ..)).trans (State.event_keeps ..)

theorem State.settle_keeps (ctx job : Nat) (step : Dword) (v : Nat) : s.Keeps (s.settle ctx job step v) := by
  unfold State.settle
  extract_lets d0 p0 s1 s2
  have h1 : s.Keeps s1 := .of_eq rfl rfl rfl rfl rfl
  have h2 : s.Keeps s2 := ((h1.trans (State.bump_keeps ..)).trans (State.wr_keeps ..)).trans (State.wr_keeps ..)
  exact .ite (fun _ => (h2.trans (State.setBits_keeps ..)).trans (State.event_keeps ..)) fun _ => h2

theorem State.compareStep_keeps (ctx job : Nat) (step : Dword) : s.Keeps (s.compareStep ctx job step) := by
  unfold State.compareStep
  extract_lets own theirs
  refine .ite (fun _ => s.settle_keeps ..) fun _ => ?_
  split
  · refine .ite (fun _ => ?_) fun _ => .ite (fun _ => s.settle_keeps ..) fun _ => ?_
    · exact State.Keeps.trans (.ite (fun _ => s.bump_keeps _) fun _ => .refl s) (State.settle_keeps ..)
    · split
      · exact s.settle_keeps ..
      · exact (s.settle_keeps ..).trans (State.diverge_keeps ..)
  · exact .refl s

theorem State.closeRec_keeps (r : DigRec) : s.Keeps (s.closeRec r) := by
  unfold State.closeRec
  extract_lets k st r' d0 s1 d1 s2 d2 p2 s3
  have h1 : s.Keeps s1 := .of_eq rfl rfl rfl rfl rfl
  have h2 : s.Keeps s2 := h1.trans (.of_eq rfl rfl rfl rfl rfl)
  have h3 : s.Keeps s3 := h2.trans (.of_eq rfl rfl rfl rfl rfl)
  refine .ite (fun _ => h1) fun _ => .ite (fun _ => ?_) fun _ => ?_
  · exact .ite (fun _ => h2) fun _ => h3.trans (State.compareStep_keeps ..)
  · exact .ite (fun _ => h1) fun _ => h1.trans (State.settle_keeps ..)

/-- A core replaced by one with its pod buffer. -/
theorem State.setCore_same (n : Nat) (c : Core) (h : c.pod = (s.core n).pod) : s.Keeps (s.setCore n c) :=
  s.setCore_keeps n c fun k => h ▸ k

theorem State.newStep_keeps (ctx job : Nat) : s.Keeps (s.newStep ctx job) := .of_eq rfl rfl rfl rfl rfl

theorem State.closeS_keeps (n layer : Nat) (a b : Bool) : s.Keeps (s.closeS n layer a b) := by
  unfold State.closeS
  extract_lets c
  split
  · rename_i s1 _ _ _ _ _ _
    have h1 : s.Keeps s1 := s.setCore_same n _ rfl
    exact .ite (fun _ => h1.trans (State.closeRec_keeps ..)) fun _ => h1
  · exact s.setCore_same n _ rfl

theorem State.closeF_keeps (n part ctx job : Nat) (batch : Bool) : s.Keeps (s.closeF n part ctx job batch) := by
  unfold State.closeF
  extract_lets c
  split
  · exact (s.setCore_same n { c with dF := none } rfl).trans (State.closeRec_keeps ..)
  · exact .refl s

/-- Cores changed one by one, but for their pod buffers. -/
theorem State.mapCores_keeps (f : Nat × Core → Nat × Core) (h1 : ∀ x, (f x).1 = x.1) (h2 : ∀ x, (f x).2.pod = x.2.pod) :
    s.Keeps { s with cores := s.cores.map f } := by
  refine ⟨id, id, id, id, fun n h => ?_⟩
  suffices e : (({ s with cores := s.cores.map f } : State).core n).pod = (s.core n).pod from e ▸ h
  show (FMap.get Core.reset (s.cores.map f) n).pod = (FMap.get Core.reset s.cores n).pod
  induction s.cores with
  | nil => rfl
  | cons c r ih =>
    unfold FMap.get at ih ⊢
    simp only [List.map_cons, FMap.find, h1]
    split
    · rfl
    · split
      · exact h2 c
      · exact ih

theorem State.poisonLayers_keeps (ctx : Nat) : s.Keeps (s.poisonLayers ctx) := s.mapCores_keeps _ (fun _ => rfl) fun _ => rfl

end digests

/-! ## Engines -/

section engines

variable (s : State)

theorem State.modFen_keeps (m : Nat) (f : Fennel → Fennel) : s.Keeps (s.modFen m f) := .of_eq rfl rfl rfl rfl rfl

theorem State.dropCmd_keeps (e : Engine) : s.Keeps (s.dropCmd e) := .of_eq rfl rfl rfl rfl rfl

theorem State.addCmd_keeps (r : RunCmd) : s.Keeps (s.addCmd r) := .of_eq rfl rfl rfl rfl rfl

theorem State.forgetCmd_keeps (r : RunCmd) : s.Keeps (s.forgetCmd r) := .of_eq rfl rfl rfl rfl rfl

theorem State.setDma_keeps (k : Nat) (c : DmaChan) : s.Keeps (s.setDma k c) := .of_eq rfl rfl rfl rfl rfl

theorem State.fenShow_keeps (m : Nat) : s.Keeps (s.fenShow m) := (s.wr_keeps _ _).trans (State.wr_keeps ..)

theorem State.fenCount_keeps (m status : Nat) : s.Keeps (s.fenCount m status) := by
  unfold State.fenCount
  extract_lets s1
  refine State.Keeps.trans (t := s1) (s.bump_keeps _) ?_
  split <;> first | exact State.bump_keeps .. | exact State.counter_keeps ..

/-- Whole words written by an engine. -/
theorem State.fenWrite_keeps (m a : Nat) (ws : List Dword) : s.Keeps (s.fenWrite m a ws) := by
  refine .forEach _ _ _ fun x _ s => ?_
  simp only
  split
  · exact .refl s
  · refine .ite (fun _ => .refl s) fun _ => ?_
    exact .ite (fun _ => (s.writeWord_keeps ..).trans (State.hashWord_keeps ..)) fun _ => s.writeWord_keeps ..

theorem State.fenRead_keeps (m a len : Nat) : s.Keeps (s.fenRead m a len).st := by
  unfold State.fenRead
  split
  · exact .refl s
  · extract_lets r
    have h : s.Keeps r.st := s.readWide_keeps ..
    split
    · refine State.Keeps.trans (t := r.st) h ?_
      dsimp only
      exact r.st.modFen_keeps m _
    · exact h

theorem State.fenResult_keeps (m : Nat) (ws : List Word) : s.Keeps (s.fenResult m ws) :=
  (s.fenWrite_keeps ..).trans (.forEach _ _ _ fun _ _ _ => State.wr_keeps ..)

theorem State.fenEnd_keeps (m : Nat) : s.Keeps (s.fenEnd m) := by
  unfold State.fenEnd
  extract_lets e s1 s2
  have h1 : s.Keeps s1 := by
    simp only [s1]
    split
    · exact s.closeF_keeps ..
    · exact s.modCore_keeps _ _ rfl
  exact ((h1.trans (State.modFen_keeps ..)).trans (State.dropCmd_keeps ..)).trans (State.fenShow_keeps ..)

theorem State.fenSignal_keeps (m : Nat) : s.Keeps (s.fenSignal m) := by
  unfold State.fenSignal
  split
  · exact .ite (fun _ => .refl s) fun _ => .of_eq rfl rfl rfl rfl rfl
  · exact .refl s

/-- A commit of an engine (R230, R231). -/
theorem State.fenCommit_keeps (m : Nat) (k : FenMark) : s.Keeps (s.fenCommit m k) := by
  unfold State.fenCommit
  extract_lets e s1 s2 s3 s4 s5
  have h1 : s.Keeps s1 := s.fenResult_keeps ..
  have h2 : s.Keeps s2 := h1.trans (State.fenWrite_keeps ..)
  have h3 : s.Keeps s3 := h2.trans (State.modFen_keeps ..)
  have h4 : s.Keeps s4 := h3.trans (State.fenCount_keeps ..)
  have h5 : s.Keeps s5 := .ite (fun _ => (h4.trans (State.setBits_keeps ..)).trans (State.event_keeps ..)) fun _ => h4
  exact (h5.trans (State.fenSignal_keeps ..)).trans (State.fenEnd_keeps ..)

/-- A killed command of an engine (R233). -/
theorem State.fenKill_keeps (m : Nat) (safe : Bool) : s.Keeps (s.fenKill m safe) := by
  unfold State.fenKill
  extract_lets e step s1 s2 old s3
  have h1 : s.Keeps s1 := s.modFen_keeps ..
  refine State.Keeps.trans (t := s3) (.ite (fun _ => ?_) fun _ => ?_) (State.fenEnd_keeps ..)
  · exact (((h1.trans (State.modFen_keeps ..)).trans (State.fenResult_keeps ..)).trans (State.fenCount_keeps ..)).trans (State.fenSignal_keeps ..)
  · exact (h1.trans (State.fenWrite_keeps ..)).trans (State.fenWrite_keeps ..)

theorem State.dmaIdle_keeps (k : Nat) : s.Keeps (s.dmaIdle k) := .of_eq rfl rfl rfl rfl rfl

theorem State.dmaEnd_keeps (k : Nat) : s.Keeps (s.dmaEnd k) := by
  unfold State.dmaEnd
  extract_lets c
  exact .ite (fun _ => .refl s) fun _ => .ite (fun _ => s.dmaIdle_keeps k) fun _ => .of_eq rfl rfl rfl rfl rfl

theorem State.stopSeq_keeps (n : Nat) : s.Keeps (s.stopSeq n) := by
  unfold State.stopSeq
  extract_lets s1 s2
  have h1 : s.Keeps s1 := (s.modCore_keeps n _ rfl).trans (State.closeS_keeps ..)
  have h2 : s.Keeps s2 := h1.trans (.of_eq rfl rfl rfl rfl rfl)
  exact (h2.trans (State.modCore_keeps _ n _ rfl)).trans (State.dropCmd_keeps ..)

theorem State.pauseCmd_keeps (e : Engine) : s.Keeps (s.pauseCmd e) := by
  unfold State.pauseCmd
  split
  · exact (s.dropCmd_keeps _).trans (State.addCmd_keeps ..)
  · exact .refl s

theorem State.privKill_keeps (r : RunCmd) : s.Keeps (s.privKill r) :=
  ((s.bump_keeps _).trans (State.setBits_keeps ..)).trans (State.event_keeps ..)

theorem State.cmdCut_keeps (r : RunCmd) : s.Keeps (s.cmdCut r) :=
  ((s.bump_keeps _).trans (State.setBits_keeps ..)).trans (State.event_keeps ..)

theorem State.commitLate_keeps (r : RunCmd) : s.Keeps (s.commitLate r) := (s.bump_keeps _).trans (State.event_keeps ..)

theorem State.stopCmd_keeps (r : RunCmd) : s.Keeps (s.stopCmd r) := by
  unfold State.stopCmd
  split
  · exact s.stopSeq_keeps _
  · exact s.dmaEnd_keeps _
  · exact s.dropCmd_keeps _
  · exact s.dropCmd_keeps _

/-- The end of a command's scope (R98). -/
theorem State.endCmd_keeps (r : RunCmd) (x : ScopeEnd) : s.Keeps (s.endCmd r x) := by
  unfold State.endCmd
  extract_lets priv td s1
  have h1 : s.Keeps s1 := s.privKill_keeps r
  refine .ite (fun _ => .ite (fun _ => s.forgetCmd_keeps r) fun _ => .refl s) fun _ => .ite (fun _ => .refl s) fun _ =>
    .ite (fun _ => ?_) fun _ => .ite (fun _ => ?_) fun _ => .ite (fun _ => s.stopCmd_keeps r) fun _ => ?_
  · split
    · refine .ite (fun _ => h1.trans (State.fenKill_keeps ..)) fun _ => ?_
      extract_lets s2 s3
      have h2 : s.Keeps s2 := h1.trans (State.modFen_keeps ..)
      have h3 : s.Keeps s3 := .ite (fun _ => h2.trans (State.pauseCmd_keeps ..)) fun _ => h2.trans (State.dropCmd_keeps ..)
      exact h3.trans (State.fenShow_keeps ..)
    · exact .ite (fun _ => h1.trans (State.pauseCmd_keeps ..)) fun _ =>
        (h1.trans (State.commitLate_keeps ..)).trans (State.dropCmd_keeps ..)
    · exact h1.trans (State.dropCmd_keeps ..)
  · exact (s.stopCmd_keeps r).trans (State.addCmd_keeps ..)
  · exact (s.stopCmd_keeps r).trans (State.cmdCut_keeps ..)

/-- The records of a teardown (R379). -/
theorem State.tdownRecs_keeps (ctx cause : Nat) : s.Keeps (s.tdownRecs ctx cause) :=
  .forEach _ _ _ fun _ _ _ => (State.closeRec_keeps ..).trans (State.newStep_keeps ..)

/-- A teardown (R101). -/
theorem State.teardown_keeps (ctx cause : Nat) : s.Keeps (s.teardown ctx cause) := by
  unfold State.teardown
  refine .ite (fun _ => .refl s) fun _ => ?_
  extract_lets safe s0 s1 s2 c s3 s4 s5 s6 s7
  have h0 : s.Keeps s0 := State.Keeps.trans (t := s.tearBatch ctx)
    (.ite (fun _ => s.modCore_keeps _ _ rfl) fun _ => .refl s) (.of_eq rfl rfl rfl rfl rfl)
  have h2 : s.Keeps s2 := ((h0.trans (State.clrBits_keeps ..)).trans (State.setField_keeps ..)).trans (State.setField_keeps ..)
  have h3 : s.Keeps s3 := h2.trans (.of_eq rfl rfl rfl rfl rfl)
  have h4 : s.Keeps s4 := ((h3.trans (State.bump_keeps ..)).trans (State.setBits_keeps ..)).trans (State.event_keeps ..)
  have h5 : s.Keeps s5 := h4.trans (.forEach _ _ _ fun _ _ _ => State.endCmd_keeps ..)
  have h6 : s.Keeps s6 := h5.trans (.forEach _ _ _ fun _ _ _ => State.dmaEnd_keeps ..)
  have h7 : s.Keeps s7 := h6.trans (State.tdownRecs_keeps ..)
  exact .ite (fun _ => h7) fun _ => h7.trans (State.escFail_keeps ..)

theorem State.teardownUe_keeps (ctx cause : Nat) : s.Keeps (s.teardownUe ctx cause) :=
  (s.poisonLayers_keeps ctx).trans (State.teardown_keeps ..)

theorem State.seqUe_keeps (n : Nat) : s.Keeps (s.seqUe n) := by
  unfold State.seqUe
  extract_lets c s1
  have h : s.Keeps s1 := s.modCore_keeps n _ rfl
  refine .ite (fun _ => ?_) fun _ => h
  split
  · exact h.trans (State.teardownUe_keeps ..)
  · exact h

end engines

end Sys2Proof.Machine
end

