-- ==== Sys2Proof/Laws/Cycles.lean ====
section
/-! SUPPORT. The cycles of a core keep the invariant: its arrays' reads and drains, its stores, its traps; and so does the issue of an
instruction whose own effect does. -/

namespace Sys2Proof.Machine

open Sys2Proof

/-! ## Holds and grants (R250, R253) -/

section ports

variable (s : State)

theorem State.timed_keeps (n t : Nat) : s.Keeps (s.timed n t) := .of_eq rfl rfl rfl rfl rfl

theorem State.timedAt_keeps (w : Option Dword) : s.Keeps (s.timedAt w) := .of_eq rfl rfl rfl rfl rfl

theorem State.grantBus_keeps (o : Nat) (cs : List Claim) : s.Keeps (s.grantBus o cs) := .of_eq rfl rfl rfl rfl rfl

theorem State.coreGrant_keeps (n t o : Nat) (cs : List Claim) : s.Keeps (s.coreGrant n t o cs) := s.modCore_keeps n _ rfl

theorem State.softHolds_keeps (cs : List Claim) : s.Keeps (s.softHolds cs) :=
  (State.Keeps.forEach _ _ _ fun _ _ _ => State.bump_keeps ..).trans (.of_eq rfl rfl rfl rfl rfl)

theorem State.hardHolds_keeps (cs : List (Nat × Claim)) : s.Keeps (s.hardHolds cs) := by
  unfold State.hardHolds
  extract_lets s1
  have h1 : s.Keeps s1 := (State.Keeps.forEach _ _ _ fun _ _ _ => State.bump_keeps ..).trans (.of_eq rfl rfl rfl rfl rfl)
  split
  · exact h1
  · exact .ite (fun _ => h1) fun _ => (h1.trans (State.setBits_keeps ..)).trans (State.event_keeps ..)

/-- A request that is granted has its effect; a held one is counted. -/
theorem State.ask_keeps (o : Nat) (cs : List Claim) (act : State → State) (h : ∀ u : State, u.Keeps (act u)) : s.Keeps (s.ask o cs act) := by
  unfold State.ask
  exact .ite (fun _ => (s.grantBus_keeps o cs).trans (h _)) fun _ => s.softHolds_keeps _

theorem State.fenRequest_keeps (m : Nat) (cs : List Claim) (act : State → State) (h : ∀ u : State, u.Keeps (act u)) :
    s.Keeps (s.fenRequest m cs act) := by
  unfold State.fenRequest
  exact .ite (fun _ => (s.grantBus_keeps _ cs).trans (h _)) fun _ => s.hardHolds_keeps _

theorem State.idleWork_keeps (n b : Nat) (act : State → State) (h : ∀ u : State, u.Keeps (act u)) : s.Keeps (s.idleWork n b act) := by
  unfold State.idleWork
  exact .ite (fun _ => (h s).trans (State.grantBus_keeps ..)) fun _ => .refl s

/-! ## One cycle of a core (R147, R157, R158, R239, R279) -/

@[simp] theorem Core.setArr_pod (c : Core) (a : Nat) (x : Arr) : (c.setArr a x).pod = c.pod := rfl

theorem State.drainCycle_keeps (n t : Nat) (held : List (Nat × Claim)) (a : Nat) : s.Keeps (s.drainCycle n t held a) := by
  unfold State.drainCycle
  extract_lets x
  split
  · extract_lets k s1 s2
    have h2 : s.Keeps s2 := (s.writeLanes_keeps ..).trans (State.touchCore_keeps _ n _ fun _ => rfl)
    exact .ite (fun _ => s.touchCore_keeps n _ fun _ => rfl) fun _ => h2.trans (.forEach _ _ _ fun _ _ _ => State.coreGrant_keeps ..)
  · exact .refl s

/-- The row of a place in a scratchpad lies in its window (R9). -/
theorem State.place_row {s : State} {a n : Nat} {p : Place} (h : s.place a = some p) (hn : p.mem = n) (hm : n < 128) :
    memBase n ≤ a / 128 * 128 ∧ a / 128 * 128 < memBase n + 0x100000 := by
  have hb : memBase n = 0x40000000 + n * 0x400000 := if_pos hm
  have hs : s.memSize n ≤ 0x100000 := by unfold State.memSize; rw [if_pos hm]; split <;> omega
  unfold State.place at h
  extract_lets k at h
  split at h
  · rename_i hk
    rw [Option.some.injEq] at h
    subst h
    have e : k = n := hn
    have hk2 := hk.2
    rw [e] at hk2
    rw [hb] at hk2 ⊢
    simp only [k] at e
    split at e
    · omega
    · split at e
      · omega
      · split at e <;> omega
  · simp at h

theorem State.mergeCycle_keeps (n t : Nat) : s.Keeps (s.mergeCycle n t) := by
  unfold State.mergeCycle
  split
  · rename_i m hm
    refine .ite (fun _ => ?_) fun _ => .refl s
    extract_lets s1
    have h1 : s.Keeps s1 := s.touchCore_keeps n _ fun _ => rfl
    split
    · rename_i p hp
      refine .ite (fun hmem => ?_) fun _ => h1
      extract_lets s2
      have h2 : s.Keeps s2 := h1.trans (.forEach _ _ _ fun _ _ _ => State.coreGrant_keeps ..)
      have hr : p.mem < 128 → p.mem = n := fun h => by omega
      exact h2.trans (State.storeWord_keeps _ _ _ _ _ (fun h => (State.place_row hp (hr h) (hr h ▸ h)).1) fun h =>
        (State.place_row hp (hr h) (hr h ▸ h)).2)
    · exact h1
  · exact .refl s

theorem State.coreTeardown_keeps (n cause : Nat) (ue : Bool) : s.Keeps (s.coreTeardown n cause ue) := by
  unfold State.coreTeardown
  split
  · exact .ite (fun _ => s.teardownUe_keeps ..) fun _ => s.teardown_keeps ..
  · exact s.stopSeq_keeps n

theorem State.coreWrites_keeps (n t : Nat) : s.Keeps (s.coreWrites n t) := by
  unfold State.coreWrites
  extract_lets held s1 s2
  have h1 : s.Keeps s1 := (s.timed_keeps n t).trans (State.touchCore_keeps _ n _ fun _ => rfl)
  have h2 : s.Keeps s2 := (h1.trans (State.hardHolds_keeps ..)).trans (.forEach _ _ _ fun _ _ _ => State.drainCycle_keeps ..)
  exact .ite (fun _ => .refl s) fun _ => h2.trans (State.mergeCycle_keeps _ n t)

theorem State.readRow_keeps (row src : Nat) (ctx : Option Nat) : s.Keeps (s.readRow row src ctx).1 := by
  unfold State.readRow
  generalize hr : ((s, []) : State × List (Dword × Bool)) = r
  have h : s.Keeps r.1 := by subst hr; exact .refl s
  clear hr
  induction rowWords row generalizing r with
  | nil => exact h
  | cons a l ih =>
    rw [List.foldl_cons]
    apply ih
    split
    · exact h
    · exact h.trans (State.readWord_keeps ..)

theorem State.readRows_keeps (src : Nat → Nat) (ctx : Option Nat) (rows : List Nat) : s.Keeps (s.readRows src ctx rows).1 := by
  unfold State.readRows
  generalize hr : ((s, []) : State × List (Nat × List (Dword × Bool))) = r
  have h : s.Keeps r.1 := by subst hr; exact .refl s
  clear hr
  induction rows generalizing r with
  | nil => exact h
  | cons a l ih =>
    rw [List.foldl_cons]
    exact ih _ (h.trans (State.readRow_keeps ..))

theorem State.readCycle_keeps (n t : Nat) (rows : List (Nat × List (Dword × Bool))) (a : Nat) : s.Keeps (s.readCycle n t rows a) := by
  unfold State.readCycle
  extract_lets x
  split
  · exact .refl s
  · refine .ite (fun _ => .refl s) fun _ => ?_
    extract_lets got r' y
    exact s.touchCore_keeps n _ fun _ => rfl

theorem State.coreReads_keeps (n t : Nat) : s.Keeps (s.coreReads n t) := by
  unfold State.coreReads
  extract_lets s1 rows own r was s2 s3 hurt
  have h1 : s.Keeps r.1 := (s.timed_keeps n t).trans (State.readRows_keeps ..)
  have h2 : s.Keeps s2 := h1.trans (.forEach _ _ _ fun _ _ _ => State.readCycle_keeps ..)
  have h3 : s.Keeps s3 := h2.trans (.forEach _ _ _ fun x _ u => .ite (fun _ => .refl u) fun _ => u.coreGrant_keeps ..)
  exact .ite (fun _ => h3.trans (State.coreTeardown_keeps ..)) fun _ => h3

theorem State.coreCycle_keeps (n t : Nat) : s.Keeps (s.coreCycle n t) :=
  (s.coreWrites_keeps n t).trans (State.coreReads_keeps ..)

/-- Any number of cycles of a core. -/
theorem State.coreRun_keeps (n t : Nat) (k : Nat) : s.Keeps (State.coreRun n t k s) := by
  induction k generalizing s with
  | zero => exact .refl s
  | succ k ih =>
    unfold State.coreRun
    split
    · exact .ite (fun _ => (s.coreCycle_keeps n _).trans (ih _)) fun _ => .refl s
    · exact .refl s

theorem State.coreTo_keeps (n t : Nat) : s.Keeps (s.coreTo n t) :=
  (s.coreRun_keeps n t _).trans (State.timedAt_keeps ..)

theorem State.coreFlush_keeps (n : Nat) : s.Keeps (s.coreFlush n) := s.coreTo_keeps n _

end ports

/-! ## Traps and the issue of an instruction -/

section issue

variable (s : State)

@[simp] theorem Core.flush_pod (c : Core) (t : Nat) : (c.flush t).pod = c.pod := rfl
@[simp] theorem Core.settled_pod (c : Core) : c.settled.pod = c.pod := rfl
@[simp] theorem Core.advance_pod (c : Core) (t k : Nat) (j : Option Nat) : (c.advance t k j).pod = c.pod := rfl
@[simp] theorem Core.retire_pod (c : Core) (rt : Bool) (c0 : Core) (p : Plan) (t : Nat) (w : Core → Core) (fl : Nat) (j : Option Nat) :
    (c.retire rt c0 p t w fl j).pod = (w c).pod := rfl
@[simp] theorem Core.setG_pod (c : Core) (i : Nat) (v : Word) : (c.setG i v).pod = c.pod := by unfold Core.setG; split <;> rfl
@[simp] theorem Core.setF_pod (c : Core) (i : Nat) (v : Dword) : (c.setF i v).pod = c.pod := rfl
@[simp] theorem Core.setV_pod (c : Core) (i : Nat) (ls : List Word) : (c.setV i ls).pod = c.pod := rfl

@[simp] theorem Core.tileStop_pod (c : Core) : c.tileStop.pod = c.pod := by unfold Core.tileStop; split <;> rfl

/-- A trap, or the halt of the command (R143). -/
theorem State.trap_keeps (n t cause : Nat) (v : Word) : s.Keeps (s.trap n t cause v) := by
  unfold State.trap
  extract_lets s1 c s2 c2 h src s3
  have h1 : s.Keeps s1 := s.touchCore_keeps n _ fun _ => rfl
  have h2 : s.Keeps s2 := (h1.trans (State.coreFlush_keeps _ n)).trans (State.timed_keeps ..)
  have h3 : s.Keeps s3 := (h2.trans (State.setCore_same _ n { src with halted := c2.halted ++ [h] } (Core.settled_pod c2))).trans (State.stopSeq_keeps ..)
  exact .ite (fun _ => h1.trans (State.setCore_same _ n _ rfl)) fun _ => h3.trans (State.event_keeps ..)

theorem State.reservedOp_keeps (n t : Nat) (w : Word) : s.Keeps (s.reservedOp n t w) := by
  unfold State.reservedOp
  extract_lets s1
  have h1 : s.Keeps s1 := s.timed_keeps n t
  exact .ite (fun _ => (h1.trans (State.bump_keeps ..)).trans (State.touchCore_keeps _ n _ fun _ => Core.tileStop_pod _)) fun _ =>
    h1.trans (State.trap_keeps _ n _ _ _)

theorem State.issued_keeps (n t : Nat) : s.Keeps (s.issued n t) :=
  ((s.timed_keeps n t).trans (State.bump_keeps ..)).trans (State.touchCore_keeps _ n _ fun _ => rfl)

theorem State.counted_keeps (n b t : Nat) : s.Keeps (s.counted n b t) := (s.issued_keeps n t).trans (State.addSat_keeps ..)

/-- The wait for the scoreboard (R117). -/
theorem State.await_keeps (rt : Bool) (n : Nat) (p : Plan) (k : Nat) : s.Keeps (State.await rt n p k s).1 := by
  induction k generalizing s with
  | zero => exact .refl s
  | succ k ih =>
    unfold State.await
    extract_lets t u
    have h : s.Keeps u := s.coreTo_keeps n t
    split
    · exact h
    · exact h.trans (ih u)

/-- What an effect ends in keeps what s has: the state reached does, and the registers written leave the pod buffer alone. -/
def Eff.Keeps (s : State) : Eff → Prop
  | .ok t write _ _ => s.Keeps t ∧ ∀ c : Core, (write c).pod = c.pod
  | .trap t _ _ _ => s.Keeps t
  | .lost t => s.Keeps t

theorem Eff.Keeps.trans {s t : State} {e : Eff} (h : s.Keeps t) (k : e.Keeps t) : e.Keeps s := by
  cases e with
  | ok => exact ⟨h.trans k.1, k.2⟩
  | trap => exact h.trans (t := t) k
  | lost => exact h.trans (t := t) k

/-- An access that is not made (R14, R126). -/
theorem State.deniedAt_keeps (n : Nat) (d : Denied) (a : Word) : (s.deniedAt n d a).Keeps s := by
  unfold State.deniedAt
  split
  · exact s.coreTeardown_keeps ..
  · exact .refl s

theorem State.finish_keeps (n : Nat) (c0 : Core) (rt : Bool) (p : Plan) (t : Nat) (e : Eff) (h : e.Keeps s) :
    s.Keeps (State.finish n c0 rt p t e) := by
  cases e with
  | lost u => exact .ite (fun _ => State.Keeps.trans (t := u) h (State.touchCore_keeps _ n _ fun _ => Core.tileStop_pod _)) fun _ => h
  | trap u dt cause v => exact State.Keeps.trans (t := u) h (State.trap_keeps _ n _ _ _)
  | ok u write flags jump =>
    simp only [State.finish]
    exact .ite (fun _ => h.1.trans (State.trap_keeps _ n _ _ _)) fun _ => .ite (fun _ => h.1) fun _ =>
      h.1.trans (State.modCore_keeps _ n _ (by rw [Core.tileStop_pod, Core.retire_pod]; exact h.2 _))

/-- The fetch of the next word. -/
theorem State.fetch_keeps (n : Nat) :
    match s.fetch n with
    | .ok t => s.Keeps t
    | .stop t => s.Keeps t := by
  unfold State.fetch
  extract_lets c a t s1 wa
  have h1 : s.Keeps s1 := (s.coreTo_keeps n t).trans (State.timed_keeps ..)
  clear_value s1
  have stop : ∀ (u : State) (k : Nat) (ue : Bool) (x : Nat) (v : Word), s.Keeps u →
      s.Keeps (if u.coreRt n then u.coreTeardown n k ue else u.trap n t x v) := fun u k ue x v h =>
    .ite (fun _ => h.trans (State.coreTeardown_keeps ..)) fun _ => h.trans (State.trap_keeps _ n _ _ _)
  by_cases g1 : c.code.2 < 4 * c.pc + 4
  · rw [if_pos g1]; exact stop s1 _ _ _ _ h1
  rw [if_neg g1]
  by_cases g2 : c.fetched = wa
  · rw [if_pos g2]; exact h1
  rw [if_neg g2]
  cases s1.reach n wa 8 with
  | none => exact stop s1 _ _ _ _ h1
  | some p =>
    simp only
    have h : ∀ b : Nat, s.Keeps ((s1.readWord p wa 0 c.ctx).st.modCore n fun c => { c with fetched := b }) := fun b =>
      (h1.trans (State.readWord_keeps ..)).trans (State.touchCore_keeps _ n _ fun _ => rfl)
    by_cases g3 : (s1.readWord p wa 0 c.ctx).bad = true
    · rw [if_pos g3]; exact stop _ _ _ _ _ (h _)
    · rw [if_neg g3]; exact h _

/-- The issue of a word whose effect keeps what the state has, keeps it. -/
theorem State.issueWord_keeps (n : Nat) (w : Word) (plan : Core → Plan) (bad : Core → Bool) (body : State → Core → Nat → Eff)
    (h : ∀ (u : State) (c : Core) (t : Nat), (body u c t).Keeps u) : s.Keeps (s.issueWord n w plan bad body) := by
  unfold State.issueWord
  refine .ite (fun _ => .refl s) fun _ => ?_
  have hf := s.fetch_keeps n
  split
  · rename_i e; rw [e] at hf; exact hf.trans (State.timedAt_keeps ..)
  · rename_i u e; rw [e] at hf
    refine State.Keeps.trans (t := u) hf ?_
    extract_lets c p rt st c2
    have hs : u.Keeps st.1 := u.await_keeps _ n _ _
    refine .ite (fun _ => u.timedAt_keeps _) fun _ => .ite (fun _ => ?_) fun _ => .ite (fun _ => hs.trans (State.timedAt_keeps ..)) fun _ => ?_
    · exact ((u.issued_keeps n _).trans (State.reservedOp_keeps _ n _ _)).trans (State.timedAt_keeps ..)
    · exact (hs.trans (State.finish_keeps _ n c2 _ _ _ _ (.trans (st.1.counted_keeps n _ _) (h ..)))).trans (State.timedAt_keeps ..)

theorem State.issue_keeps (n op : Nat) (f : IsaFields) (plan : Core → Word → Plan) (body : State → Core → Word → Nat → Eff)
    (h : ∀ (u : State) (c : Core) (w : Word) (t : Nat), (body u c w t).Keeps u) : s.Keeps (s.issue n op f plan body) :=
  s.issueWord_keeps n (isaWord op f) (fun c => plan c (isaWord op f)) (fun _ => false) (fun u c t => body u c (isaWord op f) t) fun u c t =>
    h u c (isaWord op f) t

/-- An instruction that only computes registers keeps the invariant. -/
theorem State.compute_keeps (n op : Nat) (f : IsaFields) (plan : Core → Word → Plan) (res : Core → Word → (Core → Core) × Nat)
    (h : ∀ (c : Core) (w : Word) (k : Core), ((res c w).1 k).pod = k.pod) : s.Keeps (s.compute n op f plan res) :=
  s.issue_keeps _ _ _ _ _ fun u c w _ => ⟨.refl u, h c w⟩

end issue

end Sys2Proof.Machine
end

