-- ==== Sys2Proof/WellFormed.lean ====
section
/-! DEFINITION. Which commands are well formed: every unit, register and record number lies in the range the spec gives it,
and a core instruction spells no reserved encoding (R127). A command that is not well formed names a unit that does not exist;
its meaning changes nothing. -/

namespace Sys2Proof

/-- The engine exists (R82). -/
def Engine.ok : Engine → Bool
  | .seq n => decide (n < 128)
  | .fen m => decide (m < 16)
  | .dma k => decide (k < 128)
  | .carr p => decide (p < 8)

/-- The command is well formed. -/
def Instr.wellFormed : Instr → Bool
  | .porstN _ => true
  | .perstN _ => true
  | .chipReset _ => true
  | .resetRelease _ _ => true
  | .brownout _ => true
  | .temperatureSensorRead _ => true
  | .tapInstruction _ => true
  | .tapTestLogicReset => true
  | .bootFuseDone => true
  | .bootImageLoad _ => true
  | .bootVerifyDone _ => true
  | .bootConfig => true
  | .lpddr6Training _ => true
  | .secBootctlGo => true
  | .arbRaiseRequest _ => true
  | .arbRaised => true
  | .artifactVerify part => decide (part < 8)
  | .artifactVerifyDone => true
  | .secUnlock _ => true
  | .attestReportRequest => true
  | .attestReportDone => true
  | .securityWatchdogExpiry => true
  | .memoryBistStart mem _ => decide (mem < 145)
  | .memoryBistDone _ => true
  | .tstMemctlOff => true
  | .tstMemctlOn _ => true
  | .pwrReqRun => true
  | .pwrReqFenced => true
  | .pwrReqQuiesce => true
  | .pwrState => true
  | .tbCommitTime => true
  | .tbCommitPh => true
  | .tbCommitEvt => true
  | .eventListTakesEffect => true
  | .tbSnapTake => true
  | .tbCoastEnd _ => true
  | .phaseWrap => true
  | .phaseInEdge pin _ => decide (pin < 4)
  | .candidateEdge pin => decide (pin < 4)
  | .phaseMiss => true
  | .phaseTrigger entry => decide (entry < 64)
  | .timeTrigger entry => decide (entry < 64)
  | .pulseEnd => true
  | .effectiveAnchor part group => decide (part < 8) && decide (group < 3)
  | .phaseCoastEnd part => decide (part < 8)
  | .slotStart part slot => decide (part < 8) && decide (slot < 1024)
  | .slotEnd part slot => decide (part < 8) && decide (slot < 1024)
  | .seqInstanceStart core part slot pos => decide (core < 128) && decide (part < 8) && decide (slot < 1024) && decide (pos < 4096)
  | .groupBTileStart part slot eng _ => decide (part < 8) && decide (slot < 1024) && eng.ok
  | .commandWatchdogExpiry eng => eng.ok
  | .schTdreqWrite _ => true
  | .reedbedWrite ctx word _ _ => decide (ctx < 4096) && decide (word < 16)
  | .schCommitLoad _ _ => true
  | .admissionDone => true
  | .tableApplied part => decide (part < 8)
  | .bestEffortTableApply part => decide (part < 8)
  | .spillMoveDone part handle unit => decide (part < 8) && decide (handle < 256) && decide (unit < 128)
  | .schCommitUnload _ => true
  | .partitionUnload part => decide (part < 8)
  | .schHotreqGo part model => decide (part < 8) && decide (model < 4)
  | .hotsetResidentNone part => decide (part < 8)
  | .hotsetReloadDone cluster => decide (cluster < 16)
  | .hotsetSwapped part => decide (part < 8)
  | .bestEffortPollTimer => true
  | .ringWriteback => true
  | .alu core f => decide (core < 128) && !Machine.Isa.reserved (Machine.isaWord 0x01 f)
  | .addi core f => decide (core < 128) && !Machine.Isa.reserved (Machine.isaWord 0x02 f)
  | .andi core f => decide (core < 128) && !Machine.Isa.reserved (Machine.isaWord 0x03 f)
  | .ori core f => decide (core < 128) && !Machine.Isa.reserved (Machine.isaWord 0x04 f)
  | .xori core f => decide (core < 128) && !Machine.Isa.reserved (Machine.isaWord 0x05 f)
  | .shi core f => decide (core < 128) && !Machine.Isa.reserved (Machine.isaWord 0x06 f)
  | .slti core f => decide (core < 128) && !Machine.Isa.reserved (Machine.isaWord 0x07 f)
  | .sltiu core f => decide (core < 128) && !Machine.Isa.reserved (Machine.isaWord 0x08 f)
  | .lih core f => decide (core < 128) && !Machine.Isa.reserved (Machine.isaWord 0x09 f)
  | .csel core f => decide (core < 128) && !Machine.Isa.reserved (Machine.isaWord 0x0A f)
  | .mul core f => decide (core < 128) && !Machine.Isa.reserved (Machine.isaWord 0x0B f)
  | .div core f => decide (core < 128) && !Machine.Isa.reserved (Machine.isaWord 0x0C f)
  | .dec core f => decide (core < 128) && !Machine.Isa.reserved (Machine.isaWord 0x0D f)
  | .lb core f => decide (core < 128) && !Machine.Isa.reserved (Machine.isaWord 0x10 f)
  | .lbu core f => decide (core < 128) && !Machine.Isa.reserved (Machine.isaWord 0x11 f)
  | .lh core f => decide (core < 128) && !Machine.Isa.reserved (Machine.isaWord 0x12 f)
  | .lhu core f => decide (core < 128) && !Machine.Isa.reserved (Machine.isaWord 0x13 f)
  | .lw core f => decide (core < 128) && !Machine.Isa.reserved (Machine.isaWord 0x14 f)
  | .lwp core f => decide (core < 128) && !Machine.Isa.reserved (Machine.isaWord 0x15 f)
  | .flw core f => decide (core < 128) && !Machine.Isa.reserved (Machine.isaWord 0x16 f)
  | .fld core f => decide (core < 128) && !Machine.Isa.reserved (Machine.isaWord 0x17 f)
  | .sb core f => decide (core < 128) && !Machine.Isa.reserved (Machine.isaWord 0x18 f)
  | .sh core f => decide (core < 128) && !Machine.Isa.reserved (Machine.isaWord 0x19 f)
  | .sw core f => decide (core < 128) && !Machine.Isa.reserved (Machine.isaWord 0x1A f)
  | .swp core f => decide (core < 128) && !Machine.Isa.reserved (Machine.isaWord 0x1B f)
  | .fsw core f => decide (core < 128) && !Machine.Isa.reserved (Machine.isaWord 0x1C f)
  | .fsd core f => decide (core < 128) && !Machine.Isa.reserved (Machine.isaWord 0x1D f)
  | .brEq core f => decide (core < 128) && !Machine.Isa.reserved (Machine.isaWord 0x20 f)
  | .brNe core f => decide (core < 128) && !Machine.Isa.reserved (Machine.isaWord 0x21 f)
  | .brLt core f => decide (core < 128) && !Machine.Isa.reserved (Machine.isaWord 0x22 f)
  | .brGe core f => decide (core < 128) && !Machine.Isa.reserved (Machine.isaWord 0x23 f)
  | .brLtu core f => decide (core < 128) && !Machine.Isa.reserved (Machine.isaWord 0x24 f)
  | .brGeu core f => decide (core < 128) && !Machine.Isa.reserved (Machine.isaWord 0x25 f)
  | .call core f => decide (core < 128) && !Machine.Isa.reserved (Machine.isaWord 0x26 f)
  | .callr core f => decide (core < 128) && !Machine.Isa.reserved (Machine.isaWord 0x27 f)
  | .loop core f => decide (core < 128) && !Machine.Isa.reserved (Machine.isaWord 0x28 f)
  | .seqEnd core f => decide (core < 128) && !Machine.Isa.reserved (Machine.isaWord 0x29 f)
  | .endComplete core => decide (core < 128)
  | .idle core f => decide (core < 128) && !Machine.Isa.reserved (Machine.isaWord 0x2A f)
  | .nop core f => decide (core < 128) && !Machine.Isa.reserved (Machine.isaWord 0x2B f)
  | .fbar core f => decide (core < 128) && !Machine.Isa.reserved (Machine.isaWord 0x2C f)
  | .fbarSnapshot core => decide (core < 128)
  | .csr core f => decide (core < 128) && !Machine.Isa.reserved (Machine.isaWord 0x2D f)
  | .eret core f => decide (core < 128) && !Machine.Isa.reserved (Machine.isaWord 0x2E f)
  | .brk core f => decide (core < 128) && !Machine.Isa.reserved (Machine.isaWord 0x2F f)
  | .corTrapClr core => decide (core < 128)
  | .reservedEncoding core word => decide (core < 128) && Machine.Isa.reserved word
  | .fop core f => decide (core < 128) && !Machine.Isa.reserved (Machine.isaWord 0x30 f)
  | .fmadd core f => decide (core < 128) && !Machine.Isa.reserved (Machine.isaWord 0x31 f)
  | .fmsub core f => decide (core < 128) && !Machine.Isa.reserved (Machine.isaWord 0x32 f)
  | .fnmadd core f => decide (core < 128) && !Machine.Isa.reserved (Machine.isaWord 0x33 f)
  | .fnmsub core f => decide (core < 128) && !Machine.Isa.reserved (Machine.isaWord 0x34 f)
  | .fcmp core f => decide (core < 128) && !Machine.Isa.reserved (Machine.isaWord 0x35 f)
  | .fcvt core f => decide (core < 128) && !Machine.Isa.reserved (Machine.isaWord 0x36 f)
  | .fmv core f => decide (core < 128) && !Machine.Isa.reserved (Machine.isaWord 0x37 f)
  | .fsel core f => decide (core < 128) && !Machine.Isa.reserved (Machine.isaWord 0x38 f)
  | .vld core f => decide (core < 128) && !Machine.Isa.reserved (Machine.isaWord 0x40 f)
  | .vst core f => decide (core < 128) && !Machine.Isa.reserved (Machine.isaWord 0x41 f)
  | .vop core f => decide (core < 128) && !Machine.Isa.reserved (Machine.isaWord 0x42 f) && Machine.Isa.sel (Machine.isaWord 0x42 f) != 12
  | .vq8 core f => decide (core < 128) && !Machine.Isa.reserved (Machine.isaWord 0x42 f) && Machine.Isa.sel (Machine.isaWord 0x42 f) == 12
  | .vfma core f => decide (core < 128) && !Machine.Isa.reserved (Machine.isaWord 0x43 f)
  | .vred core f => decide (core < 128) && !Machine.Isa.reserved (Machine.isaWord 0x44 f)
  | .vrand core f => decide (core < 128) && !Machine.Isa.reserved (Machine.isaWord 0x45 f)
  | .amm core f => decide (core < 128) && !Machine.Isa.reserved (Machine.isaWord 0x50 f)
  | .accumulatorsComplete core array => decide (core < 128) && decide (array < 8)
  | .ast core f => decide (core < 128) && !Machine.Isa.reserved (Machine.isaWord 0x51 f)
  | .dmago core f => decide (core < 128) && !Machine.Isa.reserved (Machine.isaWord 0x58 f)
  | .sig core f => decide (core < 128) && !Machine.Isa.reserved (Machine.isaWord 0x59 f)
  | .wait core f => decide (core < 128) && !Machine.Isa.reserved (Machine.isaWord 0x5A f)
  | .seqWaitMet core => decide (core < 128)
  | .srst core f => decide (core < 128) && !Machine.Isa.reserved (Machine.isaWord 0x5B f)
  | .dlayer core f => decide (core < 128) && !Machine.Isa.reserved (Machine.isaWord 0x5C f)
  | .syncObjectArrival obj => decide (obj < 16384)
  | .fennelCommandStart cluster part slot pos => decide (cluster < 16) && decide (part < 8) && decide (slot < 1024) && decide (pos < 4096)
  | .fenBprod cluster _ => decide (cluster < 16)
  | .fenBmv cluster _ => decide (cluster < 16)
  | .fenVop cluster _ => decide (cluster < 16)
  | .fenVld cluster _ => decide (cluster < 16)
  | .fenVst cluster _ => decide (cluster < 16)
  | .fenDld cluster _ => decide (cluster < 16)
  | .fenDst cluster _ => decide (cluster < 16)
  | .fenPiv cluster _ => decide (cluster < 16)
  | .fenLinv cluster _ => decide (cluster < 16)
  | .fenRes cluster _ => decide (cluster < 16)
  | .fenInf cluster _ => decide (cluster < 16)
  | .fenPub cluster _ => decide (cluster < 16)
  | .fenBody cluster _ => decide (cluster < 16)
  | .fenNext cluster _ => decide (cluster < 16)
  | .fenEnd cluster _ => decide (cluster < 16)
  | .fennelDeadline cluster part slot pos => decide (cluster < 16) && decide (part < 8) && decide (slot < 1024) && decide (pos < 4096)
  | .cluCalcommit cluster => decide (cluster < 16)
  | .calcfgApply cluster => decide (cluster < 16)
  | .cluCalclr cluster _ => decide (cluster < 16)
  | .cluCalclose cluster _ => decide (cluster < 16)
  | .calibWindowClose cluster entry => decide (cluster < 16) && decide (entry < 32)
  | .podNormalDrain core => decide (core < 128)
  | .correctionWriteBack mem bank => decide (mem < 145) && decide (bank < 16)
  | .scrubRead mem bank => decide (mem < 145) && decide (bank < 16)
  | .scrubWrite mem bank => decide (mem < 145) && decide (bank < 16)
  | .lpddr6ScrubRead => true
  | .eccRmcommit mem => decide (mem < 145)
  | .remapAdded mem => decide (mem < 145)
  | .eccInjectArm mem => decide (mem.toNat < 145)
  | .spdPgctlPowerDown mem _ => decide (mem < 145)
  | .spdPgctlPowerUp mem _ => decide (mem < 145)
  | .bankOff mem bank => decide (mem < 145) && decide (bank < 16)
  | .bankPdAbort mem bank => decide (mem < 145) && decide (bank < 16)
  | .bankWakeDone mem bank => decide (mem < 145) && decide (bank < 16)
  | .dmaChctlGo cluster chan didx => decide (cluster < 16) && decide (chan < 8) && decide (didx < 4096)
  | .dmaChctlStop cluster chan => decide (cluster < 16) && decide (chan < 8)
  | .dmaChctlResume cluster chan => decide (cluster < 16) && decide (chan < 8)
  | .dmaChctlSkip cluster chan => decide (cluster < 16) && decide (chan < 8)
  | .dmaChctlClear cluster chan => decide (cluster < 16) && decide (chan < 8)
  | .dmaNop cluster chan => decide (cluster < 16) && decide (chan < 8)
  | .dmaCopy cluster chan => decide (cluster < 16) && decide (chan < 8)
  | .dmaFill cluster chan => decide (cluster < 16) && decide (chan < 8)
  | .dmaSignal cluster chan => decide (cluster < 16) && decide (chan < 8)
  | .dmaWait cluster chan => decide (cluster < 16) && decide (chan < 8)
  | .dmaWaitMet cluster chan => decide (cluster < 16) && decide (chan < 8)
  | .dmaReset cluster chan => decide (cluster < 16) && decide (chan < 8)
  | .dmaDescriptorComplete cluster chan => decide (cluster < 16) && decide (chan < 8)
  | .dmaWatchdogExpiry cluster chan => decide (cluster < 16) && decide (chan < 8)
  | .lpddr6RequestComplete _ _ _ => true
  | .lpddr6ZqLatch => true
  | .lpddr6OscRead _ => true
  | .lpddr6TempRead chan _ => decide (chan < 4)
  | .lpddr6PowerDownEntry chan => decide (chan < 4)
  | .ethLink port _ => decide (port < 4)
  | .ethCommit port => decide (port < 4)
  | .ethGroupApply port => decide (port < 4)
  | .ethFrame rx => decide (rx.port < 6)
  | .pauseFrame rx => decide (rx.port < 6)
  | .meas rx => decide (rx.port < 6)
  | .measPlacementDone ctx job => decide (ctx < 4096) && decide (job < 4)
  | .rd rx => decide (rx.port < 6)
  | .wr rx => decide (rx.port < 6)
  | .wrComplete _ => true
  | .ack rx => decide (rx.port < 6)
  | .nak rx => decide (rx.port < 6)
  | .phase rx => decide (rx.port < 6)
  | .hello rx => decide (rx.port < 6)
  | .helloSendTimer peer => decide (peer < 33)
  | .attest rx => decide (rx.port < 6)
  | .carrRequestTimeout peer _ => decide (peer < 33)
  | .carrCommitParse => true
  | .carrOutputCommit part slot pos => decide (part < 8) && decide (slot < 1024) && decide (pos < 4096)
  | .launchSelect port => decide (port < 4)
  | .frameTransmitted port _ => decide (port < 4)
  | .hostTxRingPoll => true
  | .mirLane lane _ => decide (lane < 2)
  | .hb rx => decide (rx.port < 6)
  | .heartbeatMiss => true
  | .digest rx => decide (rx.port < 6)
  | .cmpwinExpiry ctx job => decide (ctx < 4096) && decide (job < 4)
  | .mirrorFrameSend sub => decide (1 ≤ sub ∧ sub ≤ 5)
  | .inote rx => decide (rx.port < 6)
  | .forwardWaitExpiry ctx job _ => decide (ctx < 4096) && decide (job < 4)
  | .fwdreq rx => decide (rx.port < 6)
  | .fwd rx => decide (rx.port < 6)
  | .fwdFragmentTimeout lane => decide (lane < 2)
  | .mirrorRd rx => decide (rx.port < 6)
  | .mirCtlHandover => true
  | .mirCtlTake => true
  | .mirCtlYield => true
  | .mirCommit => true
  | .mirGroupApply => true
  | .mirDivclr => true
  | .reg64LowRead off => decide (off % 4 = 0)
  | .rcRegisterRead off => decide (off % 4 = 0)
  | .registerWrite off _ _ => decide (off % 4 = 0)
  | .bar2Read _ _ => true
  | .bar2Write _ _ _ => true
  | .inboundWaitExpiry _ => true
  | .pcieFlr => true
  | .pcieHotReset => true
  | .pcieLink _ _ _ => true
  | .outboundCompletion _ _ _ => true
  | .outboundCompletionTimeout _ => true
  | .logRecordWrite => true
  | .logCoalesceExpiry => true
  | .glbCommitLog => true
  | .logGroupApply => true
  | .glbEscclr _ => true
  | .glbHosthb => true
  | .hostSilent => true
  | .reg64HighRead off => decide (off % 4 = 0)
  | .pcieConfigRequest _ => true
  | .dmaInstancePositionStart part slot pos => decide (part < 8) && decide (slot < 1024) && decide (pos < 4096)
  | .unkTypeFrame rx => decide (rx.port < 6)
  | .linkCheckerLock lane => decide (lane < 6)

end Sys2Proof
end

