-- ==== Sys2Proof/Tests/Slice0.lean ====
section
/-! SUPPORT. Tests: an ill-formed term for each check of WellFormed; for each statement, states and operands that meet the hypotheses of
its clauses together; and examples that the spec works out, each over one command. -/

open Sys2Proof Sys2Proof.Machine Sys2Proof.Claims

set_option Elab.async false

namespace Sys2Proof.Tests

/-! ## Small states -/

/-- The device runs, every register at its reset value. -/
def base : State := { State.reset with boot := { State.reset.boot with state := .run, held := [] } }

/-- Some registers set. -/
def State.put (s : State) (rs : List (Nat × Word)) : State := rs.foldl (fun s x => s.wr x.1 x.2) s

/-- A core that runs code at the start of core 0's scratchpad. -/
def core0 : Core := { Core.reset with run := true, code := (0x40000000, 4096), fetched := 0x40000000, g := [(1, 0x40000100), (2, 3)] }

/-- Core 0 as given. -/
def onCore (c : Core) : State := { base with cores := [(0, c)] }

/-- A real-time partition 0 with cluster 0, and a best-effort one. -/
def rtPart (s : State) : State := State.put s [(R.SCH_PCFG 0 + 0x800, 0xC0000001)]

/-- Bytes from a written. -/
def filled (a n : Nat) (s : State) : State := { s with mem := (List.range n).map fun i => (a + i, 0) }

end Sys2Proof.Tests

/-! ## Ill-formed commands are refused -/

namespace Sys2Proof.Tests

/-- A frame at a port that does not exist. -/
def rxBad : RxFrame := ⟨6, 0, ⟨0, 0, none, false, 0, [], 64, true⟩⟩

/-- No command of the list is well formed. -/
def refused (l : List Instr) : Bool := l.all fun c => !c.wellFormed

theorem test_ill_array : refused (
  [.accumulatorsComplete 0 8]) = true := by decide +kernel

theorem test_ill_bank : refused (
  [.correctionWriteBack 0 16, .scrubRead 0 16, .scrubWrite 0 16, .bankOff 0 16, .bankPdAbort 0 16, .bankWakeDone 0 16]) = true := by decide +kernel

theorem test_ill_chan : refused (
  [.dmaChctlGo 0 8 0, .dmaChctlStop 0 8, .dmaChctlResume 0 8, .dmaChctlSkip 0 8, .dmaChctlClear 0 8, .dmaNop 0 8, .dmaCopy 0 8, 
   .dmaFill 0 8, .dmaSignal 0 8, .dmaWait 0 8, .dmaWaitMet 0 8, .dmaReset 0 8, .dmaDescriptorComplete 0 8, .dmaWatchdogExpiry 0 8, 
   .lpddr6TempRead 4 0, .lpddr6PowerDownEntry 4]) = true := by decide +kernel

theorem test_ill_cluster : refused (
  [.hotsetReloadDone 16, .fennelCommandStart 16 0 0 0, .fenBprod 16 ⟨false, 0, 0, 0, 0⟩, .fenBmv 16 ⟨false, 0, 0, 0, 0⟩, 
   .fenVop 16 ⟨false, 0, 0, 0, 0⟩, .fenVld 16 ⟨false, 0, 0, 0, 0⟩, .fenVst 16 ⟨false, 0, 0, 0, 0⟩, .fenDld 16 ⟨false, 0, 0, 0, 0⟩, 
   .fenDst 16 ⟨false, 0, 0, 0, 0⟩, .fenPiv 16 ⟨false, 0, 0, 0, 0⟩, .fenLinv 16 ⟨false, 0, 0, 0, 0⟩, .fenRes 16 ⟨false, 0, 0, 0, 0⟩, 
   .fenInf 16 ⟨false, 0, 0, 0, 0⟩, .fenPub 16 ⟨false, 0, 0, 0, 0⟩, .fenBody 16 ⟨false, 0, 0, 0, 0⟩, 
   .fenNext 16 ⟨false, 0, 0, 0, 0⟩, .fenEnd 16 ⟨false, 0, 0, 0, 0⟩, .fennelDeadline 16 0 0 0, .cluCalcommit 16, .calcfgApply 16, 
   .cluCalclr 16 0, .cluCalclose 16 0, .calibWindowClose 16 0, .dmaChctlGo 16 0 0, .dmaChctlStop 16 0, .dmaChctlResume 16 0, 
   .dmaChctlSkip 16 0, .dmaChctlClear 16 0, .dmaNop 16 0, .dmaCopy 16 0, .dmaFill 16 0, .dmaSignal 16 0, .dmaWait 16 0, 
   .dmaWaitMet 16 0, .dmaReset 16 0, .dmaDescriptorComplete 16 0, .dmaWatchdogExpiry 16 0]) = true := by decide +kernel

theorem test_ill_core : refused (
  [.seqInstanceStart 128 0 0 0, .endComplete 128, .fbarSnapshot 128, .corTrapClr 128, .accumulatorsComplete 128 0, .seqWaitMet 128, 
   .podNormalDrain 128, .alu 128 0, .addi 128 0, .andi 128 0, .ori 128 0, .xori 128 0, .shi 128 0, .slti 128 0, .sltiu 128 0, 
   .lih 128 0, .csel 128 0, .mul 128 0, .div 128 0, .dec 128 0, .lb 128 0, .lbu 128 0, .lh 128 0, .lhu 128 0, .lw 128 0, 
   .lwp 128 0, .flw 128 0, .fld 128 0, .sb 128 0, .sh 128 0, .sw 128 0, .swp 128 0, .fsw 128 0, .fsd 128 0, .brEq 128 0, 
   .brNe 128 0, .brLt 128 0, .brGe 128 0, .brLtu 128 0, .brGeu 128 0, .call 128 0, .callr 128 0, .loop 128 0, .seqEnd 128 0, 
   .idle 128 0, .nop 128 0, .fbar 128 0, .csr 128 0, .eret 128 0, .brk 128 0, .fop 128 0, .fmadd 128 0, .fmsub 128 0, 
   .fnmadd 128 0, .fnmsub 128 0, .fcmp 128 0, .fcvt 128 0, .fmv 128 0, .fsel 128 0, .vld 128 0, .vst 128 0, .vop 128 0, .vq8 128 0, 
   .vfma 128 0, .vred 128 0, .vrand 128 0, .amm 128 0, .ast 128 0, .dmago 128 0, .sig 128 0, .wait 128 0, .srst 128 0, 
   .dlayer 128 0]) = true := by decide +kernel

theorem test_ill_ctx : refused (
  [.reedbedWrite 4096 0 0 0, .measPlacementDone 4096 0, .cmpwinExpiry 4096 0, .forwardWaitExpiry 4096 0 0]) = true := by decide +kernel

theorem test_ill_didx : refused (
  [.dmaChctlGo 0 0 4096]) = true := by decide +kernel

theorem test_ill_eng : refused (
  [.groupBTileStart 0 0 (.fen 16) 0, .commandWatchdogExpiry (.fen 16)]) = true := by decide +kernel

theorem test_ill_entry : refused (
  [.phaseTrigger 64, .timeTrigger 64, .calibWindowClose 0 32]) = true := by decide +kernel

theorem test_ill_group : refused (
  [.effectiveAnchor 0 3]) = true := by decide +kernel

theorem test_ill_handle : refused (
  [.spillMoveDone 0 256 0]) = true := by decide +kernel

theorem test_ill_job : refused (
  [.measPlacementDone 0 4, .cmpwinExpiry 0 4, .forwardWaitExpiry 0 4 0]) = true := by decide +kernel

theorem test_ill_lane : refused (
  [.mirLane 2 false, .fwdFragmentTimeout 2, .linkCheckerLock 6]) = true := by decide +kernel

theorem test_ill_mem : refused (
  [.memoryBistStart 145 0, .correctionWriteBack 145 0, .scrubRead 145 0, .scrubWrite 145 0, .eccRmcommit 145, .remapAdded 145, 
   .eccInjectArm 145, .spdPgctlPowerDown 145 0, .spdPgctlPowerUp 145 0, .bankOff 145 0, .bankPdAbort 145 0, .bankWakeDone 145 0]) = true := by decide +kernel

theorem test_ill_model : refused (
  [.schHotreqGo 0 4]) = true := by decide +kernel

theorem test_ill_obj : refused (
  [.syncObjectArrival 16384]) = true := by decide +kernel

theorem test_ill_off : refused (
  [.reg64LowRead 2, .rcRegisterRead 2, .registerWrite 2 0 0, .reg64HighRead 2]) = true := by decide +kernel

theorem test_ill_part : refused (
  [.artifactVerify 8, .effectiveAnchor 8 0, .phaseCoastEnd 8, .slotStart 8 0, .slotEnd 8 0, .seqInstanceStart 0 8 0 0, 
   .groupBTileStart 8 0 (.seq 0) 0, .tableApplied 8, .bestEffortTableApply 8, .spillMoveDone 8 0 0, .partitionUnload 8, 
   .schHotreqGo 8 0, .hotsetResidentNone 8, .hotsetSwapped 8, .fennelCommandStart 0 8 0 0, .fennelDeadline 0 8 0 0, 
   .carrOutputCommit 8 0 0, .dmaInstancePositionStart 8 0 0]) = true := by decide +kernel

theorem test_ill_peer : refused (
  [.helloSendTimer 33, .carrRequestTimeout 33 0]) = true := by decide +kernel

theorem test_ill_pin : refused (
  [.phaseInEdge 4 false, .candidateEdge 4]) = true := by decide +kernel

theorem test_ill_port : refused (
  [.ethLink 4 false, .ethCommit 4, .ethGroupApply 4, .ethFrame rxBad, .pauseFrame rxBad, .meas rxBad, .rd rxBad, .wr rxBad, 
   .ack rxBad, .nak rxBad, .phase rxBad, .hello rxBad, .attest rxBad, .launchSelect 4, .frameTransmitted 4 0, .hb rxBad, 
   .digest rxBad, .inote rxBad, .fwdreq rxBad, .fwd rxBad, .mirrorRd rxBad, .unkTypeFrame rxBad]) = true := by decide +kernel

theorem test_ill_pos : refused (
  [.seqInstanceStart 0 0 0 4096, .fennelCommandStart 0 0 0 4096, .fennelDeadline 0 0 0 4096, .carrOutputCommit 0 0 4096, 
   .dmaInstancePositionStart 0 0 4096]) = true := by decide +kernel

theorem test_ill_slot : refused (
  [.slotStart 0 1024, .slotEnd 0 1024, .seqInstanceStart 0 0 1024 0, .groupBTileStart 0 1024 (.seq 0) 0, 
   .fennelCommandStart 0 0 1024 0, .fennelDeadline 0 0 1024 0, .carrOutputCommit 0 1024 0, .dmaInstancePositionStart 0 1024 0]) = true := by decide +kernel

theorem test_ill_sub : refused (
  [.mirrorFrameSend 0, .mirrorFrameSend 6]) = true := by decide +kernel

theorem test_ill_unit : refused (
  [.spillMoveDone 0 0 128]) = true := by decide +kernel

theorem test_ill_word : refused (
  [.reedbedWrite 0 16 0 0]) = true := by decide +kernel

/-- Each core instruction but those whose every bit is read refuses a word with all bits set, and the reserved-encoding command a word that is none. -/
theorem test_ill_encoding : refused (
  [.alu 0 0x1FFFFFF, .shi 0 0x1FFFFFF, .csel 0 0x1FFFFFF, .mul 0 0x1FFFFFF, .div 0 0x1FFFFFF, .dec 0 0x1FFFFFF,
   .lwp 0 0x1FFFFFF, .swp 0 0x1FFFFFF, .loop 0 0x1FFFFFF, .seqEnd 0 0x1FFFFFF, .idle 0 0x1FFFFFF, .nop 0 0x1FFFFFF,
   .fbar 0 0x1FFFFFF, .csr 0 0x1FFFFFF, .eret 0 0x1FFFFFF, .brk 0 0x1FFFFFF, .fop 0 0x1FFFFFF, .fmadd 0 0x1FFFFFF,
   .fmsub 0 0x1FFFFFF, .fnmadd 0 0x1FFFFFF, .fnmsub 0 0x1FFFFFF, .fcmp 0 0x1FFFFFF, .fcvt 0 0x1FFFFFF, .fmv 0 0x1FFFFFF,
   .fsel 0 0x1FFFFFF, .vld 0 0x1FFFFFF, .vst 0 0x1FFFFFF, .vop 0 0x1FFFFFF, .vq8 0 0x1FFFFFF, .vfma 0 0x1FFFFFF,
   .vred 0 0x1FFFFFF, .vrand 0 0x1FFFFFF, .amm 0 0x1FFFFFF, .ast 0 0x1FFFFFF, .dmago 0 0x1FFFFFF, .sig 0 0x1FFFFFF,
   .wait 0 0x1FFFFFF, .srst 0 0x1FFFFFF, .dlayer 0 0x1FFFFFF, .reservedEncoding 0 (isaWord 0x2B 0), .vq8 0 0, .vop 0 12]) = true := by decide +kernel

end Sys2Proof.Tests

/-! ## Hypotheses met: the core instruction set -/

namespace Sys2Proof.Tests

/-- A state whose core 0 has come to its next issue. -/
def ready (s : State) : State := (s.coreTo 0 (s.core 0).now).timed 0 (s.core 0).now

/-- Any word that is no reserved encoding issues on a core whose fetch word is at hand. -/
theorem test_fetches (w : Word) (h : Isa.reserved w = false) : Fetches (onCore core0) 0 w (ready (onCore core0)) := ⟨by decide, rfl, by decide, h⟩

/-- An enable register of 0 traps nothing. -/
theorem test_no_trap (c : Core) (h : c.fctl = 0x10000) (flags k : Nat) (hk : k ≤ 9) : ¬ Caused c flags k := by
  intro hc
  have := hc.1
  rw [h] at this
  revert this
  have : ∀ k, k ≤ 9 → (0x10000 : Word).getLsbD (k + 3) ≠ true := by decide
  exact this k hk

theorem test_no_traps (flags : Nat) (can : List Nat) (h : ∀ k ∈ can, k ≤ 9) : ¬ Traps (onCore core0) 0 flags can := by
  rintro ⟨_, k, hk, hc⟩
  exact test_no_trap _ rfl _ _ (h k hk) hc

/-- The words that some states below issue are no reserved encodings. -/
theorem test_integer_words : ∀ op ∈ [0x01, 0x02, 0x03, 0x04, 0x05, 0x06, 0x07, 0x08, 0x09, 0x0A, 0x0B, 0x0C, 0x0D],
    Isa.reserved (isaWord op 0) = false := by decide

/-- IntegerResults: each instruction issues, and integer instructions never trap. -/
theorem test_witness_integer : (∀ op ∈ [0x01, 0x02, 0x03, 0x04, 0x05, 0x06, 0x07, 0x08, 0x09, 0x0A, 0x0B],
    Fetches (onCore core0) 0 (isaWord op 0) (ready (onCore core0))) ∧ ¬ Traps (onCore core0) 0 0 [] :=
  ⟨fun op h => test_fetches _ (test_integer_words op (by revert op; decide)), test_no_traps _ _ (by decide)⟩

/-- DivisionAndDecimal: division by zero, and legal and illegal decimal operands, without a trap. -/
theorem test_witness_division : Fetches (onCore core0) 0 (isaWord 0x0C 0) (ready (onCore core0)) ∧ Fetches (onCore core0) 0 (isaWord 0x0D 0) (ready (onCore core0)) ∧
    ¬ Traps (onCore core0) 0 0x200 [6] ∧ ¬ Traps (onCore core0) 0 0x400 [8] ∧ bcdLegal 0xF000000000000789 ∧ ¬ bcdLegal 0xA5 := by
  refine ⟨test_fetches _ (by decide), test_fetches _ (by decide), test_no_traps _ _ (by decide), test_no_traps _ _ (by decide), ?_, ?_⟩
  · exact ⟨by decide, by decide⟩
  · intro h; exact absurd (h.1 1 (by decide)) (by decide)

/-- FloatResults and MovesAndConversions: each instruction issues without a trap. -/
theorem test_witness_float : (∀ op ∈ [0x30, 0x31, 0x32, 0x33, 0x34, 0x35, 0x36, 0x37, 0x38], Fetches (onCore core0) 0 (isaWord op 0) (ready (onCore core0))) ∧
    (∀ flags, ¬ Traps (onCore core0) 0 flags [1, 2, 3, 4, 5]) ∧ ((0 : Int) ≤ 4294967295) := by
  refine ⟨fun op h => test_fetches _ ?_, fun _ => test_no_traps _ _ (by decide), by decide⟩
  · have : ∀ op ∈ [0x30, 0x31, 0x32, 0x33, 0x34, 0x35, 0x36, 0x37, 0x38], Isa.reserved (isaWord op 0) = false := by decide
    exact this op h

/-- A core of a best-effort partition with every trap enabled and a signalling NaN in f[0], and one of a real-time partition. -/
def trapping : State := onCore { core0 with fctl := 0x1FF0, f := [(0, 0x7FA00000)] }
def realTime : State := rtPart (onCore core0)

/-- Traps: an enabled NV is raised by each floating-point instruction; BRK and a reserved word issue in both kinds of partition. -/
theorem test_witness_traps : (∀ op ∈ [0x30, 0x31, 0x32, 0x33, 0x34, 0x35], Isa.reserved (isaWord op 0) = false) ∧
    trapping.canIssue 0 = true ∧ trapping.fetch 0 = .ok (ready trapping) ∧
    (∀ r ∈ [fopResult (trapping.core 0) (isaWord 0x30 0), fmaResult false false (trapping.core 0) (isaWord 0x31 0),
      fcmpResult (trapping.core 0) (isaWord 0x35 0), fcvtResult (trapping.core 0) (isaWord 0x36 6)], 1 ∈ r.can ∧ r.flags.testBit 0 = true) ∧
    (trapping.core 0).fctl.getLsbD 4 = true ∧
    trapping.coreRt 0 = false ∧ realTime.coreRt 0 = true ∧ realTime.canIssue 0 = true ∧ realTime.fetch 0 = .ok (ready realTime) ∧
    Isa.reserved (isaWord 0x2F 0) = false ∧ Isa.reserved 0 = true := by
  refine ⟨by decide, by decide, rfl, by decide +kernel, by decide, by decide, by decide, by decide, rfl, by decide, by decide⟩

/-- An enabled exception raised in a best-effort partition is a trap. -/
theorem test_enabled_traps (s : State) (flags : Nat) (can : List Nat) (h : s.coreRt 0 = false) (he : (s.core 0).fctl.getLsbD 4 = true)
    (hr : 1 ∈ can ∧ flags.testBit 0 = true) : Traps s 0 flags can := ⟨h, 1, hr.1, he, .inl hr.2⟩

/-- f of an I-form word that reaches 0x40000100 through g[1], and one that is misaligned by 1. -/
def at1 : IsaFields := 0x08000
def at1odd : IsaFields := 0x08001

/-- An empty pod buffer is well formed. -/
theorem test_no_pod (n : Nat) : PodOk n [] := by
  refine ⟨⟨List.nodup_nil, ?_⟩, ⟨List.nodup_nil, ?_⟩, ?_⟩ <;> intro e he <;> cases he

/-- No injection is armed in these states. -/
theorem test_unarmed (u : State) (h : (u.rd R.ECC_INJCTL).getLsbD 31 = false) (m o : Nat) : ¬ armed u m o := by
  rintro ⟨h1, _⟩; rw [h] at h1; cases h1

/-- LoadsAndFailures and StoreResults: the address is reached, misaligned, or nowhere; with every size, and the last double word of the scratchpad too. -/
theorem test_witness_memory : let u := filled 0x40000100 8 (onCore core0)
    (∀ op ∈ [0x10, 0x11, 0x12, 0x13, 0x14, 0x15, 0x16, 0x17, 0x18, 0x19, 0x1A, 0x1B, 0x1C, 0x1D], Isa.reserved (isaWord op at1) = false ∧
      narrowAddr core0 (isaWord op at1) = 0x40000100) ∧
    (∀ size ∈ [1, 2, 4, 8], u.reach 0 0x40000100 size = some ⟨0, 0x100⟩ ∧ 0x40000100 % size = 0) ∧
    (eccDecode (wordAt u ⟨0, 0x100⟩ 0x40000100).syn).bad = false ∧ (wordAt u ⟨0, 0x100⟩ 0x40000100).syn = 0 ∧ PodOk 0 (u.core 0).pod ∧
    u.suppressed 0 0x40000100 = false ∧ narrowAddr core0 (isaWord 0x12 at1odd) % 2 ≠ 0 ∧
    narrowAddr core0 (isaWord 0x14 0) % 4 = 0 ∧ u.reach 0 0 4 = none ∧ ¬ armed u 0 0x100 := by
  refine ⟨by decide, by decide +kernel, by decide +kernel, by decide +kernel, ?_, by decide +kernel, by decide, by decide, by decide +kernel, test_unarmed _ (by decide +kernel) _ _⟩
  exact test_no_pod 0

/-- A core inside the body of its innermost loop, and one with two loops. -/
def looping : Core := { core0 with pc := 1, loops := [⟨1, 2, 5⟩] }
def nested : Core := { core0 with loops := [⟨1, 2, 5⟩, ⟨0, 6, 5⟩] }

/-- BranchesAndCalls, LoopsAndSequencerControl: the words issue; a branch stays in its loop or leaves it; one or two loops run. -/
theorem test_witness_control : (∀ op ∈ [0x20, 0x21, 0x22, 0x23, 0x24, 0x25, 0x26, 0x27, 0x28, 0x29, 0x2A, 0x2B, 0x2C, 0x2D, 0x2E],
      Isa.reserved (isaWord op 0) = false) ∧
    (onCore looping).canIssue 0 = true ∧ (onCore looping).fetch 0 = .ok (ready (onCore looping)) ∧
    looping.leavesLoop (indexPlus looping 0) = false ∧ looping.leavesLoop (indexPlus looping 2) = true ∧ looping.loops.length < 2 ∧
    2 ≤ nested.loops.length ∧ (onCore nested).canIssue 0 = true ∧ (onCore nested).fetch 0 = .ok (ready (onCore nested)) :=
  ⟨by decide, by decide, rfl, by decide, by decide, by decide, by decide, by decide, rfl⟩

/-- CsrsAndSnapshots, ReturnsAndEnds: snapshots with and without new bits; a core that is done with its command, one that is not. -/
theorem test_witness_ends : let done := { core0 with ended := true }
    { core0 with snaps := [(20, 1, 0)] }.snaps = (20, 1, 0) :: [] ∧ Nat.land 1 (2 ^ 14 - 1 - core0.frep.toNat % 2 ^ 14) ≠ 0 ∧
    { core0 with snaps := [(20, 0, 0)] }.snaps = (20, 0, 0) :: [] ∧ Nat.land 0 (63 - core0.frep.toNat / 2 ^ 16 % 64) = 0 ∧
    base.running = true ∧ base.host.d3hot = false ∧ 127 < base.nCores ∧
    ((onCore done).core 0).run = true ∧ ((onCore done).core 0).ended = true ∧ ((onCore done).core 0).snaps = [] ∧ (onCore done).syncOps = [] ∧
    ((onCore core0).core 0).ended = false := by decide +kernel

/-- Words that a state can correct. -/
def soundB (s : State) (wa : Nat) : Bool :=
  match s.place wa with
  | some p => !(eccDecode (s.stored p wa).syn).bad
  | none => true

theorem test_sound_word (s : State) (wa : Nat) (h : soundB s wa = true) : sound s wa := by
  intro p hp
  unfold soundB at h
  rw [hp] at h
  simpa using h

theorem test_sound (s : State) (a : Nat) (h : ((List.range 8).all fun i => soundB s (a + 8 * i)) = true) : ∀ i, i < 8 → sound s (a + 8 * i) := by
  intro i hi
  exact test_sound_word _ _ (List.all_eq_true.mp h i (List.mem_range.mpr hi))

theorem test_sound_range (s : State) (a len : Nat) (h : ((wordsOf a len).all fun w => soundB s w) = true) : soundRange s a len := by
  intro w hw
  exact test_sound_word _ _ (List.all_eq_true.mp h w hw)

/-- SyncAndStarts, ObjectArrival, WaitsAndRowAccess: an object of the own partition, and of none; a channel that is idle, and one that is not; operations that
arrive together, with a RESET and without one; a stalled WAIT that is met; row accesses that reach the scratchpad, and that do not. -/
theorem test_witness_sync : let u := filled 0x40000100 64 (rtPart (onCore core0))
    let sig : SyncOp := ⟨5, 10, .signal 3⟩
    ownObject u 0 5 ∧ ¬ ownObject (onCore core0) 0 5 ∧ ¬ ownObject u 0 1024 ∧
    (∀ op ∈ [0x58, 0x5A, 0x5B, 0x5C, 0x40, 0x41, 0x42, 0x43, 0x44, 0x45], Isa.reserved (isaWord op 0) = false) ∧ Isa.reserved (isaWord 0x59 0x20000) = false ∧
    (u.dmaOf 0).st = .idle ∧ (FMap.get DmaChan.reset [(0, { DmaChan.reset with st := .run })] 0).st ≠ .idle ∧
    (∃ o ∈ [sig, ⟨5, 10, .reset⟩], o.obj = 5 ∧ o.raw = 10) ∧ (∀ o ∈ [sig, ⟨5, 10, .reset⟩], o.obj = 5 → (10 : Dword).toNat ≤ o.raw.toNat) ∧
    (∀ o ∈ [sig, ⟨5, 10, .reset⟩], ∀ c g, o.kind ≠ .waitSeq c g) ∧
    { core0 with waitOn := some ⟨5, 1, 0⟩, waitMet := true }.waitMet = true ∧
    wideAddr core0 (isaWord 0x40 at1) = 0x40000100 ∧ (u.reach 0 0x40000100 64 = some ⟨0, 0x100⟩ ∧ 0x40000100 % 64 = 0) ∧
    u.reach 0 0 64 = none ∧ (∀ i, i < 8 → sound u (0x40000100 + 8 * i)) := by
  refine ⟨by unfold ownObject; decide +kernel, by unfold ownObject; decide +kernel, by unfold ownObject; decide +kernel, by decide, by decide, by decide +kernel, by decide, by decide, by decide, ?_, by decide, by decide,
    by decide +kernel, by decide +kernel, ?_⟩
  · intro o ho; simp at ho; rcases ho with rfl | rfl <;> intro c g h <;> cases h
  · exact test_sound _ _ (by decide +kernel)

/-- RowResults, QuantiseResults, RandomResults: a lanewise selector, and that of VQ8. -/
theorem test_witness_rows : Isa.sel (isaWord 0x42 11) ≤ 11 ∧ Isa.reserved (isaWord 0x42 11) = false ∧
    Isa.sel (isaWord 0x42 0x0C) = 12 ∧ Isa.reserved (isaWord 0x42 0x0C) = false ∧ Isa.reserved (isaWord 0x45 0) = false := by decide

end Sys2Proof.Tests

/-! ## Hypotheses met: arrays, reset, boot, security, power, time -/

namespace Sys2Proof.Tests

/-- A descriptor at 0x40000100 for an INT8 command of one row step, its operand rows at 0x40000200 and 0x40000300. -/
def amm : State := { onCore core0 with
  mem := [0, 0, 0, 0, 0, 0, 0, 0, 0, 2, 0, 0x40, 0, 3, 0, 0x40].zipIdx.map (fun x => (0x40000100 + x.2, x.1)) ++ (List.range 16).map (fun i => (0x40000110 + i, 0)) ++
    (List.range 16).map (fun i => (0x40000200 + i, 0)) ++ (List.range 16).map fun i => (0x40000300 + i, 0) }

/-- The same state in the cycle after the issue of its first instruction. -/
def ammNext : State := ((ready amm).coreTo 0 2).timed 0 1

theorem test_own_row (s : State) (n a len : Nat) (h : s.ownRow n a len = true) : ownRowAt s n a len := by
  unfold State.ownRow at h
  split at h
  · rename_i p hp
    exact ⟨p, hp, by simpa using h⟩
  · cases h

/-- MultiplySteps: an AMM on array 0 whose operands are ready; the descriptors that fail; an array of the machine; an integer step. -/
theorem test_witness_multiply : Fetches amm 0 (isaWord 0x50 0x21000) (ready amm) ∧ AmmReady ammNext 0 (((ammNext.core 0).gr (Isa.rsA (isaWord 0x50 0x21000))).toNat) (Isa.amask (isaWord 0x50 0x21000)) ∧
    3 % 32 ≠ 0 ∧ ¬ ownRowAt ammNext 0 0 32 ∧ (ArrDesc.ofDwords [0xC0000000, 0, 0, 0]).bad = true ∧ 127 < amm.nCores ∧ amFmt 0 ≠ 2 := by
  refine ⟨⟨by decide +kernel, rfl, by decide +kernel, by decide⟩, ⟨⟨by decide +kernel, test_own_row _ _ _ _ (by decide +kernel)⟩, ?_, by decide +kernel, ?_⟩, by decide, ?_, by decide +kernel, by decide +kernel, by decide⟩
  · intro i hi
    exact test_sound_word _ _ ((by decide +kernel : ∀ i, i < 4 → soundB ammNext (0x40000100 + 8 * i) = true) i hi)
  · have h : ∀ i, i < 8 → (Isa.amask (isaWord 0x50 0x21000)).testBit i = true → ∀ k, k < (descAt ammNext 0x40000100).rows → ∀ x ∈ (descAt ammNext 0x40000100).rowsAt i k,
        ammNext.ownRow 0 x.1 x.2 = true ∧ (wordsOf x.1 x.2).all (fun w => soundB ammNext w) = true := by decide +kernel
    intro i k hi hm hk x hx
    obtain ⟨h1, h2⟩ := h i hi hm k hk x hx
    exact ⟨test_own_row _ _ _ _ h1, test_sound_range ammNext x.1 x.2 h2⟩
  · rintro ⟨p, hp, _⟩
    have : ammNext.reach 0 0 32 = none := by decide +kernel
    rw [this] at hp; cases hp

/-- DrainResults: array 7 alone is named, and its rows end with the scratchpad's first 16 KiB. -/
theorem test_witness_drain : Isa.reserved (isaWord 0x51 0x1001000) = false ∧ (Isa.amask (isaWord 0x51 0x1001000)).testBit 7 = true ∧
    ((onCore core0).core 0).gr (Isa.rsA (isaWord 0x51 0x1001000)) = 0x40000100 ∧ 0x40000100 % 128 = 0 ∧
    (∀ r, r < 8 → (onCore core0).ownRow 0 (0x40000100 + 1024 * 7 + 128 * r) 128 = true) ∧ ∀ o, ¬ armed (onCore core0) 0 o := by
  exact ⟨by decide, by decide, by decide +kernel, by decide, by decide +kernel, fun o => test_unarmed _ (by decide +kernel) _ _⟩

theorem test_inv_base : base.Inv := ⟨by decide, by decide, by decide, by decide, fun n => test_no_pod n⟩

/-- The machine with its boot part replaced. -/
def booting (f : Boot → Boot) : State := { base with boot := f base.boot }

theorem test_inv_booting (f : Boot → Boot) : (booting f).Inv := ⟨rfl, rfl, rfl, Nat.zero_le _, fun n => test_no_pod n⟩

/-- ResetSourcesAndTemperature, ResetRelease: the pulses at their limits, the chip reset's pair, a TAP instruction, readings below and at the trip, and resets
that hold the device. -/
theorem test_witness_reset : base.Inv ∧ (∀ f, (booting f).Inv) ∧ 10000 ≤ 10000 ∧ 999 < 1000 ∧
    (let s := booting fun b => { b with rst1 := some 0 }
     s.hostOn = true ∧ s.boot.rst1 = some 0 ∧ (s.tb.raw - 0).toNat ≤ 1000000) ∧
    (base.hostOn = true ∧ base.boot.rst1 = none) ∧ base.boot.held = [] ∧ 2000 < 2001 ∧ (TapInstr.extest ≠ .bypass ∧ TapInstr.extest ≠ .idcode) ∧
    (∀ x ∈ [(499 : BitVec 16)], x.toInt < 500) ∧ (∃ x ∈ [(500 : BitVec 16)], 500 ≤ x.toInt) ∧ base.field R.GLB_TWARN 0 16 = 440 ∧
    (let s := booting fun b => { b with held := [.chiprst, .brownout] }
     s.boot.held ≠ [] ∧ s.boot.tripped = false ∧ s.boot.tapHold = false) := by
  refine ⟨test_inv_base, test_inv_booting, by decide, by decide, by decide +kernel, by decide +kernel, by decide, by decide, by decide, ?_, ?_, by decide +kernel, by decide +kernel⟩
  · intro x hx; simp at hx; subst hx; decide
  · exact ⟨500, by simp, by decide⟩

/-- BootAndTraining: each state with the hypotheses of its clause. -/
theorem test_witness_boot : (booting fun b => { b with state := .fuse }).boot.state = .fuse ∧ base.boot.held = [] ∧
    (let s := booting fun b => { b with state := .load }
     s.boot.state = .load ∧ s.boot.bootSrc = false ∧ s.boot.hostImg = false) ∧
    (let s := booting fun b => { b with state := .halt }
     s.hostOn = true ∧ s.boot.hostImg = false ∧ s.boot.state = .halt) ∧
    (let s := booting fun b => { b with state := .load, hostImg := true }
     s.boot.state = .load ∧ s.boot.hostImg = true) ∧
    (booting fun b => { b with state := .verify }).boot.state = .verify ∧ (booting fun b => { b with state := .config }).boot.state = .config ∧
    (let s := State.put (booting fun b => { b with state := .train }) [(R.MEM_INIT, 0x01000004)]
     s.boot.state = .train ∧ s.trainFails ⟨4, false, []⟩ = [] ∧ s.trainFails ⟨4, false, [(3, 6)]⟩ ≠ []) := by decide +kernel

/-- SecurityOperations: the controller free and at work; a target above the counter; an operation that ends, and one past its time. -/
theorem test_witness_security : base.hostOn = true ∧ base.secBusy = false ∧ base.loadPending 7 = false ∧ base.escalated 7 0 0 = false ∧
    (let s := booting fun b => { b with secOp := some (.arb 3), fwSvn := 5 }
     s.secBusy = true ∧ s.boot.secOp = some (.arb 3) ∧ (s.tb.raw - s.boot.secRaw).toNat ≤ 500000000) ∧
    (let s := { booting fun b => { b with secOp := some (.verify 7) } with tb := { Timebase.reset with raw := 500000001 } }
     s.boot.secOp = some (.verify 7) ∧ 500000000 < (s.tb.raw - s.boot.secRaw).toNat) ∧
    (booting fun b => { b with secOp := some (.report none []) }).boot.secOp = some (.report none []) ∧
    (¬ min (min 5 (booting fun b => { b with fwSvn := 5 }).boot.fwSvn) 64 ≤ base.boot.svn) := by decide +kernel

/-- TestAndPower: free banks and a bank that is off; a BIST under way; memory in and out of service; a link checker; requests and transitions. -/
theorem test_witness_test : base.hostWrites = true ∧ base.boot.bist = none ∧ base.hasMem 143 = true ∧ base.bankBusy 0 0 = false ∧
    covered (base.guards 0) 0 (bankSize 0) = false ∧
    (let s := State.put base [(R.MEM_STAT, 0x80000000)]
     s.memOn = true ∧ s.anyTable = false ∧ s.logOn = false ∧ s.dma = []) ∧
    (let s := State.put base [(R.MEM_STAT, 0xC0000000), (R.GLB_MEM, 0), (R.MEM_INIT, 0x01000004)]
     s.quiet = false ∧ (s.rd R.MEM_STAT).getLsbD 31 = true ∧ (s.rd R.MEM_STAT).getLsbD 30 = true ∧ s.field R.GLB_MEM 0 8 = 0 ∧
     s.trainFails ⟨4, false, []⟩ = []) ∧
    ((State.put base [(R.TST_LCHK 5, 0x80000000)]).rd (R.TST_LCHK 5)).getLsbD 31 = true ∧
    base.pwrCode .run = 0 ∧ (booting fun b => { b with power := .fenced }).pwrCode .run = 0 ∧
    (booting fun b => { b with toPower := some .fenced }).pwrCode .run ≠ 0 ∧
    (let s := { booting fun b => { b with toPower := some .fenced } with tb := { Timebase.reset with raw := 20000 } }
     s.boot.toPower = some .fenced ∧ s.pwrTime .fenced ≤ (s.tb.raw - s.boot.powerRaw).toNat) ∧
    (let s := booting fun b => { b with toPower := some .fenced }
     s.boot.toPower = some .fenced ∧ (s.tb.raw - s.boot.powerRaw).toNat < s.pwrTime .fenced) := by
  decide +kernel

/-- The machine with its timebase part replaced. -/
def timed (f : Timebase → Timebase) : State := { base with tb := f Timebase.reset }

/-- An event entry: enabled, PHASE or TIME, every wrap. -/
def phaseEvt : State := State.put (timed fun b => { b with acc := 5, prev := -1, inWrap := true }) [(R.twin (R.TB_EVT 63 0), 0x80000000)]
def timeEvt : State := State.put base [(R.twin (R.TB_EVT 63 0), 0xA0000000)]

/-- TimebaseCommitsAndClocks: a group pending and not; codes 0 and others; a list that is due; wraps; coasting. -/
theorem test_witness_timebase : base.hostWrites = true ∧ (base.rd R.TB_CSTAT).getLsbD 24 = false ∧
    ((State.put base [(R.TB_CSTAT, 0x07000000)]).rd R.TB_CSTAT).getLsbD 25 = true ∧
    (let s := State.put base [(R.TB_EVT 63 0, 0x83000000)]
     (s.evtShadow 63).en = true) ∧
    (let s := State.put (timed fun b => { b with inWrap := true }) [(R.TB_CSTAT, 0x04000000)]
     s.running = true ∧ (s.rd R.TB_CSTAT).getLsbD 26 = true ∧ s.tb.inWrap = true ∧ s.tb.evtNow = false) ∧
    (timed fun b => { b with wrapDue := true }).tb.wrapDue = true ∧
    (let s := timed fun b => { b with coast := [(7, ⟨0, 0, 0, 0, false⟩)], coastEnd := 128 }
     FMap.find s.tb.coast 7 = some ⟨0, 0, 0, 0, false⟩ ∧ s.tb.coastEnd.testBit 7 = true ∧ s.clearBetween 7 0 s.tb.acc = true) := by decide +kernel

/-- PhaseLoopAndTriggers: edges of an inactive and the active source, a miss, entries that are due, and a pulse that is over. -/
theorem test_witness_phase : let s := timed fun b => { b with pins := [(3, { Pin.reset with cand := true })] }
    (s.running = true ∧ (s.pin 3).cand = true ∧ s.tb.src ≠ 3) ∧
    (let s := State.put (timed fun b => { b with pins := [(3, { Pin.reset with cand := true })], src := 3, state := .locked }) [(R.twin (R.TB_PIN_CFG 3), 0x80000000)]
     (s.pin 3).cand = true ∧ s.tb.src = 3 ∧ (s.act (R.TB_PIN_CFG 3)).getLsbD 31 = true ∧ s.tb.state = .locked) ∧
    (let s := timed fun b => { b with missDue := true, src := 0 }
     s.tb.missDue = true ∧ s.tb.src < 4) ∧
    (timed fun b => { b with pulses := [(0, 0)] }).tb.pulses = [(0, 0)] := by decide +kernel

end Sys2Proof.Tests

/-! ## Hypotheses met: triggers, frames, schedule -/

namespace Sys2Proof.Tests

/-- A frame whose anchors fell at raw time 0. -/
def frame0 : Frame := ⟨0, some 0, none, true, 0, false, true, [0], [0], [], 0, true⟩

/-- The machine with the schedule unit's part replaced. -/
def sched (f : Sched → Sched) (s : State) : State := { s with sch := f s.sch }

/-- A real-time partition 0 of cluster 0 with one slot in its active table, and frames of its groups. -/
def slotted (w0 w1 w2 w3 : Word) (fs : FMap Frame) : State :=
  sched (fun c => { c with frames := fs, tabled := [0] }) (State.put base [(R.twin (R.SCH_PCFG 0), 0xC0010001), (R.SCH_AIMG 0 0, w0), (R.SCH_AIMG 0 1, w1), (R.SCH_AIMG 0 2, w2),
    (R.SCH_AIMG 0 3, w3), (R.SPD_AHND 0 0, 0x80000000), (R.SPD_AHND 0 2, 4096)])

/-- A command of slot 0 on an engine for context 9. -/
def cmd9 (e : Engine) (kind group : Nat) : RunCmd := ⟨e, 0, 0, 0, kind, group, 0, false, some 9, 0, 0, 0, false⟩

/-- PhaseLoopAndTriggers, FrameBegins: a PHASE entry at its first trigger, a TIME entry at its start; a frame whose anchor has come, and a command that holds it. -/
theorem test_witness_triggers :
    (let s := phaseEvt
     s.running = true ∧ s.evtDue = false ∧ (s.evt 63).en = true ∧ (s.evt 63).kind = 0 ∧ (s.clockOf (s.evt 63)).2.2.toNat % ((s.evt 63).pdiv + 1) = (s.evt 63).psel ∧
     0 ≤ (s.evt 63).subdiv ∧ passed (s.clockOf (s.evt 63)).1 (s.clockOf (s.evt 63)).2.1 (BitVec.ofNat 48 (((s.evt 63).trigger 0).toNat * 2 ^ 16)) = true ∧
     (63 * 256 + 0) ∉ s.tb.fired) ∧
    (let s := timeEvt
     s.evtDue = false ∧ (s.evt 63).en = true ∧ (s.evt 63).kind = 1 ∧ FMap.get 0 s.tb.evtNext 63 ≠ 2 ^ 64 ∧ (s.evt 63).start + 0 * (s.evt 63).interval ≤ s.time.toNat) ∧
    (let s := slotted 0 0 0 0 [(2, { frame0 with effRaw := none })]
     s.partOn 0 = true ∧ FMap.find s.sch.frames (4 * 0 + 2) = some { frame0 with effRaw := none } ∧
     ∀ r ∈ s.sch.running, r.part = 0 → r.group = 2 → r.atomic = true → r.paused = true) ∧
    (let s := sched (fun c => { c with running := [{ cmd9 (.seq 0) 0 2 with atomic := true }] }) base
     ∃ r ∈ s.sch.running, r.part = 0 ∧ r.group = 2 ∧ r.atomic = true ∧ r.paused = false) := by
  refine ⟨by decide +kernel, by decide +kernel, ⟨by decide +kernel, by decide +kernel, fun r hr => by cases hr⟩, ⟨_, List.mem_singleton_self _, ?_⟩⟩
  decide

/-- Slots and positions: a slot in its first cycle, one at its end, a sequencer position and a chain position with a context, and an engine without one. -/
theorem test_witness_slots :
    (let s := slotted 0xC0000000 0 0x1000 0 [(0, { frame0 with started := [] })]
     s.lcSlot 0 0 = true ∧ s.slotBegun 0 0 = false ∧ s.atSlotStart 0 0 (s.slot 0 0) = true) ∧
    (let s := slotted 0x80000000 10 0xA000 0 [(0, { frame0 with trueRaw := -50, effRaw := some (-50) })]
     s.lcSlot 0 0 = true ∧ s.slotBegun 0 0 = true ∧ 0 ∉ (s.frame 0 (s.slot 0 0).group).ended ∧ s.atSlotEnd 0 0 (s.slot 0 0) = true ∧
     ∀ r ∈ s.sch.running, r.part = 0 → r.slot = 0 → r.paused = true) ∧
    (let s := sched (fun c => { c with work := [(0, [(9, 1)])] }) (slotted 0x80000000 10 0xA000 0 [(0, frame0)])
     (s.slot 0 0).kind = 0 ∧ (s.slot 0 0).batch = false ∧ s.posDue 0 0 0 (s.slot 0 0) (.seq 0) = true ∧ s.cmdOn (.seq 0) = none ∧
     s.atPos 0 0 (s.slot 0 0) (.seq 0) 0 = some (9, 1) ∧ s.classHeld (s.slot 0 0).jclass (.seq 0) = false ∧ s.isTorn 9 = false ∧
     s.codeOf 0 (s.slot 0 0).jclass 0 = some (0x40000000, 4096)) ∧
    (base.cmdOn (.seq 7) = none ∧ base.atPos 0 0 (base.slot 0 0) (.seq 7) 0 = none) ∧
    (let s := sched (fun c => { c with work := [(0, [(9, 0)])] }) (slotted 0xA0000000 10 0xA000 0 [(0, frame0)])
     (s.slot 0 0).kind = 2 ∧ (s.slot 0 0).batch = false ∧ s.slotEngines 0 (s.slot 0 0) = [.dma 0] ∧ s.posDue 0 0 0 (s.slot 0 0) (.dma 0) = true ∧
     s.atPos 0 0 (s.slot 0 0) (.dma 0) 0 = some (9, 0) ∧ s.isTorn 9 = false ∧ (s.dmaOf 0).st = .idle) := by decide +kernel

/-- TileBegins: slot 0 is a group B class with an active context of its class on core 0, and its tile fits the gap. -/
theorem test_witness_tile : let s := State.put (slotted 0x8C000000 0 0 0 []) [(R.SCH_RB 9 6, 0x80000000), (R.SCH_RB 9 10, 0xE0000000), (R.twin (R.SCH_FLEN_F 0), 1000)]
    let r := cmd9 (.seq 0) 0 3
    s.running = true ∧ s.partOn 0 = true ∧ s.cmdOn (.seq 0) = none ∧ r.eng = .seq 0 ∧ r.ctx = some 9 ∧
    (s.groupBOrder 0 (.seq 0)).find? (fun k => (s.groupBReady 0 k (.seq 0)).isSome) = some 0 ∧ s.groupBReady 0 0 (.seq 0) = some r ∧ s.gap 0 (.seq 0) = some 1000 ∧
    s.codeOf 0 (s.slot 0 0).jclass 0 = some (0x40000000, 4096) := by decide +kernel

/-- A manifest with one slot, one image and weights under handle 0. -/
def man0 : Manifest := ⟨false, 16, [], [], [], [⟨10, 0⟩], [], [(0, 64)], 0, [], 0⟩

/-- Teardowns, Reedbed writes, loads: a request for a context; a command that is late, and one that is not; entries inactive, active, escalated; a load, its checks,
and a removal. -/
theorem test_witness_teardown : base.hostWrites = true ∧ (0x80000FFF : Word).getLsbD 31 = true ∧ base.isTorn (fld 0x80000FFF 0 12) = false ∧
    (let s := sched (fun c => { c with running := [cmd9 (.seq 0) 0 0] }) base
     s.cmdOn (.seq 0) = some (cmd9 (.seq 0) 0 0) ∧ (cmd9 (.seq 0) 0 0).kind ≤ 1 ∧ (cmd9 (.seq 0) 0 0).ctx = some 9 ∧ s.isTorn 9 = false ∧
     2 * s.compiledLen (cmd9 (.seq 0) 0 0) ≤ (cmd9 (.seq 0) 0 0).held + cyclesBetween (cmd9 (.seq 0) 0 0).start s.tb.raw) ∧
    (let s := sched (fun c => { c with running := [cmd9 (.seq 0) 0 0], actMan := [(0, man0)] }) base
     (cmd9 (.seq 0) 0 0).held + cyclesBetween (cmd9 (.seq 0) 0 0).start s.tb.raw < 2 * s.compiledLen (cmd9 (.seq 0) 0 0)) ∧
    (base.rd (R.SCH_RB 4095 6)).getLsbD 31 = false ∧ base.escalated 2 4095 0 = false ∧
    ((State.put base [(R.SCH_RB 4095 6, 0x80000000)]).rd (R.SCH_RB 4095 6)).getLsbD 31 = true ∧
    (let s := { base with esc := [(escKey 2 4095 0, ⟨3, true⟩)] }
     (s.rd (R.SCH_RB 4095 6)).getLsbD 31 = false ∧ s.escalated 2 4095 0 = true) ∧
    ((0x80 : BitVec 8).getLsbD 7 = true ∧ (∀ q, q < 7 → (0x80 : BitVec 8).getLsbD q = false) ∧ base.sch.checking = none ∧ base.fuses.artsig = false) ∧
    (sched (fun c => { c with checking := some ⟨7, man0⟩ }) base).sch.checking = some ⟨7, man0⟩ := by decide +kernel

/-- A load of partition 0 that waits, real-time or not, its anchors in this cycle. -/
def waiting (cfg : Word) : State := sched (fun c => { c with frames := [(0, frame0)], pendMan := [(0, man0)] }) (State.put base [(R.SCH_LSTAT, 1), (R.SCH_PCFG 0, cfg)])

theorem test_inv_waiting : ∀ cfg ∈ [(0xC0000001 : Word), 0x80000001], (waiting cfg).Inv := by
  intro cfg h
  simp at h
  rcases h with rfl | rfl <;> exact ⟨rfl, rfl, by decide +kernel, Nat.zero_le _, fun n => test_no_pod n⟩

/-- TablesTakeEffect: a real-time and a best-effort load, and a removal. -/
theorem test_witness_tables : ((waiting 0xC0000001).loadPending 0 = true ∧ ((waiting 0xC0000001).rd (R.SCH_PCFG 0)).getLsbD 30 = true ∧ (waiting 0xC0000001).hpNow 0 true = true) ∧
    ((waiting 0x80000001).loadPending 0 = true ∧ ((waiting 0x80000001).rd (R.SCH_PCFG 0)).getLsbD 30 = false ∧ (waiting 0x80000001).holdsTable 0 = false) ∧
    base.loadPending 7 = false ∧
    (let s := sched (fun c => { c with unload := [0], frames := [(0, frame0)] }) (State.put base [(R.twin (R.SCH_PCFG 0), 0xC0000001)])
     0 ∈ s.sch.unload ∧ s.hpNow 0 (s.isRt 0) = true ∧ s.isRt 0 = true) := by decide +kernel

/-- SpillsAndSwaps: a spill of a handle, and each step of a swap. -/
theorem test_witness_swap :
    (let s := sched (fun c => { c with spills := [(0, 0, 0, 4)] }) (slotted 0 0 0 0 [])
     s.spillNext (memCluster 0) = some (0, 0, 0, 4) ∧ ((s.actHandles 0).find? fun x => x.num == 0).isSome = true) ∧
    (base.hotCode 7 3 ≠ 0 ∧
     let s := sched (fun c => { c with actMan := [(0, man0)] }) (State.put base [(R.twin (R.SCH_PCFG 0), 0xC0000001), (R.twin (R.SCH_MODE 0), 1)])
     s.hotCode 0 0 = 0) ∧
    (let s := sched (fun c => { c with hot := some ⟨0, 1, false, [], [], []⟩ }) (waiting 0xC0000001)
     s.hpNow 0 (s.isRt 0) = true) ∧
    (let s := sched (fun c => { c with hot := some ⟨0, 0, true, [0], [], []⟩, actMan := [(0, man0)] }) (slotted 0 0 0 0 [])
     FMap.get 0 ([] : FMap Nat) 0 = 0 ∧ (s.hotMove ⟨0, 0, true, [0], [], []⟩).isSome = true) ∧
    (let s := sched (fun c => { c with hot := some ⟨0, 3, true, [], [], []⟩ }) (waiting 0xC0000001)
     s.sch.hot = some ⟨0, 3, true, [], [], []⟩ ∧ s.hpNow 0 (s.isRt 0) = true) := by decide +kernel

/-- CommandRings: the timer of a device without real-time partitions; nothing to write back; entries of each kind, the objects of a partition, and one of no kind. -/
theorem test_witness_rings :
    (let s := sched (fun c => { c with firstRaw := some 0 }) (timed fun b => { b with raw := 1000000 })
     s.running = true ∧ s.allBestEffort = true ∧ s.sch.firstRaw = some 0 ∧ 200000 ≤ cyclesBetween s.host.pollRaw s.tb.raw) ∧
    cyclesBetween base.host.pollRaw base.tb.raw < 200000 ∧
    (base.host.ringCons = [] ∧ base.host.ringVecs = [] ∧ ∀ r, r < 4 → ((filled (base.ringRow 0) 128 base).ringDirNow base.host.pollCl r).en = false) ∧
    (∀ op ∈ [0, 2, 3, 5, 7, 255], let d0 : Dword := BitVec.ofNat 64 (op * 2 ^ 24)
      fld (lo32 d0) 16 6 = 0 ∧ fld (hi32 d0) 24 7 = 0 ∧ fld (hi32 d0) 0 16 = 0 ∧ fld (lo32 d0) 24 8 = op) ∧
    (rtPart base).ownedObj (fld (0xFF0005 : Word) 0 14) = true ∧ fld (0xFF0005 : Word) 16 8 ≠ 0 := by
  refine ⟨by decide +kernel, by decide +kernel, ⟨rfl, rfl, ?_⟩, by decide +kernel, by decide +kernel⟩
  decide +kernel

/-- OutputCommits: a commit of a template launched at once, its payload in the context area. -/
theorem test_witness_commit : let s := filled 0x40000000 64 (sched (fun c => { c with running := [cmd9 (.carr 0) 3 0] })
      (State.put (slotted 0xB0000000 10 0xA000 0 [(0, frame0)]) [(R.twin (R.CARR_TMPL 0 0), 0x80400040), (R.MIR_STAT, 0)]))
    (s.running = true ∧ s.cmdOn (.carr 0) = some (cmd9 (.carr 0) 3 0) ∧ s.commitDue (cmd9 (.carr 0) 3 0) = true ∧ s.isTorn 9 = false ∧
      s.heldOf ordCommit (s.claimsOf false (s.commitRow (cmd9 (.carr 0) 3 0) 9) 1) = [] ∧
      (s.tmpl 0).lmode = 2 ∧ fld (s.act (R.MIR_POL 0)) 30 2 = 0 ∧ s.backed (s.ctxArea 9 + (s.tmpl 0).soff) (s.tmpl 0).plen = true ∧
      s.openRange (s.ctxArea 9 + (s.tmpl 0).soff) (s.tmpl 0).plen = true ∧ s.drives = false) ∧
    ∀ w ∈ wordsOf (s.ctxArea 9 + (s.tmpl 0).soff) (s.tmpl 0).plen, sound s w := by
  refine ⟨by decide +kernel, fun w hw => test_sound_word _ _ ?_⟩
  revert w
  decide +kernel

end Sys2Proof.Tests
/-! ## Hypotheses met: Fennel engines, calibration, integrity -/

namespace Sys2Proof.Tests

/-- Words from a written: their first bytes are listed. -/
def spelled (a n : Nat) (s : State) : State := { s with mem := (List.range n).map fun i => (a + 8 * i, 0) }

/-- An engine that runs a command for context 9 on array 0 of core 0. -/
def fen1 : Fennel := { Fennel.reset with run := true, ctx := some 9, amask := 1, data := 0x40000000, nit := 1 }

/-- Engine 0 as given. -/
def onFen (e : Fennel) : State := { base with fen := [(0, e)] }

/-- An op of the I-stream with a word 0. -/
def iOp (opc low : Nat) : FenOp := ⟨false, BitVec.ofNat 32 (opc * 2 ^ 14 + low), 0, 0, 0⟩

/-- Another row of bank 0 of memory 0 has been read in this cycle, by the requester that goes before all others. -/
def onBus (s : State) : State := s.grantBus 0 [⟨0, 0, none, 1⟩]

theorem test_sound_list (s : State) (ws : List Nat) (h : (ws.all fun w => soundB s w) = true) : ∀ w ∈ ws, sound s w := by
  intro w hw
  exact test_sound_word _ _ (List.all_eq_true.mp h w hw)

theorem test_fen_unarmed (e : Fennel) (mem : List Host.Cell) (m o : Nat) : ¬ armed { onFen e with mem := mem } m o :=
  test_unarmed _ (show (base.rd R.ECC_INJCTL).getLsbD 31 = false by decide +kernel) _ _

/-- FennelVectors, FennelBlocks, FennelProducts: ops that are active, their operands whole, with words of theirs that can be corrected, and an engine at rest. -/
theorem test_witness_fen_ops : let s := spelled 0x40000000 128 (onFen fen1)
    ((∀ op ∈ [1, 2, 3, 4, 5, 6, 7, 8, 9], s.fenActive 0 (iOp op 0) op = true) ∧ (∀ fn, fn ≤ 11 → fld (iOp 3 (fn * 2 ^ 8)).w0 8 6 = fn) ∧
      11 < fld (iOp 3 (12 * 2 ^ 8)).w0 8 6 ∧ (s.fenOf 0).ref 0 false 0 = 0x40000000 ∧ s.openRange 0x40000000 1024 = true ∧
      s.heldOf (ordFen 0) (s.claimAt true 0x40000000) = [] ∧ s.heldOf (ordFen 0) (s.claimAt false 0x40000000) = [] ∧
      (onBus s).heldOf (ordFen 0) (s.claimAt false 0x40000000) ≠ [] ∧
      (s.fenOf 0).amask.testBit 0 = true ∧ fld (iOp 1 0).w3 30 2 ≠ 3 ∧ (base.fenOf 15).run = false) ∧
    soundRange s 0x40000000 1024 ∧ soundRange s 0x40000000 64 ∧ writable s 0x40000000 64 ∧ writable s 0x40000000 1024 := by
  refine ⟨by decide +kernel, test_sound_list _ _ (by decide +kernel), test_sound_list _ _ (by decide +kernel),
    ⟨by decide, by decide +kernel, test_fen_unarmed _ _⟩, ⟨by decide, by decide +kernel, test_fen_unarmed _ _⟩⟩

/-- FennelIterations: each op of the stream's control, a factor accepted and one rejected, and the published iterate's place. -/
theorem test_witness_fen_stream :
    (let s := onFen fen1
     (s.fenOf 0).run = true ∧ fenOpc (iOp 0x0D 0) = 0x0D ∧ (iOp 0x0D 0).fstream = false ∧ (s.fenOf 0).body = false ∧ s.fenActive 0 (iOp 0x0A 0) 0x0A = true ∧
     (s.fenOf 0).nit ≠ 0 ∧ s.fenActive 0 (iOp 0x0B 0) 0x0B = true ∧ fld ((s.fenOf 0).dw 12) 0 8 = 0) ∧
    (let s := onFen { fen1 with rBest := true, desc := [(0, 0x10000)] }
     let op := iOp 0x0C 0x400
     (s.fenActive 0 op 0x0C = true ∧ op.w0.getLsbD 10 = true ∧ (s.fenOf 0).nit ≠ 0 ∧ (s.fenOf 0).rBest = true ∧ (s.fenOf 0).rConv = false ∧
       (s.fenOf 0).nvr ≠ 0 ∧ s.heldOf (ordFen 0) (s.claimAt true ((s.fenOf 0).areaAddr (s.fenOf 0).nextArea)) = []) ∧
     writable s ((s.fenOf 0).areaAddr (s.fenOf 0).nextArea) (64 * (s.fenOf 0).nvr)) ∧
    (let s := onFen { fen1 with body := true, fvalid := true }
     fenOpc (iOp 0x0E 0) = 0x0E ∧ (s.fenOf 0).body = true ∧ (s.fenOf 0).ip = false ∧ fld ((s.fenOf 0).dw 0) 0 16 = 0) ∧
    (let s := onFen { fen1 with frun := true, fbody := true, fvalid := true }
     let op : FenOp := ⟨true, 0x3C000, 0, 0, 0⟩
     let e := (s.fenOf 0).endFbody
     s.fenActive 0 op 0x0F = true ∧ op.fstream = true ∧ e.rejects (FMap.get 0 e.pgOf (pgBack e.data)) (FMap.get 0 e.pgOf (nanBack e.data) != 0) = none) ∧
    (let s := onFen { fen1 with frun := true, fbody := true, fvalid := true, nanNew := true }
     let e := (s.fenOf 0).endFbody
     e.rejects (FMap.get 0 e.pgOf (pgBack e.data)) (FMap.get 0 e.pgOf (nanBack e.data) != 0) ≠ none ∧ e.fvalid = true) := by
  exact ⟨by decide +kernel, ⟨by decide +kernel, by decide, by decide +kernel, test_fen_unarmed _ _⟩, by decide +kernel⟩

/-- A FEN slot of 10 cycles with a context, its program's descriptor and data in scratchpad 0. -/
def solve : State :=
  { sched (fun c => { c with work := [(0, [(9, 0)])] }) (State.put (slotted 0x90000000 10 0xA000 0 [(0, frame0)]) [(R.twin (R.FEN_PTAB 0), 0x40000000)]) with
    mem := (List.range 64).map (fun i => (0x40000000 + i, if i = 7 then 0x40 else 0)) ++ [(0x40000080, 0), (0x40000088, 0), (0x40000100, 0)] }

/-- The same slot in the cycle of its deadline, its solve still under way. -/
def solved : State := { solve with tb := { solve.tb with raw := 50 }, fen := [(0, fen1)] }

/-- FennelCommands: a solve's position with a context, and a solve at its deadline; another slot, and a deadline that has not come. -/
theorem test_witness_fen_commands :
    ((solve.fenDue 0 0 0 0 (solve.slot 0 0) = true ∧ (solve.fenOf 0).run = false ∧ solve.atPos 0 0 (solve.slot 0 0) (.fen 0) 0 = some (9, 0) ∧
       solve.classHeld (solve.slot 0 0).jclass (.fen 0) = false ∧ solve.isTorn 9 = false ∧
       (solve.act (R.FEN_PTAB 0)).toNat / 64 * 64 + 64 * ((solve.slot 0 0).entry % 256) = 0x40000000 ∧
       solve.peekLe 0x40000004 4 = 0x40000000 ∧ solve.openRange 0x40000000 64 = true ∧ base.fenDue 15 0 0 0 (base.slot 0 0) = false) ∧
     soundRange solve 0x40000000 64 ∧ soundRange solve 0x40000100 8 ∧ soundRange solve 0x40000080 16) ∧
    (solved.lcSlot 0 0 = true ∧ (solved.slot 0 0).kind = 1 ∧ (solved.slotEngines 0 (solved.slot 0 0)).contains (.fen 0) = true ∧
      solved.untilDead 0 0 (solved.slot 0 0) (.fen 0) 0 = 0 ∧ solve.untilDead 0 0 (solve.slot 0 0) (.fen 0) 0 ≠ 0 ∧
      (solved.fenOf 0).run = true ∧ (solved.fenOf 0).part = 0 ∧ (solved.fenOf 0).slot = 0 ∧ (solved.fenOf 0).pos = 0 ∧
      solved.openRange (0x40000000 + 128) 16 = true) ∧ Named solved 0 ∧ writable solved 0x40000000 32 := by
  refine ⟨⟨by decide +kernel, test_sound_list _ _ (by decide +kernel), test_sound_list _ _ (by decide +kernel), test_sound_list _ _ (by decide +kernel)⟩,
    by decide +kernel, ⟨?_, ?_, by decide, ?_⟩, ⟨by decide, by decide +kernel, ?_⟩⟩
  · intro r hr; cases hr
  · intro c hc; cases hc; decide
  · intro r hr; cases hr
  · exact test_unarmed _ (by decide +kernel)

/-- WindowsClose, CalibrationGroup: an entry whose window is full, one whose is not; a group whose commit is accepted, one with a reserved anchor, one whose anchor
is missing; a group that waits, inside a real-time partition and outside. -/
theorem test_witness_calib : base.hasClu 15 = true ∧ base.hostWrites = true ∧ (base.rd (R.CLU_CALSTAT 15)).getLsbD 31 = false ∧ base.calDue 15 31 = false ∧
    (let s := State.put (rtPart base) [(R.twin (R.CLU_CALCFG 0 31), 0x80000000), (R.CLU_CALWIN 0 31, 65536)]
     s.calDue 0 31 = true) ∧
    (let s := State.put base [(R.CLU_CALCFG 15 31, 0xE0000000), (R.CLU_CALSTAT 15, 0x80000000)]
     (s.rd (R.CLU_CALCFG 15 31)).getLsbD 31 = true ∧ fld (s.rd (R.CLU_CALCFG 15 31)) 29 2 = 3 ∧ (s.rd (R.CLU_CALSTAT 15)).getLsbD 31 = true ∧ s.rtOf 15 = none) ∧
    (let s := State.put (rtPart base) [(R.CLU_CALCFG 0 0, 0x80000000)]
     s.rtOf 0 = some 0 ∧ (s.rd (R.CLU_CALCFG 0 0)).getLsbD 31 = true ∧ s.hasAnchor none 0 (some (fld (s.rd (R.CLU_CALCFG 0 0)) 29 2)) = false ∧ s.hpNow 0 true = false ∧
     (sched (fun c => { c with frames := [(0, frame0)] }) s).hpNow 0 true = true) := by decide +kernel

/-- The integrity part of a memory as given. -/
def onMem (n : Nat) (i : Integrity) (s : State) : State := { s with integ := [(n, i)] }

/-- A scratchpad row in the pod buffer, its word 3 written. -/
def podE : PodEntry := ⟨0, 0x40000000, [(3, 7, 0)], []⟩

/-- DrainsAndCorrections: a pod entry that is free to drain, and one whose row's sub-bank is taken; a correction that waits for its bank, read before
this cycle or in it. -/
theorem test_witness_drain_wb : let s := onCore { core0 with pod := [podE], podAt := (1, 0) }
    let w := { onMem 0 { Integrity.reset with wbq := [⟨15, 0x400F0000, 1, 0⟩] } base with tb := { base.tb with raw := 5 } }
    PodOk 0 (s.core 0).pod ∧ (¬ podHeld s 0 podE ∧ podHeld (s.grantBus 0 [⟨0, 0, some 0, 1⟩]) 0 podE) ∧
    ((s.core 0).pod = [] ++ podE :: [] ∧ (s.rd R.ECC_INJCTL).getLsbD 31 = false ∧ (s.core 127).pod = []) ∧
    (w.hasBank 0 15 = true ∧ w.bankGated 0 15 = false ∧ w.remapFor 0 15 = false ∧ w.bankIdle 0 15 = true ∧
      (w.integOf 0).wbq.find? (fun e => e.bank == 15 && decide (e.raw.toNat < w.tb.raw.toNat)) = some ⟨15, 0x400F0000, 1, 0⟩ ∧ 0x400F0000 % 8 = 0) ∧
    ¬ armed w 0 0xF0000 ∧ (∀ e ∈ [(⟨15, 0x400F0000, 1, 0⟩ : WbEntry)], e.bank = 15 → base.tb.raw.toNat ≤ e.raw.toNat) := by
  refine ⟨⟨⟨by decide, by decide⟩, ⟨by decide, by decide⟩, by decide⟩, ?_, by decide +kernel, by decide +kernel, test_unarmed _ (by decide +kernel) _ _, by decide⟩
  unfold podHeld
  decide +kernel

/-- Scrubbing: a bank whose row 0 a handle covers, holding a word with an error in data bit 0; a scrubber that is off; a scrub write that waits; an LPDDR6 unit. -/
theorem test_witness_scrub :
    (let s := { State.put (slotted 0 0 0 0 []) [(R.ECC_SCRUB_EN 0, 1)] with
       mem := (List.range 16).map (fun i => (0x40000000 + 8 * i, 0)), syn := [(0x40000000, BitVec.ofNat 8 (eccColumns.getD 0 0))] }
     s.hasBank 0 0 = true ∧ s.remapFor 0 0 = false ∧ s.wbFor 0 0 = none ∧ s.bankIdle 0 0 = true ∧
     FMap.find (s.integOf 0).scrubbed 0 = none ∧ s.scrubRow 0 0 = some 0 ∧ (corrected s 0x40000000).isSome = true) ∧
    base.scrubRow 0 0 = none ∧ (onBus base).bankIdle 0 0 = false ∧
    (let s := onMem 143 { Integrity.reset with scrubbed := [(15, [(0x6F780000, 5)])] } base
     s.hasBank 143 15 = true ∧ s.bankBusy 143 15 = false ∧ s.remapFor 143 15 = false ∧ s.wbFor 143 15 = none ∧ s.bankIdle 143 15 = true ∧ FMap.find (s.integOf 143).scrubbed 15 = some [(0x6F780000, 5)] ∧ 0x6F780000 % 8 = 0 ∧
     (s.rd R.ECC_INJCTL).getLsbD 31 = false) ∧
    (let s := State.put (timed fun b => { b with raw := 100 }) [(R.GLB_MEM, 4), (R.MEM_STAT, 0x80000000), (R.ECC_SCRUB_EN 144, 1), (R.ECC_MSCRUB 144, 0)]
     s.memOn = true ∧ (s.rd (R.ECC_SCRUB_EN 144)).getLsbD 0 = true ∧ s.memSize 144 ≠ 0 ∧
     100 * max 1 (s.field (R.ECC_MSCRUB 144) 0 16) ≤ (s.tb.raw - BitVec.ofNat 64 (FMap.get 0 (s.integOf 144).ptr 1)).toNat ∧
     64 * FMap.get 0 (s.integOf 144).ptr 0 + 64 ≤ s.memSize 144) := by
  decide +kernel

/-- RemapAndInjection: a remap that is accepted, and those of each code; one that is under way, and none. -/
theorem test_witness_remap : base.hasMem 143 = true ∧ base.rmCode 0 = 0 ∧
    (let s := State.put base ((List.range 8).map fun i => (R.ECC_RM 0 i, 0x80000000))
     ∀ i, i < 8 → (s.rd (R.ECC_RM 0 i)).getLsbD 31 = true) ∧
    (let s := State.put base [(R.ECC_RMADD 0, 512 * 16), (R.ECC_RM 0 0, 0x80000000)]
     bankRows 0 ≤ s.field (R.ECC_RMADD 0) 0 20 / 16 % 4096 ∧ (s.rd (R.ECC_RM 0 1)).getLsbD 31 = false) ∧
    (let s := State.put base [(R.ECC_RM 0 7, 0x80000000)]
     (s.rd (R.ECC_RM 0 7)).getLsbD 31 = true ∧ s.field (R.ECC_RM 0 7) 0 20 = s.field (R.ECC_RMADD 0) 0 20 ∧ s.rmFree 0 = some 0) ∧
    (let s := onMem 0 { Integrity.reset with remap := some 0xF0000 } base
     (s.integOf 0).remap = some 0xF0000 ∧ s.rmFree 0 = some 0 ∧ s.bankGated 0 (0xF0000 / 2 ^ 16) = false ∧ s.bankIdle 0 (0xF0000 / 2 ^ 16) = true ∧
       (s.rd R.ECC_INJCTL).getLsbD 31 = false) ∧
    (base.integOf 0).remap = none := by decide +kernel

/-- Bank 15 of memory 143 in transition, at a raw time. -/
def moves (k : BankBusy) (raw : Dword) : State := { timed fun b => { b with raw := raw } with banks := [(bankKey 143 15, k)] }

/-- BankPower: a bank that a handle covers and one that none covers; banks in transition, closing early and late, with something in the pod buffer, and waking. -/
theorem test_witness_bank :
    (covered ((slotted 0 0 0 0 []).guards 0) (0 * bankSize 0) (bankSize 0) = true ∧
      ∀ k, k < 16 → (0x8000 : BitVec 16).getLsbD k = true → ¬ covered (base.guards 0) (k * bankSize 0) (bankSize 0) = true) ∧
    (moving (moves ⟨true, 0, false⟩ 5) 143 15 ∧ ¬ moving base 0 15 ∧ ∀ k, k < 15 → (0x8000 : BitVec 16).getLsbD k = false) ∧
    (let s := moves ⟨true, 0, false⟩ 5
     s.hasBank 143 15 = true ∧ FMap.find s.banks (bankKey 143 15) = some ⟨true, 0, false⟩ ∧
      0 < cyclesBetween 0 s.tb.raw ∧ s.inFlight 143 15 = 0 ∧ s.podIn 143 15 = false ∧ (143, 15) ∉ s.cyc.heldWas) ∧
    (onCore { core0 with pod := [podE] }).podIn 0 0 = true ∧ 4096 < cyclesBetween 0 (moves ⟨true, 0, false⟩ 20485).tb.raw ∧
    (let s := moves ⟨false, 0, false⟩ 320
     Memory.wf s.mem = true ∧ FMap.find s.banks (bankKey 143 15) = some ⟨false, 0, false⟩ ∧ 64 ≤ cyclesBetween 0 s.tb.raw) := by
  unfold moving
  decide +kernel

end Sys2Proof.Tests
/-! ## Hypotheses met: DMA channels, the LPDDR6 controller, Ethernet ports -/

namespace Sys2Proof.Tests

/-- A host's chain that runs its first descriptor. -/
def chan1 : DmaChan := { DmaChan.reset with st := .run, count := 1, host := true }

/-- Channel 0 as given. -/
def onDma (c : DmaChan) : State := { base with dma := [(0, c)] }

/-- Descriptor 0 of cluster 0 in memory. -/
def withDesc (w0 w1 src dst w7 : Nat) (s : State) : State :=
  { s with mem := (leBytes 4 w0 ++ leBytes 4 w1 ++ leBytes 8 src ++ leBytes 8 dst ++ leBytes 4 0 ++ leBytes 4 w7).zipIdx.map (fun x => (0x60000000 + x.2, x.1)) ++
    (List.range 12).map fun i => (0x60000020 + 8 * i, 0) }

/-- Channel 0 asks for its descriptor and is granted it. -/
def asked (s : State) : State := s.grantBus (descOrder s 0) (descClaims s 0)

/-- Channel 0 reads descriptor d, in the state beside it. -/
def Fetched (s : State) (d : Desc) : Prop := Asks s 0 (asked s) ∧ (asked s).dmaFetch 0 = ⟨((asked s).dmaFetch 0).st, some d⟩

theorem test_fetched (s : State) (d : Desc) (h : s.dmaReady 0 = true ∧ s.heldOf (descOrder s 0) (descClaims s 0) = [] ∧
    ((asked s).dmaFetch 0).desc = some d) : Fetched s d := by
  refine ⟨⟨h.1, h.2.1, rfl⟩, ?_⟩
  cases hf : (asked s).dmaFetch 0 with
  | mk u o =>
    have hd := h.2.2
    rw [hf] at hd
    simp only at hd
    rw [hd]

/-- The state in which channel 0 has its descriptor. -/
def gotIt (s : State) : State := ((asked s).dmaFetch 0).st

/-- The descriptor that a channel reads here. -/
def op0 (op w1 src dst w7 : Nat) (s : State) : State := withDesc (op * 2 ^ 28) w1 src dst w7 s

/-- A COPY of eight bytes on the device, under way in channel 0 with its part as given. -/
def copying (segs : List DmaSeg) : DmaChan :=
  { chan1 with issued := true, desc := some ⟨0x10000000, 8, 0x40000000, 0x40000100, 0, 0⟩, segs }

/-- A part of it that has been read. -/
def part0 : DmaSeg := ⟨none, 0x40000000, 0x40000100, 8, some (List.replicate 8 1), 0⟩

/-- ChannelControl: channel 127 idle; channel 0 running, with a part in flight and with none, waiting, halted; with a descriptor that ends its
chain, and one that goes on, with fewer than 4,096 descriptors before it and with as many. -/
theorem test_witness_channel : base.hostWrites = true ∧ 15 < base.nClusters ∧ (base.dmaOf 127).st = .idle ∧ ((onDma chan1).dmaOf 0).st = .run ∧
    ((onDma chan1).dmaOf 0).inAir = [] ∧ ((onDma (copying [part0])).dmaOf 0).inAir ≠ [] ∧
    ((onDma { chan1 with st := .wait }).dmaOf 0).st = .wait ∧ ((onDma { chan1 with st := .halt }).dmaOf 0).st = .halt ∧
    ((withDesc 0x08000000 0 0 0 0 (onDma chan1)).curDesc 0).last = true ∧ ((withDesc 0 0 0 0 0 (onDma chan1)).curDesc 0).last = false ∧
    ((onDma chan1).dmaOf 0).count < 4096 ∧ ((onDma { chan1 with count := 4096 }).dmaOf 0).count = 4096 := by decide +kernel

/-- DescriptorPrograms: each operation's descriptor is read, in a channel that is ready; one that breaks the rules; a place that is not backed; a
channel that is not ready and one whose request is held; objects of the own cluster and of another that does not exist; WAITs met and unmet, in a
chain of the host's and in a compiled one of a real-time partition. -/
theorem test_witness_descriptor :
    (∀ op ∈ [0, 1, 2, 3, 4, 5], let s := op0 op 8 0x40000000 0x40000100 0x400 (onDma chan1)
      let d : Desc := ⟨BitVec.ofNat 32 (op * 2 ^ 28), 8, 0x40000000, 0x40000100, 0, 0x400⟩
      Fetched s d ∧ d.op = op ∧ (gotIt s).objOk 0 d.obj = true) ∧
    (∀ op ∈ [3, 4, 5], let s := op0 op 8 0 0 0xFFFC0400 (onDma chan1)
      let d : Desc := ⟨BitVec.ofNat 32 (op * 2 ^ 28), 8, 0, 0, 0, 0xFFFC0400⟩
      Fetched s d ∧ d.op = op ∧ (gotIt s).objOk 0 d.obj = false) ∧
    (let s := op0 6 0 0 0 0 (onDma chan1)
     s.dmaReady 0 = true ∧ s.openRange (s.descAddr 0 (s.dmaOf 0).didx) 32 = true ∧ (∀ w ∈ wordsOf (s.descAddr 0 (s.dmaOf 0).didx) 32, sound s w) ∧
     s.descBad 0 (Desc.ofBytes (s.peek (s.descAddr 0 (s.dmaOf 0).didx) 32)) = true ∧
     (let s := op0 1 8 0x40000000 0x40000100 0x400 (onDma chan1)
      s.dmaReady 0 = true ∧ s.descBad 0 (Desc.ofBytes (s.peek (s.descAddr 0 (s.dmaOf 0).didx) 32)) = false)) ∧
    (let s := State.put (onDma chan1) [(R.twin (R.DMA_DBASE 0), 0x800000)]
     s.dmaReady 0 = true ∧ s.openRange (s.descAddr 0 (s.dmaOf 0).didx) 32 = false ∧ base.dmaReady 0 = false ∧
     Asks s 0 (asked s) ∧ ((asked s).dmaFetch 0).desc = none) ∧
    (let s := (onDma chan1).grantBus 0 [⟨128, 0, none, 1⟩]
     s.dmaReady 0 = true ∧ s.heldOf (descOrder s 0) (descClaims s 0) ≠ []) ∧
    (let s := onDma { chan1 with st := .wait, desc := some ⟨0x40000000, 8, 0, 0, 0, 0x400⟩, waits := some false }
     s.hasChan 0 = true ∧ (s.dmaOf 0).st = .wait ∧ (s.count (s.curDesc 0).obj - (s.curDesc 0).w1).msb = true ∧
     ((onDma { chan1 with st := .wait, waits := some true }).dmaOf 0).waits = some true) := by
  have two (p q : Prop) (hp : p) (hq : q) : p ∧ q := ⟨hp, hq⟩
  refine ⟨?_, ?_, two _ _ (by decide +kernel) (two _ _ (by decide +kernel) (two _ _ (test_sound_list _ _ ?_) ?_)), ?_, ?_⟩
  · intro op hop
    refine ⟨test_fetched _ _ ?_, ?_⟩ <;> (revert op; decide +kernel)
  · intro op hop
    refine ⟨test_fetched _ _ ?_, ?_⟩ <;> (revert op; decide +kernel)
  · decide +kernel
  · decide +kernel
  · refine ⟨by decide +kernel, by decide +kernel, by decide +kernel, ⟨by decide +kernel, by decide +kernel, rfl⟩, by decide +kernel⟩
  · decide +kernel

/-- WaitRule: a WAIT at its object, in a chain of the host's and in a compiled chain of a context of a real-time partition. -/
theorem test_witness_wait_rule :
    (let v := onDma { chan1 with waits := some false }
     (v.dmaOf 0).st = .run ∧ (v.dmaOf 0).waits = some false ∧ v.partOf 0 = none) ∧
    ((0 - 0 : Word).msb = false ∧ (0 - 8 : Word).msb = true) ∧
    (let v := rtPart (onDma { chan1 with host := false, ctx := some 9, waits := some false })
     (v.dmaOf 0).st = .run ∧ (v.dmaOf 0).waits = some false ∧ v.partOf 0 = some 0 ∧ v.isRt 0 = true ∧ (v.dmaOf 0).var = false ∧
      (v.dmaOf 0).ctx = some 9 ∧ v.isTorn 9 = false) := by decide +kernel

/-- Its source and its destination in memory. -/
def copyState : State := { onDma (copying []) with mem := [(0x40000000, 1), (0x40000100, 0)] }

/-- CopiesAndFills: a part of a COPY and of a FILL that is due, its row granted and held. -/
theorem test_witness_copy : let s := copyState
    (∀ d ∈ [(⟨0x10000000, 8, 0x40000000, 0x40000100, 0, 0⟩ : Desc), ⟨0x20000000, 8, 0x55, 0x40000100, 0, 0⟩],
      let u := onDma { copying [] with desc := some d }
      (u.dmaOf 0).issues u.tb.raw = some d) ∧
    (let c := copying []
     let n := pieceLen 128 0x40000000 8
     n = 8 ∧ s.dmaEndOf 0 0x40000000 = .die ∧ s.heldOf (c.order 0) (s.claimsOf false 0x40000000 n) = [] ∧ s.openRange 0x40000000 n = true ∧
      (let v := s.grantBus 0 [⟨0, 0, none, 1⟩]
       v.heldOf (c.order 0) (s.claimsOf false 0x40000000 n) ≠ [])) ∧
    (∀ w ∈ wordsOf 0x40000000 8, sound s w) ∧
    (part0.data = some (List.replicate 8 1) ∧ (List.replicate 8 (1 : Byte)).length = part0.len ∧ 0 < part0.len ∧
      s.heldOf ((s.dmaOf 0).order 0) (s.claimsOf true part0.dst part0.len) = [] ∧
      (let v := s.grantBus 0 (s.claimsOf true part0.dst part0.len)
       v.heldOf ((v.dmaOf 0).order 0) (v.claimsOf true part0.dst part0.len) ≠ [])) := by
  refine ⟨by decide +kernel, ?_, test_sound_list _ _ ?_, ?_⟩ <;> decide +kernel

theorem test_no_area : copyState.dmaHidden 0 = [] := by decide +kernel

/-- CopiesAndFills: a part that has been read, or a row of the service channel, may be written. -/
theorem test_witness_put : MayWrite copyState 0 part0.dst part0.len ∧ ¬ hiddenAt copyState 0 0x40000100 ∧
    0x40000000 / 128 = (0x40000000 + 8 - 1) / 128 := by
  refine ⟨⟨.inl ?_, ?_, fun _ => ?_, test_sound_list _ _ ?_, ?_⟩, ?_, by decide⟩
  · decide +kernel
  · decide +kernel
  · decide +kernel
  · decide +kernel
  · decide +kernel
  · rintro ⟨h, hh, -⟩
    rw [test_no_area] at hh
    cases hh

/-- ChainsEnd: a descriptor whose work is done, with SIGC to an object of its cluster and to one of none; one whose work is not done; a channel
that waits for long, and one that does not. -/
theorem test_witness_chain :
    (∀ w7 ∈ [0x400, 0xFFFC0400], let s := onDma { chan1 with issued := true, run := 1, desc := some ⟨0x1C000000, 8, 0x40000000, 0x40000100, 0, BitVec.ofNat 32 w7⟩ }
     s.hasChan 0 = true ∧ (s.dmaOf 0).st = .run ∧ (s.dmaOf 0).finished = true ∧ (s.dmaOf 0).ending = false ∧ s.cmdOn (.dma 0) = none ∧ (s.curDesc 0).op = 1 ∧
     (s.curDesc 0).sigc = true ∧ (s.curDesc 0).last = true ∧ s.objOk 0 (s.curDesc 0).obj = (w7 == 0x400)) ∧
    (let s := onDma { chan1 with issued := true, desc := some ⟨0, 0, 0, 0, 0, 0⟩ }
     (s.dmaOf 0).finished = true ∧ (s.curDesc 0).op = 0 ∧ (s.curDesc 0).last = false) ∧
    (base.dmaOf 127).finished = false ∧
    (let s := { onDma { chan1 with st := .wait } with tb := { Timebase.reset with raw := 5120 * 65536 } }
     s.hasChan 0 = true ∧ (s.dmaOf 0).st = .wait ∧ 1024 * max 1 (s.field (R.DMA_CHCFG 0 0) 0 16) ≤ cyclesBetween (s.dmaOf 0).raw s.tb.raw) ∧
    cyclesBetween ((onDma chan1).dmaOf 0).raw (onDma chan1).tb.raw < 1024 * max 1 ((onDma chan1).field (R.DMA_CHCFG 0 0) 0 16) := by decide +kernel

/-- MemoryController: memory in service with its last unit, power-down configured and not, with a channel idle for its time and not yet. -/
theorem test_witness_memctl : let s := { State.put base [(R.GLB_MEM, 4), (R.MEM_STAT, 0x80000000), (R.MEM_PDCFG, 1)] with tb := { Timebase.reset with raw := 100 } }
    s.memOn = true ∧ 4 * 2 ^ 24 - 1 < s.field R.GLB_MEM 0 8 * 2 ^ 24 ∧ s.field R.MEM_PDCFG 0 16 ≠ 0 ∧ 1 < (15 : BitVec 4).toNat ∧
    s.field R.MEM_REFM (4 * 3) 4 < (15 : BitVec 4).toNat ∧ 100 * s.field R.MEM_PDCFG 0 16 ≤ (s.tb.raw - FMap.get 0 s.memReq 3).toNat ∧
    (State.put base [(R.MEM_PDCFG, 0)]).field R.MEM_PDCFG 0 16 = 0 ∧
    (let u := { s with memReq := [(3, 1)] }
     (u.tb.raw - FMap.get 0 u.memReq 3).toNat < 100 * u.field R.MEM_PDCFG 0 16) := by decide +kernel

/-- Port 3 up, taking untagged frames. -/
def portUp : State := State.put base [(R.ETH_STATUS 3, 0x40000000), (R.twin (R.ETH_CFG 3), 0x88000000)]

/-- A frame to port 3's address. -/
def frameTo (etype : BitVec 16) (len : Nat) (ok : Bool) (dst : BitVec 48) : RxFrame := ⟨3, 0, ⟨dst, 0x22, none, false, etype, [], len, ok⟩⟩

/-- EthernetFrames: a frame that passes, at both bounds of its length, and one that fails each check; entries that the device owns and that it does not. -/
theorem test_witness_frames : base.linkUp 3 = false ∧ (0x1234 : BitVec 16).toNat ≠ base.etype ∧ Passes portUp (frameTo 0x1234 64 true 0) ∧
    Passes portUp (frameTo 0x1234 1518 true 0) ∧ portUp.linkUp 3 = true ∧ ¬ (64 ≤ 63) ∧ portUp.dstOk 3 0x010203040506 = false ∧
    (let s := { portUp with net := { portUp.net with rxWait := [⟨List.replicate 65500 0, 3, 0, 0, 0, 0⟩] } }
     s.dstOk 3 0 = true ∧ s.vlanOk (frameTo 0x1234 64 true 0) = true ∧ 65536 < s.rxHeld 3 + 64) ∧
    (let entry := leBytes 4 0x80000000 ++ leBytes 4 0 ++ leBytes 8 (2 ^ 63)
     let s := { State.put base [(R.PCI_STAT, 0x80000000), (R.twin R.CARR_HRXBASE + 4, 0x80000000)] with host := { HostIf.reset with busMaster := true } }
     (w32 (leAt entry 0 4)).getLsbD 31 = true ∧ hostAddr (leAt entry 8 8) = some 0 ∧ hostAddr s.rxEntryAddr = some 0 ∧ s.canSend = true) ∧
    (w32 (leAt [] 0 4)).getLsbD 31 = false := by
  refine ⟨by decide +kernel, by decide +kernel, ⟨by decide, by decide +kernel, by decide, by decide, by decide +kernel, by decide +kernel⟩,
    ⟨by decide, by decide +kernel, by decide, by decide, by decide +kernel, by decide +kernel⟩, by decide +kernel, by decide, by decide +kernel, ?_, by decide +kernel, by decide⟩
  decide +kernel

/-- EthernetLinks: a link that may come up, one that is up; a group with each code; one that waits on an idle port, with and without a change of the port's mode, and on a
busy port. -/
theorem test_witness_links : (let s := State.put base [(R.twin (R.ETH_CFG 3), 0x80000000)]
     s.linkUp 3 = false ∧ (s.act (R.ETH_CFG 3)).getLsbD 31 = true ∧ s.running = true ∧ s.netOn 3 = true) ∧ portUp.linkUp 3 = true ∧
    base.hostWrites = true ∧ (base.rd (R.ETH_STATUS 3)).getLsbD 31 = false ∧
    (let c := (State.put base [(R.ETH_CFG 3, 0x60000000)]).rd (R.ETH_CFG 3)
     c.getLsbD 30 = true ∧ c.getLsbD 29 = true) ∧
    ((State.put base [(R.ETH_MAC 3 + 4, 0x100)]).rd64 (R.ETH_MAC 3)).getLsbD 40 = true ∧
    (let c := (State.put base [(R.ETH_CFG 3, 0x08000FFF)]).rd (R.ETH_CFG 3)
     c.getLsbD 27 = true ∧ fld c 0 12 = 4095) ∧
    (let s := State.put base [(R.ETH_MC 3 15 + 4, 0x80000000)]
     (s.rd64 (R.ETH_MC 3 15)).getLsbD 63 = true ∧ (s.rd64 (R.ETH_MC 3 15)).getLsbD 40 = false) ∧ (State.put base [(R.ETH_MAC 3, 2)]).ethCode 3 = 0 ∧
    (let s := State.put base [(R.ETH_STATUS 3, 0x80000000), (R.ETH_CFG 3, 0x80000000)]
     (s.rd (R.ETH_STATUS 3)).getLsbD 31 = true ∧ (s.port 3).sending = none ∧ fld (s.rd (R.ETH_CFG 3)) 29 3 ≠ fld (s.act (R.ETH_CFG 3)) 29 3 ∧
     fld ((State.put s [(R.ETH_CFG 3, 0)]).rd (R.ETH_CFG 3)) 29 3 = fld (s.act (R.ETH_CFG 3)) 29 3) := by decide +kernel

/-- A frame for a launch queue. -/
def tx1 (launch : Option Word) (entry : Option (Nat × Word)) : TxFrame := ⟨List.replicate 60 0, false, launch, entry⟩

/-- Port 3 as given. -/
def onPort (p : Port) : State := { portUp with net := { portUp.net with ports := [(3, p)] } }

/-- LaunchesAndRings: a head that may leave and one that is late; frames that are sent, of the device and of the host; the transmit ring in host memory; queues with room,
full, and of a port that is down. -/
theorem test_witness_launch :
    (let s := onPort { Port.reset with queues := [(7, [tx1 none none])] }
     s.linkUp 3 = true ∧ (s.port 3).sending = none ∧ (s.candidates 3 (s.stampOf (s.sfdRaw 3))).head? = some 7 ∧ (s.port 3).queue 7 = [tx1 none none] ∧
     ¬ lateness (s.stampOf (s.sfdRaw 3)) (tx1 none none) > ((fld (s.act (R.ETH_QCFG 3 7)) 0 16 * 10 : Nat) : Int) ∧ ((s.port 3).queue 0).length < 16) ∧
    (let s := onPort { Port.reset with queues := [(0, [tx1 (some 0xF0000000) none])] }
     (s.candidates 3 (s.stampOf (s.sfdRaw 3))).head? = some 0 ∧
     lateness (s.stampOf (s.sfdRaw 3)) (tx1 (some 0xF0000000) none) > ((fld (s.act (R.ETH_QCFG 3 0)) 0 16 * 10 : Nat) : Int)) ∧
    (let s := onPort { Port.reset with sending := some (tx1 none none, 7) }
     (s.port 3).sending = some (tx1 none none, 7) ∧ (tx1 none none).entry = none) ∧
    (let s := { State.put (onPort { Port.reset with sending := some (tx1 none (some (2 ^ 63, 0x80000000)), 7) }) [(R.PCI_STAT, 0x80000000), (R.twin R.CARR_HTXBASE + 4, 0x80000000)] with
       host := { HostIf.reset with busMaster := true } }
     (s.port 3).sending = some (tx1 none (some (2 ^ 63, 0x80000000)), 7) ∧ s.canSend = true ∧ hostAddr (2 ^ 63) = some 0 ∧ hostAddr (2 ^ 63 + 16) = some (0 + 16) ∧
     s.running = true ∧ s.txBusy = false ∧ hostAddr s.txEntryAddr = some 0 ∧ s.escalated 5 0 0 = false ∧ s.host.outbound.length < 256) ∧
    ({ base with host := { HostIf.reset with outbound := [⟨0, .txEntry, 0, 32, 0⟩] } }).txBusy = true ∧
    16 ≤ ((onPort { Port.reset with queues := [(0, List.replicate 16 (tx1 none none))] }).port 3 |>.queue 0).length ∧ base.linkUp 0 = false := by decide +kernel

end Sys2Proof.Tests
/-! ## Hypotheses met: Carr -/

namespace Sys2Proof.Tests

/-- A Carr frame to port 3 or a lane, with a version, time stamp, SEQ, context and payload. -/
def carr (port typ ver : Nat) (seq : Word) (ctx : Nat) (ts : Word) (payload : List Byte) : RxFrame :=
  ⟨port, 0, ⟨0, 0x22, none, false, 0x88B5, carrBytes ver typ 0 seq ctx 0 ts payload, 64 + payload.length, true⟩⟩

/-- A frame whose CRC is damaged. -/
def broken (r : RxFrame) : RxFrame := { r with frame := { r.frame with body := r.frame.body.dropLast ++ [0xA5] } }

/-- The state once the frame is counted. -/
def after (s : State) (r : RxFrame) : State := s.bump (R.ETH_RXFRM r.port)

/-- Port 3 with parse entry 127: any VLAN, context and source, its ACT and TYPE, and words 4 to 6. -/
def parsed (act typ : Nat) (w4 w5 w6 : Word) (s : State) : State :=
  State.put s [(R.twin (R.CARR_PARSE 127 0), BitVec.ofNat 32 (0xC0000000 + act * 2 ^ 24 + typ * 2 ^ 16)), (R.twin (R.CARR_PARSE 127 1), 0x0FFF0FFF),
    (R.twin (R.CARR_PARSE 127 3), 0x80000000), (R.twin (R.CARR_PARSE 127 4), w4), (R.twin (R.CARR_PARSE 127 5), w5), (R.twin (R.CARR_PARSE 127 6), w6)]

/-- What makes a frame arrive. -/
def arrivesB (s : State) (r : RxFrame) (typ : Nat) : Bool :=
  decide (r.port < 4) && s.linkUp r.port && r.frame.fcsOk && decide (64 ≤ r.frame.len) && decide (r.frame.len ≤ if r.frame.tci.isSome then 1522 else 1518) &&
    decide (r.frame.etype ≠ 0x8808) && s.dstOk r.port r.frame.dst && s.vlanOk r && decide (s.rxHeld r.port + r.frame.len ≤ 65536) &&
    decide (r.frame.etype.toNat = s.etype) && decide ((header r).typ = typ)

theorem test_arrives (s : State) (r : RxFrame) (typ : Nat) (h : arrivesB s r typ = true) : Arrives s (after s r) r typ := by
  simp only [arrivesB, Bool.and_eq_true, decide_eq_true_eq] at h
  obtain ⟨⟨⟨⟨⟨⟨⟨⟨⟨⟨h1, h2⟩, h3⟩, h4⟩, h5⟩, h6⟩, h7⟩, h8⟩, h9⟩, h10⟩, h11⟩ := h
  exact ⟨⟨h1, h2, ⟨h3, h4, h5⟩, h6, ⟨h7, h8⟩, h9⟩, h10, h11, rfl⟩

/-- CarrChecks: frames of every type arrive; one fails check 2, one matches nothing, one meets a DROP and one a HOST entry; a PHASE meets each; an unknown type; a NAK
within 10 µs of the last. -/
theorem test_witness_checks :
    (∀ typ ∈ [0x01, 0x03, 0x04, 0x05, 0x06, 0x07, 0x08, 0x09, 0x42], Arrives portUp (after portUp (carr 3 typ 3 1 9 0 [])) (carr 3 typ 3 1 9 0 []) typ) ∧
    (let r := carr 3 0x01 1 1 9 0 []
     Arrives portUp (after portUp r) r 0x01 ∧ carrGate false (header r) r.frame.body.length = some 2) ∧
    (let r := carr 3 0x01 3 1 9 0 []
     carrGate false (header r) r.frame.body.length = none ∧ (after portUp r).match_ r (header r) = none) ∧
    (∀ act ∈ [0, 3], ∀ typ ∈ [0x01, 0x07], let r := carr 3 typ 3 1 9 0 []
      let s := parsed act 0xFF 0 0 0 portUp
      Arrives s (after s r) r typ ∧ Matches (after s r) r 127 ∧ ((after s r).pentry 127).act = act ∧ typeLenOk (header r) = true ∧ sizeOk (header r) ∧ crcOk (header r)) ∧
    (∀ pay ∈ [[], List.replicate 16 0, List.replicate 11 0 ++ [8, 0, 0, 0, 0]], let r := broken (carr 3 0x03 3 5 9 0 pay)
      let s := parsed 2 0xFF 0 0 0 portUp
      Arrives s (after s r) r 0x03 ∧ Matches (after s r) r 127 ∧ ((after s r).pentry 127).act = 2 ∧ typeLenOk (header r) = decide (pay.length = 16) ∧
      (sizeOk (header r) ↔ pay.getD 11 0 = 8) ∧ ¬ crcOk (header r)) ∧
    (let r := carr 3 0x07 3 1 9 0 []
     let s := parsed 2 0x07 0 0 0 portUp
     Arrives s (after s r) r 0x07 ∧ Matches (after s r) r 127 ∧ ((after s r).pentry 127).act = 2) ∧
    (let r := carr 3 0x42 2 1 9 0 []
     0x42 ∉ ([0x01, 0x03, 0x04, 0x05, 0x06, 0x07, 0x08, 0x09] : List Nat) ∧ (header r).len ≤ 1472 ∧ 28 + (header r).len ≤ r.frame.body.length ∧ (header r).ver = 2) ∧
    (let s := { portUp with net := { portUp.net with nakAt := [(0x22, 0)] } }
     FMap.find s.net.nakAt (0x22 : BitVec 48).toNat = some 0 ∧ (s.tb.raw - 0).toNat < 10000) ∧
    ((header (carr 3 255 255 1 4095 0 [])).ctx < 4096 ∧ (header (carr 3 255 255 1 4095 0 [])).typ < 256 ∧ (header (carr 3 255 255 1 4095 0 [])).ver < 256) := by
  refine ⟨fun typ h => test_arrives _ _ _ ?_, ⟨test_arrives _ _ _ ?_, ?_⟩, ?_, fun act ha typ ht => ⟨test_arrives _ _ _ ?_, ⟨?_, ?_⟩, ?_, ?_, ?_, ?_⟩,
    fun pay hp => ⟨test_arrives _ _ _ ?_, ⟨?_, ?_⟩, ?_, ?_, ?_, ?_⟩, ⟨test_arrives _ _ _ ?_, ⟨?_, ?_⟩, ?_⟩, ?_⟩
  · revert typ; decide +kernel
  · decide +kernel
  · decide +kernel
  · decide +kernel
  any_goals (revert act typ; first | decide +kernel | (unfold sizeOk; decide +kernel) | (unfold crcOk; decide +kernel))
  any_goals (revert pay; first | decide +kernel | (unfold sizeOk; decide +kernel) | (unfold crcOk; decide +kernel))
  all_goals decide +kernel

/-- The states of a MEAS under a PLACE entry with some limits, for a context that takes input or not. -/
def measured (w5 w6 : Word) (s : State) : State := parsed 1 0x01 0 w5 w6 s

/-- MEAS frames: of one byte, SEQ 5, with a time stamp. -/
def meas1 (ts : Word) : RxFrame := carr 3 0x01 3 5 9 ts [7]

theorem test_placeable (s : State) (ts : Word) (h : arrivesB s (meas1 ts) 0x01 = true) (h2 : carrGate false (header (meas1 ts)) (meas1 ts).frame.body.length = none)
    (h3 : (after s (meas1 ts)).match_ (meas1 ts) (header (meas1 ts)) = some 127) (h4 : ((after s (meas1 ts)).pentry 127).act = 1)
    (h5 : (header (meas1 ts)).len ≤ ((after s (meas1 ts)).pentry 127).maxlen) (h6 : crc32c (header (meas1 ts)).payload = (header (meas1 ts)).crc) :
    Arrives s (after s (meas1 ts)) (meas1 ts) 0x01 ∧ Placeable (after s (meas1 ts)) (meas1 ts) 127 :=
  ⟨test_arrives _ _ _ h, ⟨⟨h2, h3⟩, h4, h5, h6⟩⟩

theorem test_ahead (u : State) (e : PEntry) (h : Carr) (hn : u.net.measSeq = []) : Ahead u e h := by
  refine .inr fun l hl => ?_
  rw [hn] at hl
  cases hl

/-- What makes the frame be placed for a context that takes input. -/
def measB (s : State) (ts : Word) : Bool :=
  let u := after s (meas1 ts)
  arrivesB s (meas1 ts) 0x01 && decide (carrGate false (header (meas1 ts)) (meas1 ts).frame.body.length = none) &&
    decide (u.match_ (meas1 ts) (header (meas1 ts)) = some 127) && decide ((u.pentry 127).act = 1) && decide ((header (meas1 ts)).len ≤ (u.pentry 127).maxlen) &&
    decide (crc32c (header (meas1 ts)).payload = (header (meas1 ts)).crc) && decide (u.net.measSeq = []) && u.takesInput 9 0

theorem test_meas_at (s : State) (ts : Word) (h : measB s ts = true) : Arrives s (after s (meas1 ts)) (meas1 ts) 0x01 ∧ Placeable (after s (meas1 ts)) (meas1 ts) 127 ∧
    Ahead (after s (meas1 ts)) ((after s (meas1 ts)).pentry 127) (header (meas1 ts)) ∧ (after s (meas1 ts)).takesInput 9 0 = true := by
  simp only [measB, Bool.and_eq_true, decide_eq_true_eq] at h
  obtain ⟨⟨⟨⟨⟨⟨⟨h1, h2⟩, h3⟩, h4⟩, h5⟩, h6⟩, h7⟩, h8⟩ := h
  have hp := test_placeable s ts h1 h2 h3 h4 h5 h6
  exact ⟨hp.1, hp.2, test_ahead _ _ _ h7, h8⟩

/-- Measurements: too long; a CRC that fails; a SEQ that is not ahead; one that is, late, early, of a context that takes no input, and in order. -/
theorem test_witness_meas :
    (let s := measured 0 0 portUp
     Arrives s (after s (meas1 0)) (meas1 0) 0x01 ∧ Matches (after s (meas1 0)) (meas1 0) 127 ∧ ((after s (meas1 0)).pentry 127).maxlen < (header (meas1 0)).len) ∧
    (let s := measured 0x10000 0 portUp
     let r := broken (meas1 0)
     Arrives s (after s r) r 0x01 ∧ Matches (after s r) r 127 ∧ (header r).len ≤ ((after s r).pentry 127).maxlen ∧ crc32c (header r).payload ≠ (header r).crc ∧
     ((after s r).pentry 127).subst = false) ∧
    (let s := { State.put (measured 0x10000 0 portUp) [(R.twin (R.CARR_PARSE 127 2), 0x22), (R.twin (R.CARR_PARSE 127 3), 0)] with net := { portUp.net with measSeq := [(18, 5)] } }
     Arrives s (after s (meas1 0)) (meas1 0) 0x01 ∧ Placeable (after s (meas1 0)) (meas1 0) 127 ∧ ¬ Ahead (after s (meas1 0)) ((after s (meas1 0)).pentry 127) (header (meas1 0))) ∧
    (∀ ts ∈ [(0 : Word), 0xFFFFF000, 0x1000], let s := State.put (measured 0x10001 0x10000 portUp) [(R.SCH_RB 9 6, 0x80400000)]
     let u := after s (meas1 ts)
     Arrives s u (meas1 ts) 0x01 ∧ Placeable u (meas1 ts) 127 ∧ Ahead u (u.pentry 127) (header (meas1 ts)) ∧ u.takesInput 9 0 = true) ∧
    (let s := measured 0x10001 0x10000 portUp
     let u := after s (meas1 0)
     OnTime (u.pentry 127) (stampAt u (meas1 0)) (header (meas1 0)).ts ∧ u.takesInput 9 0 = false ∧ (u.pentry 127).maxage = 1 ∧ (u.pentry 127).maxlead = 1 ∧
     1 * 1000 < (stampAt u (meas1 0xFFFFF000) - (header (meas1 0xFFFFF000)).ts).toInt ∧ 1 * 1000 < -(stampAt u (meas1 0x1000) - (header (meas1 0x1000)).ts).toInt) := by
  refine ⟨⟨test_arrives _ _ _ (by decide +kernel), ⟨by decide +kernel, by decide +kernel⟩, by decide +kernel⟩,
    ⟨test_arrives _ _ _ (by decide +kernel), ⟨by decide +kernel, by decide +kernel⟩, by decide +kernel, by decide +kernel, by decide +kernel⟩, ?_, ?_, ?_⟩
  · refine ⟨(test_placeable _ _ (by decide +kernel) (by decide +kernel) (by decide +kernel) (by decide +kernel) (by decide +kernel) (by decide +kernel)).1,
      (test_placeable _ _ (by decide +kernel) (by decide +kernel) (by decide +kernel) (by decide +kernel) (by decide +kernel) (by decide +kernel)).2, ?_⟩
    intro h
    rcases h with h | h
    · revert h
      decide +kernel
    · have := h 5 (by decide +kernel)
      revert this
      decide +kernel
  · intro ts h
    simp only [List.mem_cons, List.not_mem_nil, or_false] at h
    rcases h with rfl | rfl | rfl <;> exact test_meas_at _ _ (by decide +kernel)
  · refine ⟨⟨fun _ => by decide +kernel, fun _ => by decide +kernel⟩, by decide +kernel⟩

/-- A placement for context 9 in the scratchpad of core 0. -/
def place1 (begun : Bool) (obj : Option Nat) : Placing := ⟨9, 0, 0, 0x40000000, 1536, obj, 127, InTag.none, 0, 0, 3, 3, 0, List.replicate 8 7, begun, false, false⟩

/-- Measurements: a placement that begins on an idle path, and ones that complete, with an object of the partition and with none, their write granted and held. -/
theorem test_witness_placing :
    (let s := spelled 0x40000000 16 (rtPart base)
     s.net.placing = [] ∧ (place1 false none).begun = false ∧ (s.rd R.ECC_INJCTL).getLsbD 31 = false ∧
     ((place1 false none).area + s.fillHalf 9 0 * 1536 = 0x40000000 ∧ 0x40000000 % 128 = 0 ∧ (place1 false none).subst = false) ∧ (∀ k, k < 40 → s.placeable 9 (0x40000000 + k) = true) ∧ s.backed 0x40000000 40 = true ∧
     ∀ w ∈ wordsOf 0x40000000 40, sound s w) ∧
    (∀ obj ∈ [none, some 1023], let s := { spelled 0x40000000 16 (rtPart base) with net := { base.net with placing := [place1 true obj] } }
     s.net.placing = [place1 true obj] ∧ (place1 true obj).begun = true ∧ (place1 true obj).addr % 128 = 0 ∧ (s.rd R.ECC_INJCTL).getLsbD 31 = false ∧
     s.backed (place1 true obj).addr 8 = true ∧ s.ctxPart 9 = some 0 ∧ s.hasCluster 0 (1023 / 1024) = true ∧
     s.heldOf ordPlace (s.claimsOf true (place1 true obj).addr 1) = [] ∧
     (let v := s.grantBus 0 (s.claimsOf true (place1 true obj).addr 1)
      v.net.placing = [place1 true obj] ∧ v.heldOf ordPlace (v.claimsOf true (place1 true obj).addr 1) ≠ []) ∧
     ∀ k, k < 8 → s.placeable 9 ((place1 true obj).addr + k) = true) := by
  refine ⟨⟨rfl, rfl, by decide +kernel, by decide +kernel, by decide +kernel, by decide +kernel, test_sound_list _ _ (by decide +kernel)⟩, ?_⟩
  decide +kernel

/-- A transaction's payload: an address, a length, and data. -/
def askOf (a len : Nat) (data : List Byte) : List Byte := beBytes 8 a ++ beBytes 4 len ++ [0, 0, 0, 0] ++ data

/-- What makes a frame be in turn under entry 127, many sources. -/
def inTurnB (u : State) (r : RxFrame) : Bool :=
  decide (carrGate false (header r) r.frame.body.length = none) && decide (u.match_ r (header r) = some 127) && decide ((u.pentry 127).act = 2) && typeLenOk (header r) &&
    decide ((header r).typ = 0x03 ∨ (header r).typ = 0x04 → 0 < beAt (header r).payload 8 4 ∧ beAt (header r).payload 8 4 ≤ 1024) &&
    decide (crc32c (header r).payload = (header r).crc) && (u.pentry 127).smany

theorem test_in_turn (u : State) (r : RxFrame) (h : inTurnB u r = true) : InTurn u r 127 := by
  simp only [inTurnB, Bool.and_eq_true, decide_eq_true_eq] at h
  obtain ⟨⟨⟨⟨⟨⟨h1, h2⟩, h3⟩, h4⟩, h5⟩, h6⟩, h7⟩ := h
  exact ⟨⟨h1, h2⟩, h3, h4, h5, h6, Or.inl h7⟩

/-- The TXN entry's window: 4 KiB of the scratchpad of core 0, RD and WR allowed. -/
def window (flags : Word) (s : State) : State := parsed 2 0xFF 0x40000000 0 (flags + 1) s

/-- A window over registers, and over the partner's memory. -/
def regWindow : State := parsed 2 0xFF 0x70000000 0 0xC0000001 portUp
def farWindow : State := parsed 2 0xFF 0 0x100 0x80000001 portUp

/-- Transactions: an RD and a WR in their window, outside it, in a hole, of a locked part; a WR that repeats the last one; a WR whose bytes are written. -/
theorem test_witness_txn :
    (let s := spelled 0x40000000 16 (window 0xC0000000 portUp)
     let r := carr 3 0x03 3 5 9 0 (askOf 0x40000000 8 [])
     let w := carr 3 0x04 3 5 9 0 (askOf 0x40000000 8 (List.replicate 8 1))
     (Arrives s (after s r) r 0x03 ∧ InTurn (after s r) r 127) ∧ (Arrives s (after s w) w 0x04 ∧ InTurn (after s w) w 127) ∧
     ((((after s r).pentry 127).rdok = true ∧ ((after s r).pentry 127).wrok = true) ∧ ((after s r).pentry 127).base ≤ 0x40000000 ∧
      0x40000000 + 8 ≤ ((after s r).pentry 127).base + ((after s r).pentry 127).size ∧ beAt (header r).payload 0 8 = 0x40000000 ∧ beAt (header w).payload 8 4 = 8) ∧
     (after s r).openRange 0x40000000 8 = true ∧ (∀ x ∈ wordsOf 0x40000000 8, sound (after s r) x) ∧
     ((after s w).lockedBy 0x40000000 8 = none ∧ s.net.txns = [] ∧ ((after s w).rd R.ECC_INJCTL).getLsbD 31 = false)) ∧
    (let r := carr 3 0x03 3 5 9 0 (askOf 0x70000000 8 [])
     let w := carr 3 0x04 3 5 9 0 (askOf 0x70000000 8 (List.replicate 8 1))
     let u := after regWindow r
     (Arrives regWindow u r 0x03 ∧ InTurn u r 127) ∧ (Arrives regWindow (after regWindow w) w 0x04 ∧ InTurn (after regWindow w) w 127) ∧
     ((u.pentry 127).rdok = true ∧ (u.pentry 127).wrok = true ∧ (u.pentry 127).base = 0x70000000 ∧ (u.pentry 127).size = 4096 ∧
      beAt (header r).payload 0 8 = 0x70000000 ∧ beAt (header w).payload 0 8 = 0x70000000 ∧ (after regWindow w).lockedBy 0x70000000 8 = none)) ∧
    (let r := carr 3 0x03 3 5 9 0 (askOf 0x10000000000 8 [])
     let u := after farWindow r
     (Arrives farWindow u r 0x03 ∧ InTurn u r 127) ∧
     ((u.pentry 127).rdok = true ∧ (u.pentry 127).base = partnerBase ∧ (u.pentry 127).size = 4096 ∧ beAt (header r).payload 0 8 = partnerBase)) ∧
    (let s := window 0 portUp
     let r := carr 3 0x03 3 5 9 0 (askOf 0x40000000 8 [])
     Arrives s (after s r) r 0x03 ∧ InTurn (after s r) r 127 ∧ ((after s r).pentry 127).rdok = false) ∧
    (let s := { window 0xC0000000 portUp with banks := [(bankKey 0 0, ⟨false, 0, false⟩)] }
     let r := carr 3 0x03 3 5 9 0 (askOf 0x40000000 8 [])
     Arrives s (after s r) r 0x03 ∧ InTurn (after s r) r 127 ∧ (after s r).openRange 0x40000000 8 = false) ∧
    (let s := { window 0xC0000000 portUp with boot := { portUp.boot with locks := [(7, [⟨0x40000000, 128, 1, 0⟩])] } }
     let w := carr 3 0x04 3 5 9 0 (askOf 0x40000000 8 (List.replicate 8 1))
     Arrives s (after s w) w 0x04 ∧ InTurn (after s w) w 127 ∧ (after s w).lockedBy 0x40000000 8 = some 7) ∧
    (let s := { State.put (window 0xC0000000 portUp) [(R.twin (R.CARR_PARSE 127 2), 0x22), (R.twin (R.CARR_PARSE 127 3), 0)] with
       net := { portUp.net with txnSeq := [(127, 5)], txnAns := [(127, 5, false, tx1 none none)] } }
     let w := carr 3 0x04 3 5 9 0 (askOf 0x40000000 8 (List.replicate 8 1))
     Arrives s (after s w) w 0x04 ∧ Matches (after s w) w 127 ∧ ((after s w).pentry 127).act = 2 ∧ ((after s w).pentry 127).smany = false ∧
     typeLenOk (header w) = true ∧ sizeOk (header w) ∧ crcOk (header w) ∧
     FMap.find (after s w).net.txnSeq 127 = some (header w).seq ∧ FMap.find (after s w).net.txnAns 127 = some (5, false, tx1 none none)) ∧
    (let x : Txn := ⟨0, ⟨3, 0x22, none, 3, 5⟩, 127, 9, 0, 0x40000000, [], true, none⟩
     ({ base with net := { base.net with txns := [x] } }).net.txns = [x] ∧ x.begun = true ∧ x.bad = none ∧ inRegs x.addr x.data.length = false ∧ inRegs 0x70000000 8 = true) := by
  have both (s : State) (r : RxFrame) (typ : Nat) (h : arrivesB s r typ = true ∧ inTurnB (after s r) r = true) :
      Arrives s (after s r) r typ ∧ InTurn (after s r) r 127 := ⟨test_arrives _ _ _ h.1, test_in_turn _ _ h.2⟩
  have three (s : State) (r : RxFrame) (typ : Nat) (p : Prop) (h : arrivesB s r typ = true ∧ inTurnB (after s r) r = true) (hp : p) :
      Arrives s (after s r) r typ ∧ InTurn (after s r) r 127 ∧ p := ⟨(both _ _ _ h).1, (both _ _ _ h).2, hp⟩
  refine ⟨⟨both _ _ _ ?_, both _ _ _ ?_, ?_, ?_, test_sound_list _ _ ?_, ?_⟩, ⟨both _ _ _ ?_, both _ _ _ ?_, ?_⟩, ⟨both _ _ _ ?_, ?_⟩,
    three _ _ _ _ ?_ ?_, three _ _ _ _ ?_ ?_, three _ _ _ _ ?_ ?_,
    ⟨test_arrives _ _ _ ?_, ⟨?_, ?_⟩, ?_, ?_, ?_, ?_, ?_, ?_⟩, ?_⟩
  all_goals first | decide +kernel | (unfold sizeOk; decide +kernel) | (unfold crcOk; decide +kernel)

/-- A request to peer 31 on port 3. -/
def req1 (kind : ReqKind) (tries : Nat) : Request := ⟨31, 5, kind, tries, 0, tx1 none none⟩

/-- Port 3 with peer 31 and its request. -/
def peered (kind : ReqKind) (tries : Nat) (raw : Dword) : State :=
  { State.put portUp [(R.twin (R.CARR_PEER 31), 0x22), (R.twin (R.CARR_PEER 31) + 4, 0x80030000)] with
    net := { portUp.net with requests := [req1 kind tries] }, tb := { Timebase.reset with raw := raw } }

/-- AnswersAndPeers: answers that end a request and that end none; requests that are out of time, for the first and the last time, and in time; a HELLO and an ATTEST; a
peer that has not answered, one that has. -/
theorem test_witness_answers :
    (∀ typ ∈ [0x05, 0x06], let r := carr 3 typ 3 5 9 0 []
     let s := peered .hello 1 0
     Arrives s (after s r) r typ ∧ carrGate false (header r) r.frame.body.length = none ∧ (after s r).answered r (header r) = some (req1 .hello 1) ∧
     (after portUp r).answered r (header r) = none) ∧
    (let r := carr 3 0x05 3 5 9 0 []
     (after (peered (.read 127) 1 0) r).answered r (header r) = some (req1 (.read 127) 1)) ∧
    (∀ tries ∈ [1, 3], let s := peered .hello tries 0x10000000
     s.findReq 31 5 = some (req1 .hello tries) ∧ s.txto ≤ (s.tb.raw - (req1 .hello tries).raw).toNat) ∧
    (let s := State.put (peered .hello 1 0) [(R.twin R.CARR_TXCFG, 0xFFFF0000)]
     s.findReq 31 5 = some (req1 .hello 1) ∧ (s.tb.raw - 0).toNat < s.txto) ∧
    (∀ x ∈ [(0x08, 8), (0x09, 32)], let s := parsed 2 0xFF 0 0 0 portUp
     let r := carr 3 x.1 3 5 9 0 (List.replicate x.2 2)
     Arrives s (after s r) r x.1 ∧ InTurn (after s r) r 127 ∧ (after s r).boot.secOp = none ∧ (after s r).escalated 7 0 0 = false) ∧
    (let r := carr 3 0x08 3 5 9 0 (List.replicate 8 2)
     (header r).flags.testBit 15 = false ∧ (peered .hello 1 0).peerOf r.port r.frame.src = some 31) ∧
    (let s := peered .hello 1 0
     s.net.greeted.testBit 31 = false ∧ (s.peer 31).getLsbD 63 = true ∧ s.linkUp ((s.peer 31).toNat / 2 ^ 48 % 4) = true) ∧
    ({ base with net := { base.net with greeted := 2 ^ 32 } }).net.greeted.testBit 32 = true ∧ (booting fun b => { b with secOp := some (.arb 3) }).boot.secOp ≠ none := by
  refine ⟨fun typ h => ⟨test_arrives _ _ _ ?_, ?_, ?_, ?_⟩, by decide +kernel, by decide +kernel, by decide +kernel, fun x h => ⟨test_arrives _ _ _ ?_, test_in_turn _ _ ?_, ?_, ?_⟩,
    by decide +kernel, by decide +kernel, by decide +kernel, by decide +kernel⟩
  any_goals (revert typ; decide +kernel)
  all_goals (revert x; decide +kernel)

/-- ParseGroup: a group that is accepted, and one at fault for each code. -/
theorem test_witness_parse : base.hostWrites = true ∧ base.carrCode.1 = 0 ∧
    (let s := State.put base [(R.CARR_PARSE 127 0, 0x07000000)]
     (s.pshadow 127).actOk = false ∧ s.carrCode.1 ≠ 0) ∧
    (let s := State.put base [(R.CARR_PARSE 127 0, 1)]
     (s.pshadow 127).ctxhi < (s.pshadow 127).ctxlo) ∧
    (let s := State.put base [(R.CARR_PARSE 127 0, 0x01010000), (R.CARR_PARSE 127 4, 1)]
     (s.pshadow 127).act = 1 ∧ (s.pshadow 127).hlen % 128 ≠ 0) ∧
    (let s := State.put base [(R.CARR_PARSE 127 0, 0x01010000), (R.CARR_PARSE 127 1, 0x0FFF0000), (R.CARR_PARSE 127 6, 0xFFFF)]
     s.pobjOk (s.pshadow 127) = false) ∧
    (let et := (State.put base [(R.CARR_CFG, 0x08000000)]).field R.CARR_CFG 16 16
     et = 0x0800) ∧
    (State.put base [(R.CARR_PARSE 127 0, 0x80000000)]).pentry 127 ≠ (State.put base [(R.CARR_PARSE 127 0, 0x80000000)]).pshadow 127 := by decide +kernel

end Sys2Proof.Tests
/-! ## Hypotheses met: the pair -/

namespace Sys2Proof.Tests

/-- The machine with MIR_STAT, and with the pair's part replaced. -/
def pairStat (v : Word) : State := State.put base [(R.MIR_STAT, v)]
def paired (f : Pair → Pair) (s : State) : State := { s with pair := f s.pair }

/-- A Carr frame on lane 0 with some FLAGS. -/
def lane (typ flags : Nat) (payload : List Byte) : RxFrame :=
  ⟨4, 0, ⟨0, 0x22, none, false, 0x88B5, carrBytes 3 typ flags 5 0 0 0 payload, 46 + payload.length, true⟩⟩

theorem test_of_le4 (c : Word) : w32 (ofLe (leBytes 4 c.toNat)) = c := by
  apply BitVec.eq_of_toNat_eq
  have h := c.isLt
  simp [leBytes, ofLe, w32]
  omega

theorem test_lane_parts (typ flags : Nat) (p : List Byte) (h : p.length < 65536) :
    (header (lane typ flags p)).payload = p ∧ (header (lane typ flags p)).len = p.length ∧ (header (lane typ flags p)).crc = crc32c p := by
  have hb : padTo 28 (carrBytes 3 typ flags 5 0 0 0 p) = carrBytes 3 typ flags 5 0 0 0 p := by
    simp [padTo, carrBytes, beBytes, leBytes]
  have hl : beAt (carrBytes 3 typ flags 5 0 0 0 p) 10 2 = p.length := by
    simp [carrBytes, beBytes, leBytes, beAt, slice, ofBe, ofLe]
    omega
  simp only [header, Carr.parse, lane, hb, hl]
  refine ⟨?_, trivial, ?_⟩
  · simp [carrBytes, beBytes, leBytes, slice]
  · have hd : (carrBytes 3 typ flags 5 0 0 0 p).drop (24 + p.length) = leBytes 4 (crc32c p).toNat := by
      rw [Nat.add_comm 24]
      simp [carrBytes, beBytes, leBytes]
    rw [leAt, slice, hd]
    exact test_of_le4 _
theorem test_lane_crc (typ flags : Nat) (p : List Byte) (h : p.length < 65536) : crc32c (header (lane typ flags p)).payload = (header (lane typ flags p)).crc := by
  rw [(test_lane_parts typ flags p h).1, (test_lane_parts typ flags p h).2.2]

def onLaneB (s : State) (r : RxFrame) (typ : Nat) : Bool :=
  decide (4 ≤ r.port) && decide (r.port < 6) && s.laneUp (r.port - 4) && r.frame.fcsOk && decide (r.frame.len ≤ 1518) && decide (r.frame.etype.toNat = s.etype) &&
    decide (FMap.find s.pair.partials (r.port - 4) = none) && decide ((header r).typ = typ) && decide (carrGate true (header r) r.frame.body.length = none)

theorem test_on_lane (s : State) (r : RxFrame) (typ : Nat) (h : onLaneB s r typ = true) : OnLane s r typ := by
  simp only [onLaneB, Bool.and_eq_true, decide_eq_true_eq] at h
  obtain ⟨⟨⟨⟨⟨⟨⟨⟨h1, h2⟩, h3⟩, h4⟩, h5⟩, h6⟩, h7⟩, h8⟩, h9⟩ := h
  exact ⟨⟨h1, h2, h3⟩, ⟨h4, h5, h6⟩, h7, h8, h9⟩

/-- A MIRROR frame with one item. -/
def item1 (sub : Nat) (item : List Byte) : RxFrame := lane 0x0A 0 ([BitVec.ofNat 8 sub, 1, 0, 0] ++ item)

def mirrorsB (s : State) (r : RxFrame) (sub size : Nat) : Bool :=
  onLaneB s r 0x0A && decide (beAt (header r).payload 0 1 = sub) && decide ((header r).len = 4 + beAt (header r).payload 1 1 * size)

theorem test_mirrors (s : State) (sub size : Nat) (item : List Byte) (hl : item.length < 65532) (h : mirrorsB s (item1 sub item) sub size = true) :
    Mirrors s (item1 sub item) sub size := by
  simp only [mirrorsB, Bool.and_eq_true, decide_eq_true_eq] at h
  obtain ⟨⟨h1, h2⟩, h3⟩ := h
  exact ⟨test_on_lane _ _ _ h1, h2, h3, test_lane_crc _ _ _ (by simp; omega)⟩

/-- HeartbeatsAndDrive: a heartbeat of the other role and of the own; misses of each number, with and without a bar; parts that drive and that do not. -/
theorem test_witness_heartbeat :
    (let s := pairStat 0x14000300
     let r := item1 1 (leBytes 4 0xC0000000 ++ List.replicate 76 0)
     Mirrors s r 1 80 ∧ beAt (header r).payload 1 1 = 1 ∧ (header r).payload.length = 84 ∧ (w32 (leAt (itemAt r 80 0) 0 4)).getLsbD 31 ≠ s.isSecondary ∧
     (w32 (leAt (itemAt r 80 0) 0 4)).getLsbD 31 = (pairStat 0x94000300).isSecondary ∧ Mirrors (pairStat 0x94000300) r 1 80) ∧
    (let s := { paired (fun p => { p with hbOpen := true }) (pairStat 0x26000000) with tb := { Timebase.reset with raw := 65535000 } }
     s.pair.hbOpen = true ∧ s.pstate ≠ 0 ∧ fld (s.act R.MIR_CFG) 0 16 * 1000 ≤ (s.tb.raw - s.pair.hbRaw).toNat ∧ s.field R.MIR_STAT 24 2 = 2 ∧ s.drives = false ∧
     s.laneUp 0 = true ∧ s.skewBars = false) ∧
    (let s := State.put (pairStat 0x22000000) [(R.twin R.MIR_CFG, 0)]
     s.laneUp 0 = false ∧ s.laneUp 1 = false ∧ (s.act R.MIR_CFG).getLsbD 30 = false ∧ s.field R.MIR_STAT 24 2 = 2) ∧
    (pairStat 0x21000000).field R.MIR_STAT 24 2 ≠ 2 ∧ base.pair.hbOpen = false ∧ base.hostWrites = true ∧ (pairStat 0x20000000).drives = false ∧
    ((pairStat 0x60000000).drives = true ∧ (pairStat 0x60000000).pstate = 2 ∧ (pairStat 0x60000000).pair.giving = none) := by
  refine ⟨⟨test_mirrors _ _ _ _ (by decide +kernel) (by decide +kernel), by decide +kernel, by decide +kernel, by decide +kernel, by decide +kernel, test_mirrors _ _ _ _ (by decide +kernel) (by decide +kernel)⟩,
    by decide +kernel, by decide +kernel, by decide +kernel, by decide +kernel, by decide +kernel, by decide +kernel, by decide +kernel⟩

/-- A real-time partition with an anchor of group 0, and a mirror group over it. -/
def anchored (rs : List (Nat × Word)) : State :=
  State.put (rtPart base) ([(R.twin (R.TB_EVT 0 0), 0x81000000), (R.twin (R.SCH_FLEN_F 0), 4096), (R.MIR_CFG, 1), (R.MIR_FWDCFG, 0x00010001)] ++ rs)

/-- LanesAndMirrorGroup: lanes that may come up, alone and beside the other, and that are up; a group with each code; groups that wait, off and at the heartbeat anchor. -/
theorem test_witness_lanes :
    (let s := pairStat 0x10000000
     s.laneUp 1 = false ∧ s.laneUp 0 = false ∧ s.pstate ≠ 0 ∧ s.running = true ∧ s.netOn (4 + 1) = true) ∧ (pairStat 0x14000000).laneUp 0 = true ∧
    (pairStat 0x18000000).laneUp 1 = true ∧ ((pairStat 0).pstate = 0 ∧ (pairStat 0).laneUp 1 = false) ∧ (base.rd R.MIR_STATUS).getLsbD 31 = false ∧
    base.partOn (hbPart (base.rd R.MIR_CFG)) = false ∧ (anchored []).mirCode = 0 ∧ fld ((anchored [(R.MIR_CFG, 0)]).rd R.MIR_CFG) 0 16 = 0 ∧
    (anchored [(R.MIR_CFG, 0)]).mirCode = 2 ∧ ((anchored [(R.MIR_POL 63 + 4, 1)]).rd (R.MIR_POL 63 + 4) ≠ 0 ∧ (anchored [(R.MIR_POL 63 + 4, 1)]).mirCode = 3) ∧
    ((anchored [(R.MIR_FWDCFG, 0x10000)]).field R.MIR_FWDCFG 0 16 = 0 ∧ (anchored [(R.MIR_FWDCFG, 0x10000)]).mirCode = 4) ∧
    (let s := State.put base [(R.MIR_STATUS, 0x80000000), (R.MIR_CFG, 0)]
     (s.rd R.MIR_STATUS).getLsbD 31 = true ∧ (s.rd R.MIR_CFG).getLsbD 31 = false ∧ (s.act R.MIR_CFG).getLsbD 31 = false) ∧
    (let s := sched (fun c => { c with frames := [(0, frame0)] }) (anchored [(R.MIR_STATUS, 0x80000000), (R.MIR_CFG, 0x80000001)])
     (s.rd R.MIR_STATUS).getLsbD 31 = true ∧ (s.rd R.MIR_CFG).getLsbD 31 = true ∧ (s.act R.MIR_CFG).getLsbD 31 = false ∧
     FMap.find s.sch.frames (4 * hbPart (s.rd R.MIR_CFG) + hbGrp (s.rd R.MIR_CFG)) = some frame0 ∧ frame0.trueRaw = s.tb.raw) := by decide +kernel

/-- A record of step 1 of context 9's job 3. -/
def rec9 (kind ord : Nat) (poison : Bool) (digest extra : Dword) : DigRec := ⟨kind, poison, false, 3, 0, 0, 9, ord, 2, 1, digest, extra⟩

/-- Records of both parts. -/
def judged (own theirs : List DigRec) : State :=
  { pairStat 0x2C000300 with dig := ⟨[], [], own⟩, pair := { Pair.reset with theirs := theirs, sumRaw := [(39, 0)] } }

/-- The verdicts: torn, without the partner's sum, unequal programs, poison, equal, different; a record that arrives, of a step that is settled and that is not; a window that
has ended and one that has not. -/
theorem test_witness_verdicts :
    (∃ r ∈ ofStep (judged [rec9 4 0 false 0 0] []).dig.own 9 3 1 ++ ofStep (judged [rec9 4 0 false 0 0] []).pair.theirs 9 3 1, r.kind = 4) ∧
    (∀ r ∈ ofStep (judged [rec9 3 0 false 0 0] []).pair.theirs 9 3 1, r.kind ≠ 3) ∧
    (let own := [rec9 0 0 false 7 0, rec9 3 1 false 0 5]
     ∀ theirs ∈ [[rec9 3 1 false 0 6], [rec9 3 1 true 0 5], [rec9 0 0 false 7 0, rec9 3 1 false 0 5], [rec9 0 0 false 8 0, rec9 3 1 false 0 5]],
      let s := judged own theirs
      ofStep s.dig.own 9 3 1 = own ∧ ofStep s.pair.theirs 9 3 1 = theirs ∧ (∀ r ∈ own ++ theirs, r.kind ≠ 4) ∧
      (own.find? fun r => r.kind == 3) = some (rec9 3 1 false 0 5) ∧ (theirs.find? fun r => r.kind == 3).isSome = true) ∧
    lowestDiff [rec9 0 0 false 7 0, rec9 3 1 false 0 5] [rec9 0 0 false 8 0, rec9 3 1 false 0 5] = some (rec9 0 0 false 7 0, rec9 0 0 false 8 0) ∧
    (let s := judged [] []
     let r := item1 2 (rec9 3 1 false 0 5).bytes
     Mirrors s r 2 32 ∧ beAt (header r).payload 1 1 = 1 ∧ s.paired = true ∧ DigRec.ofItem (itemAt r 32 0) = rec9 3 1 false 0 5 ∧
     FMap.find s.pair.settled 39 ≠ some 1 ∧ base.paired = false) ∧
    (let s := { State.put (judged [rec9 3 1 false 0 5] []) [(R.twin R.MIR_FWDCFG, 0x00010001)] with tb := { Timebase.reset with raw := 1000 } }
     s.paired = true ∧ FMap.find s.pair.sumRaw (4 * 9 + 3) = some 0 ∧ (s.dig.own.find? fun r => r.ctx == 9 && r.job == 3 && r.kind == 3) = some (rec9 3 1 false 0 5) ∧
     fld (s.act R.MIR_FWDCFG) 16 16 * 1000 ≤ (s.tb.raw - 0).toNat) ∧
    ((State.put base [(R.twin R.MIR_FWDCFG, 0x00010001)]).tb.raw - 0).toNat < fld ((State.put base [(R.twin R.MIR_FWDCFG, 0x00010001)]).act R.MIR_FWDCFG) 16 16 * 1000 := by
  refine ⟨by decide +kernel, by decide +kernel, by decide +kernel, by decide +kernel, ⟨test_mirrors _ _ _ _ (by decide +kernel) (by decide +kernel), by decide +kernel, by decide +kernel, by decide +kernel,
    by decide +kernel, by decide +kernel⟩, by decide +kernel, by decide +kernel⟩

/-- An input notice of SEQ 5 with a CRC and a length. -/
def note1 (crc : Word) (len : Nat) : RxFrame := item1 3 (askItem 9 3 5 ++ List.replicate 8 0 ++ leBytes 4 crc.toNat ++ leBytes 2 len ++ [0, 0])

/-- The fill half of context 9's job holds SEQ 5 of eight bytes. -/
def tagged (job : Nat) (s : State) : State := { s with net := { s.net with tags := [(tagKey 9 job 0, ⟨5, 8, 1, true, false, false, 0, 0⟩)] } }

/-- ForwardedInputs: items old enough to leave; notices that agree, that differ, and of an input not placed; a wait that has ended, one that has not; requests for an input held and
not held; a forwarded input whole, its first part and its second; a part too old, one that is not, and none. -/
theorem test_witness_forward :
    (let s := { paired (fun p => { p with items := [(3, [([1], 0)]), (4, [([1], 0)])] }) (pairStat 0x2C000300) with
       dig := ⟨[], [(rec9 0 0 false 0 0, 0)], []⟩, tb := { Timebase.reset with raw := 500 } }
     (∀ sub ∈ [2, 3, 4], (s.laneFor (sub == 2)).isSome = true ∧ ∃ x ∈ (s.waitingItems sub).head?, 500 ≤ (s.tb.raw - x.2).toNat) ∧ s.paired = true ∧
     s.laneFor true ≠ s.laneFor false ∧ base.waitingItems 4 = []) ∧
    (let s := pairStat 0x2C000300
     (∀ c ∈ [(1, 8), (2, 9)], Mirrors s (note1 c.1 c.2) 3 24 ∧ beAt (header (note1 c.1 c.2)).payload 1 1 = 1 ∧ w32 (leAt (itemAt (note1 c.1 c.2) 24 0) 4 4) = 5) ∧
     (tagged 3 s).placedSeq 9 3 5 = some (1, 8) ∧ s.placedSeq 9 3 5 = none ∧ FMap.find s.net.measSeq (streamKey 9 3) = none ∧ s.pair.waits = []) ∧
    (let s := paired (fun p => { p with waits := [(39, 5, 0)] }) (State.put (pairStat 0x2C000300) [(R.twin R.MIR_FWDCFG, 1)])
     s.pair.waits.find? (fun x => x.1 == 4 * 9 + 3 && x.2.1 == 5) = some (4 * 9 + 3, 5, 0) ∧ (s.tb.raw - 0).toNat < fld (s.act R.MIR_FWDCFG) 0 16 * 100 ∧
     fld ((pairStat 0x2C000300).act R.MIR_FWDCFG) 0 16 * 100 ≤ (100000000 : Dword).toNat) ∧
    (Mirrors (pairStat 0x2C000300) (item1 4 (askItem 9 3 5)) 4 8 ∧ beAt (header (item1 4 (askItem 9 3 5))).payload 1 1 = 1) ∧
    (let s := spelled 0x40000000 16 (tagged 0 (parsed 1 0x01 0 0 0 (rtPart base)))
     s.placeEntry 9 0 = some 127 ∧ (s.tag 9 0 (s.fillHalf 9 0)).complete = true ∧ (s.tag 9 0 (s.fillHalf 9 0)).seq = 5 ∧
     s.inputArea 9 (s.pentry 127) + s.fillHalf 9 0 * (s.pentry 127).hlen = 0x40000000 ∧ s.openRange 0x40000000 40 = true ∧ (∀ w ∈ wordsOf 0x40000000 40, sound s w) ∧
     (base.tag 9 0 0).complete = false) := by
  refine ⟨by decide +kernel, ⟨fun c h => ?_, by decide +kernel, by decide +kernel, by decide +kernel, by decide +kernel⟩, by decide +kernel,
    ⟨test_mirrors _ _ _ _ (by decide +kernel) (by decide +kernel), by decide +kernel⟩, ⟨by decide +kernel, by decide +kernel, by decide +kernel, by decide +kernel, by decide +kernel,
      test_sound_list _ _ (by decide +kernel), by decide +kernel⟩⟩
  simp only [List.mem_cons, List.not_mem_nil, or_false] at h
  rcases h with rfl | rfl <;> exact ⟨test_mirrors _ _ _ _ (by decide +kernel) (by decide +kernel), by decide +kernel, by decide +kernel⟩

/-- The first part of a forwarded input, with FRAG, and its last byte. -/
def part1 : RxFrame := lane 0x0A 0x1000 ([5, 1, 0, 0] ++ List.replicate 1468 0)
def part2 : RxFrame := lane 0x0A 0 [5, 1, 0x05, 0xBC, 7]

theorem test_part1_len : (([5, 1, 0, 0] : List Byte) ++ List.replicate 1468 0).length = 1472 := by
  rw [List.length_append, List.length_replicate]; rfl

/-- ForwardedInputs: the item whole and in parts. -/
theorem test_witness_parts :
    (let r := lane 0x0A 0 ([5, 1, 0, 0] ++ List.replicate 32 0)
     OnLane (pairStat 0x2C000300) r 0x0A ∧ beAt (header r).payload 0 1 = 5 ∧ beAt (header r).payload 2 2 = 0 ∧ 4 ≤ (header r).len ∧ crc32c (header r).payload = (header r).crc ∧
     (header r).flags.testBit 12 = false ∧ (header r).len = 36 + leAt ((header r).payload.drop 4) 4 2) ∧
    (OnLane (pairStat 0x2C000300) part1 0x0A ∧ beAt (header part1).payload 0 1 = 5 ∧ beAt (header part1).payload 2 2 = 0 ∧
     crc32c (header part1).payload = (header part1).crc ∧ (header part1).flags.testBit 12 = true ∧ (header part1).len = 1472) ∧
    (let b := [0, 0, 0, 0, 0x9D, 0x05] ++ List.replicate 1462 (0 : Byte)
     let s := paired (fun p => { p with partials := [(0, (b, 0))] }) (pairStat 0x2C000300)
     s.laneUp (part2.port - 4) = true ∧ (header part2).typ = 0x0A ∧ carrGate true (header part2) part2.frame.body.length = none ∧ beAt (header part2).payload 0 1 = 5 ∧
     beAt (header part2).payload 2 2 = 1468 ∧ FMap.find s.pair.partials 0 = some (b, 0) ∧ 1436 < leAt b 4 2 ∧ (header part2).len = 4 + (32 + leAt b 4 2) - 1468 ∧
     crc32c (header part2).payload = (header part2).crc ∧ (s.tb.raw - 0).toNat < 10000 ∧ 10000 ≤ (10000 : Dword).toNat) ∧
    FMap.find base.pair.partials 1 = none := by
  refine ⟨⟨test_on_lane _ _ _ (by decide +kernel), by decide +kernel, by decide +kernel, by decide +kernel, test_lane_crc _ _ _ (by decide), by decide +kernel, by decide +kernel⟩,
    ⟨test_on_lane _ _ _ (by decide +kernel), by decide +kernel, by decide +kernel, test_lane_crc _ _ _ (by rw [test_part1_len]; decide), by decide +kernel, ?_⟩, by decide +kernel, rfl⟩
  exact (test_lane_parts _ _ _ (by rw [test_part1_len]; decide)).2.1.trans test_part1_len

/-- PartnerReads: of registers, of memory, and of a hole. -/
theorem test_witness_partner : (∀ a ∈ [0x70000000, 0x7FFFFFF8, 0x40000000, 0x80000000], let r := lane 0x03 0 (askOf a 8 [])
      OnLane (pairStat 0x2C000300) r 0x03 ∧ (header r).len = 16 ∧ crc32c (header r).payload = (header r).crc ∧ beAt (header r).payload 0 8 = a ∧ beAt (header r).payload 8 4 = 8) ∧
    (spelled 0x40000000 1 (pairStat 0x2C000300)).openRange 0x40000000 8 = true ∧ (∀ w ∈ wordsOf 0x40000000 8, sound (spelled 0x40000000 1 (pairStat 0x2C000300)) w) ∧
    (pairStat 0x2C000300).openRange 0x80000000 8 = false := by
  refine ⟨fun a h => ?_, by decide +kernel, test_sound_list _ _ (by decide +kernel), by decide +kernel⟩
  simp only [List.mem_cons, List.not_mem_nil, or_false] at h
  rcases h with rfl | rfl | rfl | rfl <;> exact ⟨test_on_lane _ _ _ (by decide +kernel), by decide +kernel, by decide +kernel, by decide +kernel, by decide +kernel⟩

end Sys2Proof.Tests
/-! ## Hypotheses met: the host interface, events, the whole -/

namespace Sys2Proof.Tests

/-- A word of the register map that the host reaches in this state. -/
def reachedB (s : State) (off : Nat) (f : RegWord → Bool) : Bool :=
  s.hostOn && s.hostReach off && (match RegMap.word off with
    | some w => f w
    | none => false)

theorem test_reached (s : State) (off : Nat) (f : RegWord → Bool) (h : reachedB s off f = true) : ∃ w, Reached s off w ∧ f w = true := by
  unfold reachedB at h
  split at h
  · rename_i w hw
    simp only [Bool.and_eq_true] at h
    exact ⟨w, ⟨h.1.1, hw, h.1.2⟩, h.2⟩
  · simp at h

/-- RegisterReads: words of each kind: both words of a 64-bit register, with and without a latch, an RC word, counted in this cycle and not, another, an offset without a
word; words that are shown and that are not. -/
theorem test_witness_reads :
    (∃ w, Reached base R.TB_SNAP_RAW w ∧ (w.wide && w.idx == 0) = true) ∧ (∃ w, Reached base (R.TB_SNAP_RAW + 4) w ∧ (w.wide && w.idx != 0) = true) ∧
    FMap.find ({ base with latch := [(R.TB_SNAP_RAW, 7)] }).latch (R.TB_SNAP_RAW + 4 - 4) = some 7 ∧ FMap.find base.latch R.TB_SNAP_RAW = none ∧
    (∃ w, Reached base R.GLB_TMAX w ∧ (!w.wide && w.acc == .rc) = true) ∧ (∃ w, Reached base R.GLB_TWARN w ∧ (!w.wide && w.acc != .rc) = true) ∧
    base.present R.GLB_TMAX = true ∧ (base.hostOn = true ∧ RegMap.word 0xFFFFFC = none) ∧
    (base.present R.GLB_TWARN = true ∧ base.hostReach R.GLB_TWARN = true ∧ eccHole R.GLB_TWARN = false ∧ base.shown R.GLB_TWARN = none) ∧
    (∃ w, Reached base R.GLB_COMMIT w ∧ (w.acc == .wo) = true) ∧ FMap.find base.cyc.incs R.GLB_TMAX = none ∧
    (FMap.find ({ base with cyc := { base.cyc with incs := [(R.GLB_TMAX, 1, 2)] } }).cyc.incs R.GLB_TMAX).isSome = true := by
  refine ⟨test_reached _ _ _ (by decide +kernel), test_reached _ _ _ (by decide +kernel), by decide +kernel, by decide +kernel, test_reached _ _ _ (by decide +kernel),
    test_reached _ _ _ (by decide +kernel), by decide +kernel, by decide +kernel, by decide +kernel, test_reached _ _ _ (by decide +kernel), by decide +kernel⟩

/-- RegisterWrites: words of each access; a staged group that waits and one that does not; an image of a partition whose load waits and of one whose
load does not; the words with a meaning of their own. -/
theorem test_witness_writes : (7 : BitVec 4) ≠ 0xF ∧
    (∃ w, Reached base R.GLB_ID w ∧ (w.acc == .ro) = true) ∧
    (∃ w, Reached base R.TB_FLAGS w ∧ (w.acc == .w1c) = true) ∧ (base.present R.TB_FLAGS = true ∧ eccHole R.TB_FLAGS = false ∧ R.TB_FLAGS ≠ R.MIR_DIVCLR) ∧
    (∃ w, Reached base (R.ETH_CFG 3) w ∧ (w.acc == .stg) = true) ∧ (base.present (R.ETH_CFG 3) = true ∧ eccHole (R.ETH_CFG 3) = false) ∧
    base.groupPending (R.ETH_CFG 3) = false ∧ (State.put base [(R.ETH_STATUS 3, 0x80000000)]).groupPending (R.ETH_CFG 3) = true ∧ base.fuses.artsig = false ∧
    (∃ w, Reached base (R.DMA_CHCFG 15 7) w ∧ (w.acc == .rw) = true) ∧ (base.present (R.DMA_CHCFG 15 7) = true ∧ eccHole (R.DMA_CHCFG 15 7) = false ∧
      R.DMA_CHCFG 15 7 / 0x100000 ∉ ([1, 6, 9, 13, 15] : List Nat)) ∧
    (∃ w, Reached base (R.SCH_PIMG 7 8191) w ∧ (w.acc == .rw) = true) ∧ (base.present (R.SCH_PIMG 7 8191) = true ∧ eccHole (R.SCH_PIMG 7 8191) = false ∧
      0x140000 ≤ R.SCH_PIMG 7 8191 ∧ R.SCH_PIMG 7 8191 < 0x180000 ∧ base.loadPending 7 = false ∧ (State.put base [(R.SCH_LSTAT, 128)]).loadPending 7 = true) ∧
    (base.hostOn = true ∧ base.running = true ∧ base.present (R.DMA_CHCTL 15 7) = true ∧ (0x60000000 : Word).toNat / 2 ^ 28 ∉ ([1, 2, 3, 4, 5] : List Nat) ∧
      base.present (R.ECC_SCRUB_EN 144) = true) ∧
    (∃ w, Reached base R.GLB_COMMIT w ∧ (w.acc == .wo) = true) ∧ R.GLB_COMMIT / 0x100000 ≠ 8 := by
  refine ⟨by decide, test_reached _ _ _ (by decide +kernel), test_reached _ _ _ (by decide +kernel), by decide +kernel, test_reached _ _ _ (by decide +kernel), by decide +kernel,
    by decide +kernel, by decide +kernel, by decide +kernel, test_reached _ _ _ (by decide +kernel), by decide +kernel, test_reached _ _ _ (by decide +kernel), by decide +kernel, by decide +kernel,
    test_reached _ _ _ (by decide +kernel), by decide⟩

/-- WindowAccesses: a read and a write of eight bytes, granted and held; offsets that nothing maps; a locked part; a device in QUIESCE is not this one; the three windows. -/
theorem test_witness_window : let s := spelled 0x40000000 16 base
    s.hostOn = true ∧ s.quiet = false ∧ s.bar2Range 0 8 = some 0x40000000 ∧ (∀ w ∈ wordsOf 0x40000000 8, sound s w) ∧ s.bar2Range 0x10000000 8 = none ∧
    s.lockOf 0x40000000 (List.replicate 8 (some 1)) = none ∧ 0x40000000 % 8 = 0 ∧ (s.rd R.ECC_INJCTL).getLsbD 31 = false ∧
    (∀ i, i < 8 → (List.replicate 8 (some (1 : Byte))).getD i none ≠ none) ∧
    (let u := { s with boot := { s.boot with locks := [(7, [⟨0x40000000, 128, 1, 0⟩])] } }
     u.lockOf 0x40000000 (List.replicate 8 (some 1)) = some 7 ∧ u.bar2Range 0 8 = some 0x40000000) ∧ s.hostWrites = true ∧
    (s.heldOf ordHost (s.claimsOf false 0x40000000 1) = [] ∧ s.heldOf ordHost (s.claimsOf true 0x40000000 1) = [] ∧
     (let v := onBus s
      v.heldOf ordHost (v.claimsOf false 0x40000000 1) ≠ [] ∧ v.bar2Range 0 8 = some 0x40000000 ∧ v.hostOn = true ∧ v.quiet = false) ∧
     (let v := s.grantBus 0 (s.claimsOf true 0x40000000 1)
      v.heldOf ordHost (v.claimsOf true 0x40000000 1) ≠ [] ∧ v.lockOf 0x40000000 (List.replicate 8 (some 1)) = none)) ∧
    (s.bar2Addr 0x07FFFFFF).isSome = true ∧ (s.bar2Addr 0x0FFFFFFF).isSome = true ∧ ((State.put base [(R.PCI_STAT, 29)]).bar2Addr 0x10000000).isSome = true := by
  refine ⟨?_, ?_, ?_, test_sound_list _ _ ?_, ?_⟩ <;> decide +kernel

/-- FunctionResets: the link up with nothing outstanding, down, and held by PERST_N; config requests in time. -/
theorem test_witness_function : let up := State.put base [(R.PCI_STAT, 0x8000001C)]
    (up.boot.held = [] ∧ up.pcieUp = true ∧ up.host.outbound = []) ∧ (base.pcieUp = false ∧ base.host.perst = false) ∧
    ({ base with host := { base.host with perst := true } }).host.perst = true ∧ 20000000 ≤ ({ up with tb := { up.tb with raw := 20000000 } }).tb.raw.toNat := by decide +kernel

/-- OutboundReads: reads of a channel and of a ring, in time and late; a channel that waits for one; a tag that is free. -/
theorem test_witness_outbound :
    (let o : Outbound := ⟨255, .dma 127, 0, 64, 0⟩
     ({ base with host := { base.host with outbound := [o] } }).host.outbound.find? (fun x => x.tag == o.tag) = some o ∧ o.who = .dma 127) ∧
    (let o : Outbound := ⟨255, .txEntry, 0, 32, 0⟩
     let s := { base with host := { base.host with outbound := [o] } }
     s.host.outbound.find? (fun x => x.tag == o.tag) = some o ∧ s.net.rxWait = [] ∧ s.dma = [] ∧ (s.tb.raw - o.raw).toNat < ctoNs s.host.cto ∧
     ctoNs s.host.cto ≤ (10000000 : Dword).toNat) ∧
    (∀ k, Requester.txEntry ≠ .dma k) ∧
    (let s := onDma { chan1 with segs := [⟨some 255, 2 ^ 63, 0x40000000, 64, none, 0⟩] }
     (s.dmaOf 0).segs.find? (fun x => x.tag == some 255) = some ⟨some 255, 2 ^ 63, 0x40000000, 64, none, 0⟩ ∧ (s.dmaOf 0).st = .run) ∧ base.host.outbound = [] := by
  refine ⟨by decide +kernel, by decide +kernel, ?_, by decide +kernel, rfl⟩
  intro k h; cases h

/-- EventLog: a record that is written; nothing to write; a record that waits for its signal, with and without coalescing; a group of each code. -/
theorem test_witness_log :
    (let s := { State.put base [(R.twin R.GLB_LOGCFG, 0x80000000), (R.GLB_MEM, 4)] with log := ⟨[⟨List.replicate 8 1, false⟩], false, []⟩ }
     s.running = true ∧ (s.act R.GLB_LOGCFG).getLsbD 31 = true ∧ s.field R.GLB_MEM 0 8 ≠ 0 ∧ s.logUnread < 4096 ∧ (s.rd R.ECC_INJCTL).getLsbD 31 = false ∧
     0x1000000000 + (s.act64 R.GLB_LOGBASE).toNat / 2 ^ 17 * 2 ^ 17 % 2 ^ 36 + 32 * ((s.rd R.GLB_LOGWR).toNat % 4096) = 0x1000000000 ∧ s.openRange 0x1000000000 32 = true) ∧
    base.log.queue = [] ∧
    (let s := fun cfg => { State.put base [(R.twin R.GLB_LOGCFG, cfg), (R.GLB_LOGWR, 2)] with log := ⟨[], false, [(1, 0)]⟩, tb := { Timebase.reset with raw := 10000 } }
     ((1 : Word) - (s 0).rd R.GLB_LOGRD).toNat < (s 0).logUnread ∧ fld ((s 0).act R.GLB_LOGCFG) 12 7 = 0 ∧ ((1 : Word) - (s 0x1000).rd R.GLB_LOGRD).toNat < (s 0x1000).logUnread ∧
     fld ((s 0x1000).act R.GLB_LOGCFG) 12 7 = 1 ∧ 1 * 10000 ≤ ((s 0x1000).tb.raw - 0).toNat) ∧
    base.hostWrites = true ∧ (base.rd R.GLB_STATUS).getLsbD 31 = false ∧ base.logCode = 0 ∧
    (let s := State.put base [(R.GLB_LOGCFG, 0x80000000), (R.GLB_MEM, 0)]
     (s.rd R.GLB_LOGCFG).getLsbD 31 = true ∧ s.field R.GLB_MEM 0 8 = 0) ∧
    (State.put base [(R.GLB_LOGCFG, 0x80000000), (R.GLB_MEM, 1), (R.GLB_LOGBASE, 0x40000000)]).logCode = 2 ∧ (State.put base [(R.GLB_LOGBASE, 1)]).logCode = 3 ∧
    (let s := State.put base [(R.GLB_STATUS, 0x80000000), (R.GLB_LOGBASE, 0x20000)]
     (s.rd R.GLB_STATUS).getLsbD 31 = true ∧ s.act64 R.GLB_LOGBASE ≠ s.rd64 R.GLB_LOGBASE) := by decide +kernel

/-- EscalationAndLiveness: a unit at its third failure, and one not escalated; a host that has been silent for its time, one that is off. -/
theorem test_witness_liveness :
    (let s := { base with esc := [(escKey 1 63 127, ⟨2, false⟩)] }
     (s.escOf (escKey 1 63 127)).action = false ∧ 2 ≤ (s.escOf (escKey 1 63 127)).run ∧ 63 * 2 ^ 8 + 127 < 2 ^ 20) ∧ base.hostWrites = true ∧
    (let s := State.put (timed fun b => { b with raw := 1000000 }) [(R.GLB_HOSTCFG, 1)]
     s.running = true ∧ s.field R.GLB_HOSTCFG 0 16 ≠ 0 ∧ s.host.silent = false ∧ s.field R.GLB_HOSTCFG 0 16 * 1000000 ≤ (s.tb.raw - s.host.hbRaw).toNat) ∧
    base.field R.GLB_HOSTCFG 0 16 = 0 := by decide +kernel

/-- IdleTick: a state in which only the clocks have work. -/
theorem test_witness_idle : Idle base := by
  refine ⟨fun n => ?_, rfl, fun n hn => ?_, rfl, ⟨rfl, rfl⟩, ⟨rfl, rfl, rfl⟩⟩
  · show Core.reset.nextAt = none
    decide +kernel
  · have h : ∀ m, m < 144 → base.rd (R.ECC_SCRUB_EN m) = 0 := by decide +kernel
    exact ⟨h n hn, rfl⟩

/-- StepRunsFront, IdleTick, StepKeepsInvariant: a command waits, or none; a state with the invariant steps. -/
theorem test_witness_step : ({ base with pending := [.tbSnapTake] }).pending = .tbSnapTake :: [] ∧ base.pending = [] ∧ base.tbPending pendPH = false ∧ base.tbPending pendTIME = false ∧
    base.Inv ∧ ∃ t, step base = .next t := by
  exact ⟨rfl, rfl, by decide +kernel, by decide +kernel, test_inv_base, _, rfl⟩

/-! ## Examples that the spec works out -/

/-- R272's examples: the word 3 has the check byte 0x0C; with bit 0 flipped the syndrome is 0x07 and bit 0 is corrected, with bits 0 and 1 it is 0x0C, an error; bits
55 and 56 together read as poison. -/
theorem test_word_code : eccCheck 3 = 0x0C ∧ eccCheck 2 ^^^ eccCheck 3 = 0x07 ∧ eccDecode 0x07 = .ceData 0 ∧ eccCheck 0 ^^^ eccCheck 3 = 0x0C ∧ eccDecode 0x0C = .ue ∧
    eccDecode (eccCheck (2 ^ 55 + 2 ^ 56) ^^^ eccCheck 0) = .poison := by decide +kernel

/-- R134's table. -/
theorem test_decimal_table : decOp false 0x12345 0xF000000000000789 = (0x11556, 0) ∧ decOp true 0x12345 0xF000000000000789 = (0x13134, 0) ∧
    decOp false 0x0999999999999999 1 = (0, fDOVF) ∧ decOp false 0xA35 0 = (0, fDIGIT) ∧ decOp true 0xF000000000000000 5 = (0xF000000000000005, 0) := by decide +kernel

/-- R137's example: 2^31 - 0.5 to a signed word, to nearest and toward zero. -/
theorem test_toW_example : b64.toW 0 0x41DFFFFFFFE00000 = ⟨0x7FFFFFFF, fNV⟩ ∧ b64.toW 4 0x41DFFFFFFFE00000 = ⟨0x7FFFFFFF, fNX⟩ := by decide +kernel

/-- R192's table, r = 128.0, and its last line with SGN at 1. -/
theorem test_vq8_table : vq8Lane false false 0 0x3F51EB85 0x43000000 = (105, false, false) ∧ vq8Lane false false 0 0x3FFF8000 0x43000000 = (255, true, false) ∧
    vq8Lane false false 0 0x3FFF0000 0x43000000 = (255, false, false) ∧ vq8Lane false false 0 0xBA83126F 0x43000000 = (0, false, false) ∧
    vq8Lane false false 0 0xBC23D70A 0x43000000 = (0, true, false) ∧ vq8Lane false false 0 0x7F800000 0x43000000 = (255, true, false) ∧
    vq8Lane false false 0 0x7F7FFFFF 0x43000000 = (255, true, false) ∧ vq8Lane false false 0 1 0x43000000 = (0, false, false) ∧
    vq8Lane false false 0 0x7FC00000 0x43000000 = (0, true, true) ∧ vq8Lane false true 0 0x3FFF8000 0x43000000 = (127, true, false) := by decide +kernel

/-- A property of what a step gives. -/
def stepB (s : State) (f : State → Bool) : Bool :=
  match step s with
  | .next t => f t
  | _ => false

/-- A waiting command runs: TB_SNAP takes the clocks of its cycle, and leaves the queue. -/
theorem test_step_runs : stepB { timed (fun b => { b with raw := 35 }) with pending := [.tbSnapTake] }
    (fun t => t.rd64 R.TB_SNAP_RAW == 35 && t.pending.isEmpty) = true := by decide +kernel

/-- With none waiting, one cycle passes. -/
theorem test_tick : stepB base (fun t => t.tb.raw == 5 && t.pending.isEmpty) = true := by decide +kernel

end Sys2Proof.Tests
end

section
/-! PROOF. The operations that arrive together at a synchronisation object (R37, R39). -/

namespace Sys2Proof.Machine

open Sys2Proof

/-! ### The operations that arrive first -/

/-- The earlier of a raw time, if there is one, and an operation's. -/
def earlier (m : Option Nat) (o : SyncOp) : Option Nat :=
  some (match m with
    | some x => min x o.raw.toNat
    | none => o.raw.toNat)

theorem foldl_earlier_some (l : List SyncOp) (x : Nat) : l.foldl earlier (some x) = some ((l.map (·.raw.toNat)).foldl min x) := by
  rw [List.foldl_map]
  exact List.foldl_hom some fun _ _ => rfl

theorem foldl_earlier_none (l : List SyncOp) : l.foldl earlier none = (l.map (·.raw.toNat)).min? := by
  cases l with
  | nil => rfl
  | cons o l => exact foldl_earlier_some l o.raw.toNat

/-- The operations of an object that arrive at the raw time `k`. -/
def SyncOp.arrivesAt (obj : Nat) (k : Dword) (o : SyncOp) : Bool := o.obj == obj && o.raw == k

theorem SyncOp.arrivesAt_iff (obj : Nat) (k : Dword) (o : SyncOp) : o.arrivesAt obj k = true ↔ o.obj = obj ∧ o.raw = k := by
  simp [SyncOp.arrivesAt]

/-- Where no operation on the object comes before `k`, those of `k` are the ones that arrive. -/
theorem State.arrivals_eq_filter (s : State) (obj : Nat) (k : Dword) (hk : ∃ o ∈ s.syncOps, o.obj = obj ∧ o.raw = k)
    (hmin : ∀ o ∈ s.syncOps, o.obj = obj → k.toNat ≤ o.raw.toNat) :
    s.arrivals obj = s.syncOps.filter (SyncOp.arrivesAt obj k) := by
  have hfirst : (s.syncOps.filter fun o => o.obj == obj).foldl earlier none = some k.toNat := by
    obtain ⟨o, ho, hobj, hraw⟩ := hk
    rw [foldl_earlier_none, List.min?_eq_some_iff]
    constructor
    · exact List.mem_map.mpr ⟨o, List.mem_filter.mpr ⟨ho, by simp [hobj]⟩, by rw [hraw]⟩
    · intro t ht
      obtain ⟨o', ho', rfl⟩ := List.mem_map.mp ht
      obtain ⟨hmem, hobj'⟩ := List.mem_filter.mp ho'
      exact hmin o' hmem (eq_of_beq hobj')
  calc s.arrivals obj
      = match (s.syncOps.filter fun o => o.obj == obj).foldl earlier none with
        | some t => (s.syncOps.filter fun o => o.obj == obj).filter fun o => o.raw.toNat == t
        | none => [] := rfl
    _ = (s.syncOps.filter fun o => o.obj == obj).filter fun o => o.raw.toNat == k.toNat := by rw [hfirst]
    _ = s.syncOps.filter (SyncOp.arrivesAt obj k) := by
      rw [List.filter_filter]
      refine List.filter_congr fun o _ => Bool.eq_iff_iff.mpr ?_
      rw [SyncOp.arrivesAt_iff]
      simp [BitVec.toNat_inj, and_comm]

/-! ### What they do to the object -/

/-- A sum of SIGNALs with one operation more. -/
def addSignal (a : Nat) (o : SyncOp) : Nat :=
  match o.kind with
  | .signal n => a + n
  | _ => a

/-- The count after `ops` arrive together: their SIGNALs added, and a RESET last (R39). -/
def countAfter (before : Word) (ops : List SyncOp) : Word :=
  if ∃ o ∈ ops, o.kind = .reset then 0 else before + w32 (ops.foldl addSignal 0)

/-- The evaluation of one operation that arrives: of a WAIT, against the count before (R39). -/
def State.evalOp (obj : Nat) (before : Word) (s : State) (o : SyncOp) : State :=
  match o.kind with
  | .waitSeq core target => s.evalWait obj core target before
  | .waitDma k target => s.evalDmaWait obj k target before
  | _ => s

/-- The state in which `ops` are gone and have set the object's count. -/
def State.takeOps (s : State) (obj : Nat) (ops : List SyncOp) : State :=
  { s with syncOps := s.syncOps.filter fun o => !ops.contains o
           counts := FMap.set 0 s.counts obj (countAfter (s.count obj) ops) }

theorem State.count_takeOps (s : State) (obj : Nat) (ops : List SyncOp) (j : Nat) :
    (s.takeOps obj ops).count j = if j = obj then countAfter (s.count obj) ops else s.count j :=
  FMap.get_set 0 s.counts obj j _

/-- The operations taken with `p` are gone: those without it are left. -/
theorem State.takeOps_filter (s : State) (obj : Nat) (p : SyncOp → Bool) :
    s.takeOps obj (s.syncOps.filter p) =
      { s with syncOps := s.syncOps.filter fun o => !p o, counts := (s.takeOps obj (s.syncOps.filter p)).counts } := by
  have hleft : (s.syncOps.filter fun o => !(s.syncOps.filter p).contains o) = s.syncOps.filter fun o => !p o :=
    List.filter_congr fun o ho => by rw [Bool.eq_iff_iff]; simp [ho]
  rw [← hleft]
  rfl

/-- R39: operations that arrive set the count, are then evaluated one by one against the count before, and stalled WAITs last. -/
theorem execSyncObjectArrival_of_arrivals (s : State) (obj : Nat) (h : s.arrivals obj ≠ []) :
    execSyncObjectArrival obj s =
      .next (((s.arrivals obj).foldl (State.evalOp obj (s.count obj)) (s.takeOps obj (s.arrivals obj))).evalStalled obj) := by
  have hreset : ((s.arrivals obj).any fun o => o.kind == .reset) = true ↔ ∃ o ∈ s.arrivals obj, o.kind = .reset := by simp
  have hsome : (s.arrivals obj).isEmpty ≠ true := by simpa using h
  simp only [execSyncObjectArrival, if_neg hsome, hreset]
  rfl

end Sys2Proof.Machine

open Sys2Proof Sys2Proof.Machine

/-- Settles O13: the operations of the earliest raw time are those that arrive (log entry 37), and `takeOps` is the state their WAITs
are evaluated in. -/
theorem objectArrival : Obligations.ObjectArrival := by
  intro obj s k hk hmin
  have hops := s.arrivals_eq_filter obj k hk hmin
  have hsome : s.arrivals obj ≠ [] := by
    obtain ⟨o, ho, hat⟩ := hk
    rw [hops]
    exact List.ne_nil_of_mem (List.mem_filter.mpr ⟨ho, (o.arrivesAt_iff obj k).mpr hat⟩)
  refine ⟨_, s.takeOps obj (s.syncOps.filter (SyncOp.arrivesAt obj k)), execSyncObjectArrival_of_arrivals s obj hsome,
    s.takeOps_filter obj _, s.count_takeOps obj _, ?_⟩
  rw [hops]
  rfl

end

section
/-! PROOF. The issue of an instruction that only computes registers (R115, R117, R124, R151, R153): what `Completes` asks of it, proved
once for every such instruction that takes no trap. -/

namespace Sys2Proof.Machine

open Sys2Proof Sys2Proof.Claims

/-! ### The wait and the count -/

/-- The wait for the scoreboard is the one that `Waits` describes (R117). -/
theorem State.waits_await (v : State) (n : Nat) (p : Plan) :
    let st := State.await (v.coreRt n) n p ((v.core n).work + 1) v
    Waits v st.1 n st.2 where
  board := ⟨p, rfl⟩
  after := State.await_ge _ v
  idle h := by rw [State.await_idle h]

/-- The issue is counted as `Counted` says (R153). -/
theorem State.counted_counted (u : State) (n b k : Nat) : Counted u (u.counted n b k) n k where
  rest := u.counted_rest n b k
  core := u.counted_core_same n b k
  others _ h := u.counted_core_other n b k h
  regs := u.counted_rd_other n b k
  count := u.counted_rd_issue n b k

/-- An instruction whose effect, at whatever cycle it issues and however long the scoreboard held it, does what P says, issues with P. -/
theorem State.issues_of_finish {i : Instr} {s v : State} {n op : Nat} {f : IsaFields} {plan : Core → Word → Plan}
    {body : State → Core → Word → Nat → Eff} {P : State → Nat → State → Prop} (hexec : exec i s = .next (s.issue n op f plan body))
    (hf : Fetches s n (isaWord op f) v)
    (hP : ∀ (u : State) (b k : Nat), (u.core n).run = true →
      P (u.counted n b k) k ((State.finish n (u.core n) (v.coreRt n) (plan (v.core n) (isaWord op f)) k
        (body (u.counted n b k) (u.core n) (isaWord op f) k)).timedAt none)) :
    Issues i s v n P := by
  obtain ⟨hcan, hfetch, hrun, hres⟩ := hf
  have hissue := State.issueWord_eq (w := isaWord op f) (plan := fun c => plan c (isaWord op f)) (bad := fun _ => false)
    (body := fun s c t => body s c (isaWord op f) t) hcan hfetch hrun (by rw [hres]; rfl)
  have hwaits := v.waits_await n (plan (v.core n) (isaWord op f))
  dsimp only at hissue hwaits
  generalize State.await .. = st at hissue hwaits
  refine ⟨_, st.1, st.2, hexec, hwaits, fun hstop => hissue.trans (if_neg (Bool.eq_false_iff.mp hstop)), fun hgo => ?_⟩
  refine ⟨_, State.counted_counted st.1 n (boardAt (st.1.core n) (plan (v.core n) (isaWord op f))) st.2, ?_⟩
  exact (congrArg (P _ _) (hissue.trans (if_pos hgo))).mpr (hP _ _ _ hgo)

/-! ### The core after the effect -/

/-- A write that touches the registers of a core and nothing else of it. -/
def OnlyRegs (write : Core → Core) : Prop := ∀ c : Core, ∃ g f v, write c = { c with g := g, f := f, v := v }

/-- The end at the next tile (R96). -/
theorem Core.tileStop_eq (c : Core) : c.tileStop =
    if c.ended = false ∧ c.tileAt = some c.pc then { c with ended := true, tileEnd := true } else c := by
  simp [Core.tileStop]

/-- It touches nothing else of the core. -/
theorem Core.tileStop_rest (c : Core) : c.tileStop = { c with ended := c.tileStop.ended, tileEnd := c.tileStop.tileEnd } := by
  rw [Core.tileStop_eq]
  split <;> rfl

/-- A core that comes to its next tile is otherwise quiet if it was quiet until then. -/
theorem Core.tileStop_quiet {c d : Core} (hq : d = { c with
      g := d.g, f := d.f, v := d.v, pc := d.pc, last := d.last, loops := d.loops, now := d.now, ready := d.ready
      mulFree := d.mulFree, divFree := d.divFree, fpFree := d.fpFree, late := d.late, doneAt := d.doneAt }) : Quiet c d.tileStop := by
  rw [hq, Core.tileStop_eq]
  dsimp only
  by_cases h : c.ended = false ∧ c.tileAt = some d.pc
  · rw [if_pos h]
    exact ⟨rfl, by rw [if_pos h]; exact ⟨rfl, rfl⟩⟩
  · rw [if_neg h]
    exact ⟨rfl, by rw [if_neg h]; exact ⟨rfl, rfl⟩⟩

section retire

variable {c c0 : Core} {rt : Bool} {p : Plan} {k flags : Nat} {write : Core → Core}

/-- Nothing else of the core has changed. -/
theorem Core.retire_quiet (hw : OnlyRegs write) : Quiet c (c.retire rt c0 p k write flags none).tileStop := by
  obtain ⟨g, f, v, hc⟩ := hw c
  exact Core.tileStop_quiet (by simp only [Core.retire, Core.advance, hc])

/-- The core issues next after the cycle of this issue. -/
theorem Core.retire_now (hcost : 0 < p.cost) : k < (c.retire rt c0 p k write flags none).now := by
  simp only [Core.retire, Core.advance]
  split <;> omega

/-- The core goes on at the next index (R151). -/
theorem Core.retire_movesOn (hw : OnlyRegs write) (hcost : 0 < p.cost) :
    MovesOn c (c.retire rt c0 p k write flags none).tileStop k (onward c) := by
  obtain ⟨g, f, v, hc⟩ := hw c
  have hnow := Core.retire_now (c := c) (c0 := c0) (rt := rt) (k := k) (flags := flags) (write := write) hcost
  rw [Core.tileStop_rest]
  refine ⟨?_, ?_, ?_, hnow⟩ <;> simp only [Core.retire, Core.advance, hc, onward]

/-- The flags raised are still to be set (R124). -/
theorem Core.retire_raises (hw : OnlyRegs write) :
    Raises c (c.retire rt c0 p k write flags none).tileStop k (Nat.land flags 0x3F1F) := by
  obtain ⟨g, f, v, hc⟩ := hw c
  rw [Core.tileStop_rest]
  by_cases hfl : Nat.land flags 0x3F1F = 0
  · simp only [Raises, Core.retire, Core.advance, hc, if_pos hfl]
  · simp only [Raises, Core.retire, Core.advance, hc, if_neg hfl]
    exact ⟨k + max 1 p.lat, by omega, rfl⟩

/-- The registers are those that the write leaves. -/
theorem Core.retire_writes {d : Dest} (h : Writes c (write c) d) : Writes c (c.retire rt c0 p k write flags none).tileStop d := by
  rw [Core.tileStop_rest]
  cases d <;> exact h

end retire

/-! ### Instructions without exceptions -/

/-- The core when its instruction issues in cycle k (R153). -/
def Core.atIssue (c : Core) (k : Nat) : Core := { c with last := c.pc, issAt := k }

/-- An effect that takes no trap has run as `Ran` says. -/
theorem State.ran_finish {y : State} {n k flags : Nat} {c0 : Core} {rt : Bool} {p : Plan} {write : Core → Core} {r : Result}
    (hrun : (y.core n).run = true) (htakes : takes rt c0 p flags = 0) (hcost : 0 < p.cost) (hw : OnlyRegs write)
    (hdest : Writes (y.core n) (write (y.core n)) r.dest) (hflags : flags = r.flags) :
    Ran y ((State.finish n c0 rt p k (.ok y write flags none)).timedAt none) n k id onward r := by
  rw [State.finish_ok htakes hrun]
  unfold Ran
  simp only [State.timedAt_core, State.modCore_core_same, id]
  refine ⟨rfl, fun m hm => ?_, Core.retire_quiet hw, Core.retire_movesOn hw hcost, Core.retire_writes hdest, hflags ▸ Core.retire_raises hw⟩
  rw [State.modCore_core, if_neg hm]

/-- An instruction that raises no exception completes with the registers that it writes and the flags that it sets. -/
theorem completes_of_compute {mk : Nat → IsaFields → Instr} {op : Nat} {plan : Core → Word → Plan}
    {res : Core → Word → (Core → Core) × Nat} {r : Core → Word → Result}
    (hexec : ∀ n f s, exec (mk n f) s = .next (s.compute n op f plan res))
    (hraises : ∀ c w, (plan c w).raises = 0) (hcost : ∀ c w, 0 < (plan c w).cost) (hw : ∀ c w, OnlyRegs (res c w).1)
    (hdest : ∀ c w k, Writes (c.atIssue k) ((res c w).1 (c.atIssue k)) (r (c.atIssue k) w).dest)
    (hflags : ∀ c w k, (res c w).2 = (r (c.atIssue k) w).flags) :
    Completes mk op r := by
  intro n f s v hf
  refine State.issues_of_finish (hexec n f s) hf fun u b k hrun => ?_
  intro out _
  have hcore : (u.counted n b k).core n = (u.core n).atIssue k := u.counted_core_same n b k
  refine State.ran_finish (by rw [hcore]; exact hrun) (takes_none _ _ _ _ (hraises ..)) (hcost ..) (hw _ _) ?_ ?_
  · simp only [out, hcore]; exact hdest ..
  · simp only [out, hcore]; exact hflags ..

end Sys2Proof.Machine
end

section
/-! PROOF. VRAND (R201, R202). -/

namespace Sys2Proof.Machine

open Sys2Proof Sys2Proof.Claims

/-! ### What it writes -/

/-- A write of a row register touches nothing else. -/
theorem Core.setV_onlyRegs (i : Nat) (ls : List Word) : OnlyRegs fun c => c.setV i ls := fun _ => ⟨_, _, _, rfl⟩

@[simp] theorem Core.setV_g (c : Core) (i : Nat) (ls : List Word) : (c.setV i ls).g = c.g := by simp only [Core.setV]
@[simp] theorem Core.setV_f (c : Core) (i : Nat) (ls : List Word) : (c.setV i ls).f = c.f := by simp only [Core.setV]

/-- The lanes of a row register that is written from a function of their numbers. -/
theorem Core.setV_writes {c : Core} {i : Nat} {val lane : Nat → Word} (h : ∀ l, val l = lane l) :
    Writes c (c.setV i ((List.range 16).map val)) (.v i lane) := by
  refine ⟨fun j l hl => ?_, Core.setV_g .., Core.setV_f ..⟩
  rw [Core.setV_lane c i j l _ hl, ← h]
  simp [List.getD_eq_getElem?_getD, hl]

/-! ### The generator -/

/-- The random word of a lane is the number drawn for it (R202). -/
theorem randWord_eq_ofNat_drawn (k c : Dword) (n : Word) (d l : Nat) : randWord k c n d l = BitVec.ofNat 32 (drawn k c n d l) := rfl

theorem drawn_lt (k c : Dword) (n : Word) (d l : Nat) : drawn k c n d l < 2 ^ 32 := by
  unfold drawn
  dsimp only
  omega

theorem randWord_toNat (k c : Dword) (n : Word) (d l : Nat) : (randWord k c n d l).toNat = drawn k c n d l := by
  rw [randWord_eq_ofNat_drawn, BitVec.toNat_ofNat, Nat.mod_eq_of_lt (drawn_lt ..)]

/-! ### A lane by its mode -/

section mode

variable (k c : Dword) (n : Word) (d l : Nat) (old : Word)

theorem randLane_raw : randLane 0 (randWord k c n d l) old = BitVec.ofNat 32 (drawn k c n d l) := randWord_eq_ofNat_drawn ..

theorem randLane_uniform : randLane 1 (randWord k c n d l) old =
    BitVec.ofNat 32 (b32.roundInt 0 (drawn k c n d l / 256 : Nat) (-24) false).bits := by
  simp only [randLane, randWord_toNat, w32]

theorem w32_oneS : w32 oneS = 0x3F800000 := rfl

theorem randLane_keep (m : Nat) : randLane (m + 2) (randWord k c n d l) old =
    if old.toNat ≤ drawn k c n d l then 0x3F800000 else 0 := by
  simp only [randLane, randWord_toNat, w32_oneS]

end mode

end Sys2Proof.Machine

open Sys2Proof Sys2Proof.Machine

/-- Settles O17: VRAND raises no exception, so it completes whenever it issues, and each mode makes of the number drawn for a lane what
R202 says. -/
theorem randomResults : Obligations.RandomResults := by
  unfold Obligations.RandomResults
  refine completes_of_compute (fun _ _ _ => rfl) (fun _ _ => rfl) (fun _ _ => Nat.one_pos) (fun _ _ => Core.setV_onlyRegs _ _)
    (fun c w k => Core.setV_writes fun l => ?_) fun _ _ _ => rfl
  generalize fld w 0 2 = mode
  match mode with
  | 0 => exact randLane_raw ..
  | 1 => exact randLane_uniform ..
  | m + 2 => exact randLane_keep ..

end

section
/-! PROOF. The word code (R269, R270, R272): the check byte is linear in the data, every column has an odd number of bits, and a syndrome with an even
number of bits, but not none, is uncorrectable. -/

namespace Sys2Proof.Machine

open Sys2Proof

/-! ### Parity of a count -/

/-- An odd number of the list's elements satisfy `p`: their XOR. -/
def oddlyMany {α : Type} (l : List α) (p : α → Bool) : Bool := decide ((l.filter p).length % 2 = 1)

@[simp] theorem oddlyMany_nil {α : Type} (p : α → Bool) : oddlyMany [] p = false := rfl

@[simp] theorem oddlyMany_cons {α : Type} (a : α) (l : List α) (p : α → Bool) : oddlyMany (a :: l) p = (p a ^^ oddlyMany l p) := by
  cases hp : p a
  · simp [oddlyMany, hp]
  · simp only [oddlyMany, List.filter_cons, hp, if_true, List.length_cons, Bool.true_xor, ← decide_not, decide_eq_decide]
    omega

theorem oddlyMany_map {α β : Type} (f : α → β) (l : List α) (p : β → Bool) : oddlyMany (l.map f) p = oddlyMany l fun a => p (f a) := by
  simp only [oddlyMany, List.filter_map, List.length_map, Function.comp_def]

theorem oddlyMany_xor {α : Type} (l : List α) (p q : α → Bool) :
    oddlyMany l (fun a => p a ^^ q a) = (oddlyMany l p ^^ oddlyMany l q) := by
  induction l with
  | nil => rfl
  | cons a l ih => simp only [oddlyMany_cons, ih, Bool.xor_assoc, Bool.xor_left_comm]

theorem oddlyMany_none {l : List Nat} {i : Nat} (hi : i ∉ l) (p : Nat → Bool) : oddlyMany l (fun k => decide (i = k) && p k) = false := by
  have hnil : l.filter (fun k => decide (i = k) && p k) = [] := by
    rw [List.filter_eq_nil_iff]
    rintro k hk h
    simp only [Bool.and_eq_true, decide_eq_true_eq] at h
    exact hi (h.1 ▸ hk)
  rw [oddlyMany, hnil]
  rfl

/-- Of a list without repetition only the one element counts. -/
theorem oddlyMany_single {l : List Nat} {i : Nat} (hl : l.Nodup) (hi : i ∈ l) (p : Nat → Bool) :
    oddlyMany l (fun k => decide (i = k) && p k) = p i := by
  induction l with
  | nil => cases hi
  | cons a l ih =>
    obtain ⟨ha, hl⟩ := List.nodup_cons.mp hl
    rw [oddlyMany_cons]
    by_cases h : i = a
    · subst h
      simp [oddlyMany_none ha]
    · simp [h, ih hl ((List.mem_cons.mp hi).resolve_left h)]

/-! ### The columns (R269) -/

/-- The first 56 columns are all the byte values with three bits set, in ascending order. -/
theorem eccColumns_take : eccColumns.take 56 = (List.range 256).filter fun n => popcount8 n == 3 := by decide +kernel

theorem eccColumns_drop : eccColumns.drop 56 = [0x1F, 0x2F, 0x37, 0x3B, 0x3D, 0x3E, 0x4F, 0x57] := by decide +kernel

theorem eccColumns_length : eccColumns.length = 64 := by decide +kernel

/-- A column is a byte with three or five bits. -/
theorem weight_of_mem_eccColumns {h : Nat} (hh : h ∈ eccColumns) : h < 256 ∧ (popcount8 h = 3 ∨ popcount8 h = 5) := by
  rcases List.mem_append.mp hh with h3 | h5
  · simp only [List.mem_filter, List.mem_range, beq_iff_eq] at h3
    exact ⟨h3.1, .inl h3.2⟩
  · have h5 := List.mem_of_mem_take h5
    simp only [List.mem_filter, List.mem_range, beq_iff_eq] at h5
    exact ⟨h5.1, .inr h5.2⟩

theorem eccColumns_nodup : eccColumns.Nodup := by
  refine List.Nodup.append (List.nodup_range.filter _) ((List.nodup_range.filter _).sublist (List.take_sublist ..)) fun h h3 h5 => ?_
  have h5 := List.mem_of_mem_take h5
  simp only [List.mem_filter, beq_iff_eq] at h3 h5
  omega

theorem eccColumns_getD_mem {i : Nat} (hi : i < 64) : eccColumns.getD i 0 ∈ eccColumns := by
  rw [List.getD_eq_getElem _ _ (eccColumns_length ▸ hi)]
  exact List.getElem_mem _

/-- A column below 56 is read from those with three bits. -/
theorem eccColumns_getD_threes {i : Nat} (hi : i < 56) :
    ∃ h : i < (eccColumns.take 56).length, eccColumns.getD i 0 = (eccColumns.take 56)[i] := by
  have hl : i < eccColumns.length := by rw [eccColumns_length]; omega
  exact ⟨by rw [List.length_take]; omega, by rw [List.getElem_take, List.getD_eq_getElem _ _ hl]⟩

theorem eccColumns_threes {i : Nat} (hi : i < 56) : popcount8 (eccColumns.getD i 0) = 3 ∧ eccColumns.getD i 0 < 256 := by
  obtain ⟨hlt, h⟩ := eccColumns_getD_threes hi
  have hmem : eccColumns.getD i 0 ∈ eccColumns.take 56 := h ▸ List.getElem_mem hlt
  rw [eccColumns_take, List.mem_filter, List.mem_range, beq_iff_eq] at hmem
  exact hmem.symm

theorem eccColumns_ascending {i j : Nat} (hij : i < j) (hj : j < 56) : eccColumns.getD i 0 < eccColumns.getD j 0 := by
  have hp : (eccColumns.take 56).Pairwise (· < ·) := eccColumns_take ▸ List.pairwise_lt_range.filter _
  obtain ⟨hi', hi⟩ := eccColumns_getD_threes (hij.trans hj)
  obtain ⟨hj', hj⟩ := eccColumns_getD_threes hj
  rw [hi, hj]
  exact List.pairwise_iff_getElem.mp hp i j hi' hj' hij

/-- H(i), the column of data bit i. -/
def eccColumn (i : Nat) : Byte := BitVec.ofNat 8 (eccColumns.getD i 0)

theorem eccColumn_toNat {i : Nat} (hi : i < 64) : (eccColumn i).toNat = eccColumns.getD i 0 := by
  have hlt := (weight_of_mem_eccColumns (eccColumns_getD_mem hi)).1
  rw [eccColumn, BitVec.toNat_ofNat, Nat.mod_eq_of_lt hlt]

theorem eccColumn_weight {i : Nat} (hi : i < 64) : popcount8 (eccColumn i).toNat = 3 ∨ popcount8 (eccColumn i).toNat = 5 := by
  rw [eccColumn_toNat hi]
  exact (weight_of_mem_eccColumns (eccColumns_getD_mem hi)).2

theorem eccColumn_ne {i j : Nat} (hij : i < j) (hj : j < 64) : eccColumn i ≠ eccColumn j := by
  intro h
  have hi' : i < eccColumns.length := eccColumns_length ▸ hij.trans hj
  have hj' : j < eccColumns.length := eccColumns_length ▸ hj
  have h := congrArg BitVec.toNat h
  rw [eccColumn_toNat (hij.trans hj), eccColumn_toNat hj, List.getD_eq_getElem _ _ hi', List.getD_eq_getElem _ _ hj',
    eccColumns_nodup.getElem_inj_iff] at h
  omega

/-! ### The check byte (R269) -/

/-- Bit j of an XOR of those numbers of a list that `p` takes. -/
theorem testBit_foldl_xor (p : Nat → Bool) (l : List (Nat × Nat)) (c j : Nat) :
    (l.foldl (fun c h => if p h.2 then Nat.xor c h.1 else c) c).testBit j = (c.testBit j ^^ oddlyMany l fun h => p h.2 && h.1.testBit j) := by
  induction l generalizing c with
  | nil => simp
  | cons h l ih =>
    rw [List.foldl_cons, ih, oddlyMany_cons]
    cases p h.2 <;> simp

theorem eccColumns_zipIdx : eccColumns.zipIdx = (List.range 64).map fun i => (eccColumns.getD i 0, i) := by
  refine List.ext_getElem (by simp [eccColumns_length]) fun i h _ => ?_
  rw [List.length_zipIdx] at h
  simp [h]

/-- Check bit j is the XOR of the data bits whose column has bit j. -/
theorem eccCheck_getLsbD (d : Dword) {j : Nat} (hj : j < 8) :
    (eccCheck d).getLsbD j = oddlyMany (List.range 64) fun i => d.getLsbD i && (eccColumns.getD i 0).testBit j := by
  rw [eccCheck, BitVec.getLsbD_ofNat, testBit_foldl_xor, eccColumns_zipIdx, oddlyMany_map]
  simp [hj]

/-- The code is linear. -/
theorem eccCheck_xor (a b : Dword) : eccCheck (a ^^^ b) = eccCheck a ^^^ eccCheck b := by
  refine BitVec.eq_of_getLsbD_eq fun j hj => ?_
  simp only [BitVec.getLsbD_xor, eccCheck_getLsbD _ hj, Bool.and_xor_distrib_right, oddlyMany_xor]

/-- A single data bit has its column as check byte. -/
theorem eccCheck_twoPow {i : Nat} (hi : i < 64) : eccCheck (BitVec.ofNat 64 (2 ^ i)) = eccColumn i := by
  refine BitVec.eq_of_getLsbD_eq fun j hj => ?_
  have hbit : oddlyMany (List.range 64) (fun k => (BitVec.ofNat 64 (2 ^ i)).getLsbD k && (eccColumns.getD k 0).testBit j) =
      oddlyMany (List.range 64) fun k => decide (i = k) && (eccColumns.getD k 0).testBit j := by
    refine congrArg (fun l => decide (List.length l % 2 = 1)) (List.filter_congr fun k hk => ?_)
    rw [BitVec.getLsbD_ofNat, Nat.testBit_two_pow, decide_eq_true (List.mem_range.mp hk), Bool.true_and]
  rw [eccCheck_getLsbD _ hj, hbit, oddlyMany_single List.nodup_range (List.mem_range.mpr hi), eccColumn, BitVec.getLsbD_ofNat,
    decide_eq_true hj, Bool.true_and]

/-- The syndrome of an error in data bits does not depend on the data. -/
theorem eccCheck_flip (d e : Dword) : eccCheck (d ^^^ e) ^^^ eccCheck d = eccCheck e := by
  rw [eccCheck_xor, BitVec.xor_comm (eccCheck d), BitVec.xor_assoc, BitVec.xor_self, BitVec.xor_zero]

/-- The syndrome of a stored word is the recomputed check byte against the stored one (R270). -/
theorem Stored.syndrome (w : Stored) : eccCheck w.data ^^^ w.chk = w.syn := by
  rw [Stored.chk, ← BitVec.xor_assoc, BitVec.xor_self, BitVec.zero_xor]

/-! ### What a syndrome says (R270) -/

/-- A byte with an odd number of bits set. -/
def oddWeight (x : Byte) : Bool := oddlyMany (List.range 8) x.getLsbD

theorem oddWeight_eq_popcount8 (x : Byte) : oddWeight x = decide (popcount8 x.toNat % 2 = 1) := rfl

theorem oddWeight_xor (x y : Byte) : oddWeight (x ^^^ y) = (oddWeight x ^^ oddWeight y) := by
  rw [oddWeight, oddWeight, oddWeight, ← oddlyMany_xor]
  exact congrArg _ (funext fun i => BitVec.getLsbD_xor)

theorem eccColumn_oddWeight {i : Nat} (hi : i < 64) : oddWeight (eccColumn i) = true := by
  rw [oddWeight_eq_popcount8]
  rcases eccColumn_weight hi with h | h <;> rw [h] <;> rfl

/-- The column of check bit j has one bit. -/
theorem popcount8_twoPow : ∀ j, j < 8 → popcount8 (BitVec.ofNat 8 (2 ^ j)).toNat = 1 := by decide

theorem eccDecode_of_weight_one {x : Byte} (h : popcount8 x.toNat = 1) : eccDecode x = .ceCheck := by
  have h0 : x ≠ 0 := by rintro rfl; exact absurd h (by decide)
  rw [eccDecode, if_neg h0, if_pos h]

/-- A column's place among the columns. -/
theorem eccColumns_findIdx? {i : Nat} (hi : i < 64) : eccColumns.findIdx? (fun h => h == eccColumns.getD i 0) = some i := by
  have hl : i < eccColumns.length := eccColumns_length ▸ hi
  rw [List.findIdx?_eq_some_iff_getElem, List.getD_eq_getElem _ _ hl]
  refine ⟨hl, beq_self_eq_true _, fun k hk => ?_⟩
  rw [beq_iff_eq, eccColumns_nodup.getElem_inj_iff]
  exact hk.ne

theorem eccDecode_eccColumn {i : Nat} (hi : i < 64) : eccDecode (eccColumn i) = .ceData i := by
  have hw := eccColumn_weight hi
  have h0 : eccColumn i ≠ 0 := fun h => by rw [h] at hw; exact absurd hw (by decide)
  rw [eccDecode, if_neg h0, if_neg (by omega), eccColumn_toNat hi, eccColumns_findIdx? hi]

/-- A syndrome that no single error gives. -/
theorem eccDecode_of_not_mem {x : Byte} (h0 : x ≠ 0) (h1 : popcount8 x.toNat ≠ 1) (hc : x.toNat ∉ eccColumns) :
    eccDecode x = if x = 0xFF then .poison else .ue := by
  have hnone : eccColumns.findIdx? (fun h => h == x.toNat) = none := by
    rw [List.findIdx?_eq_none_iff]
    exact fun h hh => beq_false_of_ne fun e => hc (e ▸ hh)
  rw [eccDecode, if_neg h0, if_neg h1, hnone]

/-- A syndrome with an even number of bits, but not none, is uncorrectable: single errors give odd ones. -/
theorem eccDecode_bad_of_even {x : Byte} (h0 : x ≠ 0) (he : oddWeight x = false) : (eccDecode x).bad = true := by
  rw [oddWeight_eq_popcount8, decide_eq_false_iff_not] at he
  have hc : x.toNat ∉ eccColumns := fun h => by
    have hw := (weight_of_mem_eccColumns h).2
    omega
  rw [eccDecode_of_not_mem h0 (by omega) hc]
  split <;> rfl

theorem eccDecode_poison : eccDecode 0xFF = .poison := by
  have hc : (0xFF : Byte).toNat ∉ eccColumns := fun h => absurd (weight_of_mem_eccColumns h).2 (by decide)
  rw [eccDecode_of_not_mem (by decide) (by decide) hc, if_pos rfl]

/-- Two different errors of odd weight do not cancel and are not mistaken for a single one (R269). -/
theorem eccDecode_bad_of_two {x y : Byte} (hne : x ≠ y) (hx : oddWeight x = true) (hy : oddWeight y = true) :
    (eccDecode (x ^^^ y)).bad = true :=
  eccDecode_bad_of_even (fun h => hne (BitVec.xor_eq_zero_iff.mp h)) (by rw [oddWeight_xor, hx, hy]; rfl)

/-! ### Errors in a stored word (R270, R272) -/

/-- A wrong data bit is named. -/
theorem eccDecode_dataError (d : Dword) {i : Nat} (hi : i < 64) :
    eccDecode (eccCheck (d ^^^ BitVec.ofNat 64 (2 ^ i)) ^^^ eccCheck d) = .ceData i := by
  rw [eccCheck_flip, eccCheck_twoPow hi, eccDecode_eccColumn hi]

/-- A named bit is inverted back. -/
theorem eccDeliver_dataError (d : Dword) (i : Nat) : eccDeliver (.ceData i) (d ^^^ BitVec.ofNat 64 (2 ^ i)) = d := by
  rw [eccDeliver, w64, BitVec.xor_assoc, BitVec.xor_self, BitVec.xor_zero]

/-- Two wrong data bits are found. -/
theorem eccDecode_twoDataErrors (d : Dword) {i j : Nat} (hij : i < j) (hj : j < 64) :
    (eccDecode (eccCheck (d ^^^ BitVec.ofNat 64 (2 ^ i) ^^^ BitVec.ofNat 64 (2 ^ j)) ^^^ eccCheck d)).bad = true := by
  have hi := hij.trans hj
  rw [BitVec.xor_assoc, eccCheck_flip, eccCheck_xor, eccCheck_twoPow hi, eccCheck_twoPow hj]
  exact eccDecode_bad_of_two (eccColumn_ne hij hj) (eccColumn_oddWeight hi) (eccColumn_oddWeight hj)

/-- A wrong data bit together with a wrong check bit is found. -/
theorem eccDecode_dataAndCheckError (d : Dword) {i j : Nat} (hi : i < 64) (hj : j < 8) :
    (eccDecode (eccCheck (d ^^^ BitVec.ofNat 64 (2 ^ i)) ^^^ (eccCheck d ^^^ BitVec.ofNat 8 (2 ^ j)))).bad = true := by
  have hone := popcount8_twoPow j hj
  have hne : eccColumn i ≠ BitVec.ofNat 8 (2 ^ j) := fun h => by
    have hw := eccColumn_weight hi
    rw [h] at hw
    omega
  rw [← BitVec.xor_assoc, eccCheck_flip, eccCheck_twoPow hi]
  exact eccDecode_bad_of_two hne (eccColumn_oddWeight hi) (by rw [oddWeight_eq_popcount8, hone]; rfl)

end Sys2Proof.Machine

open Sys2Proof Sys2Proof.Machine

/-- Settles O60: the check byte is linear with the columns as the check bytes of single bits, and single errors have odd syndromes, so
that two of them never look like one. -/
theorem wordCode : Obligations.WordCode := by
  unfold Obligations.WordCode
  refine ⟨⟨eccColumns_length, fun i hi => eccColumns_threes hi, fun i j hij hj => eccColumns_ascending hij hj, eccColumns_drop⟩,
    fun d j hj => eccCheck_getLsbD d hj, Stored.syndrome, fun s p wa src ctx => ⟨rfl, rfl⟩,
    ⟨rfl, eccDecode_poison, fun j hj => eccDecode_of_weight_one (popcount8_twoPow j hj), fun i hi => eccDecode_eccColumn hi,
      fun x h0 hFF h1 hc => ?_, rfl, rfl⟩,
    fun d => ⟨rfl, rfl, rfl, rfl, fun i => rfl⟩,
    fun d i hi => ⟨eccDecode_dataError d hi, eccDeliver_dataError d i⟩,
    fun d i j hij hj => eccDecode_twoDataErrors d hij hj, fun d i j hi hj => eccDecode_dataAndCheckError d hi hj⟩
  rw [eccDecode_of_not_mem h0 h1 hc, if_neg hFF]

end

section
/-! PROOF. Reset release (R435, R436, R476): what a register reads once every register has taken its reset value, and what the straps and
the cause then leave in three of them. -/

namespace Sys2Proof.Machine

open Sys2Proof

/-! ### What a reset leaves -/

namespace FMap

variable {α : Type}

theorem find_of_above {i j : Nat} {m : FMap α} (h : Above i m) (hj : j ≤ i) : find m j = none := by
  cases m with
  | nil => rfl
  | cons c r => exact if_pos (Nat.lt_of_le_of_lt hj (h c List.mem_cons_self))

/-- A lookup in the part of a table whose keys satisfy `p`. -/
theorem find_filter_key (p : Nat → Bool) (m : FMap α) (i : Nat) (h : rising m = true) :
    find (m.filter fun c : Nat × α => p c.1) i = if p i then find m i else none := by
  induction m with
  | nil => exact (ite_self none).symm
  | cons c r ih =>
    obtain ⟨ha, hr⟩ := (rising_iff c r).mp h
    have ih := ih hr
    have hlow {j : Nat} (hj : j ≤ c.1) : find r j = none := find_of_above ha hj
    rcases Nat.lt_trichotomy i c.1 with hlt | rfl | hgt
    · rw [hlow hlt.le] at ih
      cases hc : p c.1 <;> simp [hc, find, hlt, ih]
    · rw [hlow le_rfl] at ih
      cases hc : p c.1 <;> simp [hc, find, ih]
    · cases hc : p c.1 <;> simp [hc, find, hgt.not_gt, hgt.ne', ih]

end FMap

@[simp] theorem State.clear_boot (s : State) (b : Boot) : (s.clear b).boot = b :=
  forEach_same State.boot _ _ _ fun _ _ => rfl

@[simp] theorem State.clear_fuses (s : State) (b : Boot) : (s.clear b).fuses = s.fuses :=
  forEach_same State.fuses _ _ _ fun _ _ => rfl

theorem State.clear_regs (s : State) (b : Boot) : (s.clear b).regs = s.regs.filter fun c : Nat × Word => keptOff c.1 :=
  forEach_same State.regs _ _ _ fun _ _ => rfl

/-- R435: every register outside the retained windows takes its reset value. -/
theorem State.clear_rd {s : State} (h : FMap.rising s.regs = true) (b : Boot) (o : Nat) :
    (s.clear b).rd o = if keptOff o then s.rd o else RegMap.resetValue o := by
  rw [State.rd, FMap.get, State.clear_regs, FMap.find_filter_key keptOff _ _ h]
  split <;> rfl

/-! ### What the straps and the cause leave -/

/-- A bit of a field that is set (R9). -/
theorem putFld_getLsbD {lo n i : Nat} (w : Word) (v : Nat) (hi : i < n) (hlo : lo + i < 32) :
    (putFld w lo n v).getLsbD (lo + i) = v.testBit i := by
  simp only [putFld, fldMask, BitVec.getLsbD_or, BitVec.getLsbD_and, BitVec.getLsbD_not, BitVec.getLsbD_ofNat, Nat.testBit_mul_two_pow,
    Nat.testBit_two_pow_sub_one, Nat.testBit_mod_two_pow, Nat.add_sub_cancel_left]
  simp [hi, hlo]

theorem b2n_testBit_zero (b : Bool) : (b2n b).testBit 0 = b := by cases b <;> rfl

/-- A strap is shown in its bit. -/
theorem putFld_b2n_getLsbD {lo : Nat} (w : Word) (b : Bool) (hlo : lo < 32) : (putFld w lo 1 (b2n b)).getLsbD lo = b :=
  (putFld_getLsbD w (b2n b) Nat.one_pos hlo).trans (b2n_testBit_zero b)

/-- R476: the cause shown is the highest in the order of precedence. -/
theorem bitMask_causeBit (held : List RstSrc) :
    (bitMask (causeBit held)).toNat = if RstSrc.thermtrip ∈ held then 8 else if RstSrc.brownout ∈ held then 4
      else if RstSrc.porst ∈ held then 1 else if RstSrc.tap ∈ held then 16 else 2 := by
  simp only [causeBit, List.contains_iff_mem, apply_ite bitMask, apply_ite BitVec.toNat]
  rfl

/-- The device after reset release: all registers at their reset values, then the cause and the two straps shown. -/
def State.released (s : State) (role src : Bool) : State :=
  let t := s.clear { Boot.reset with tapIr := s.boot.tapIr, bootSrc := src, pairRole := role }
  ((t.wr R.GLB_RSTCAUSE (bitMask (causeBit s.boot.held))).setField R.MIR_STAT 31 1 (b2n role)).setField R.SEC_BOOTSTAT 6 1 (b2n src)

/-- Release happens when a source had held the device and none holds it longer. -/
theorem execResetRelease_of_ended {s : State} (role src : Bool) (hheld : s.boot.held ≠ []) (htrip : s.boot.tripped = false)
    (htap : s.boot.tapHold = false) : execResetRelease role src s = .next (s.released role src) := by
  have hends : ¬ (s.boot.held.isEmpty || s.boot.tripped || s.boot.tapHold) = true := by simp [hheld, htrip, htap]
  exact congrArg Host.Outcome.next (if_neg hends)

section released

variable (s : State) (role src : Bool)

theorem State.released_boot :
    (s.released role src).boot = { Boot.reset with tapIr := s.boot.tapIr, bootSrc := src, pairRole := role } := by
  simp [State.released]

theorem State.released_fuses : (s.released role src).fuses = s.fuses := by simp [State.released]

theorem State.released_pairRole_shown : ((s.released role src).rd R.MIR_STAT).getLsbD 31 = role := by
  rw [State.released, State.setField_rd, if_neg (by decide), State.setField_rd, if_pos rfl]
  exact putFld_b2n_getLsbD _ role (by decide)

theorem State.released_bootSrc_shown : ((s.released role src).rd R.SEC_BOOTSTAT).getLsbD 6 = src := by
  rw [State.released, State.setField_rd, if_pos rfl]
  exact putFld_b2n_getLsbD _ src (by decide)

theorem State.released_rd_cause : (s.released role src).rd R.GLB_RSTCAUSE = bitMask (causeBit s.boot.held) := by
  rw [State.released, State.setField_rd, if_neg (by decide), State.setField_rd, if_neg (by decide), State.wr_rd_same]

theorem State.released_rd_other {o : Nat} (h : FMap.rising s.regs = true) (hmir : o ≠ R.MIR_STAT) (hboot : o ≠ R.SEC_BOOTSTAT)
    (hcause : o ≠ R.GLB_RSTCAUSE) : (s.released role src).rd o = if keptOff o then s.rd o else RegMap.resetValue o := by
  rw [State.released, State.setField_rd, if_neg hboot, State.setField_rd, if_neg hmir, State.wr_rd_other _ _ hcause, State.clear_rd h]

end released

end Sys2Proof.Machine

open Sys2Proof Sys2Proof.Machine

/-- Settles O21: the release is `State.released`, whose cause is taken from all sources that have held the device since the reset began
(log entry 71), a device that the TAP stopped being held until Test-Logic-Reset (log entry 10). -/
theorem resetRelease : Obligations.ResetRelease := by
  intro s role src hinv hheld htrip htap
  have hboot := s.released_boot role src
  have hcause := (congrArg BitVec.toNat (s.released_rd_cause role src)).trans (bitMask_causeBit s.boot.held)
  exact ⟨s.released role src, execResetRelease_of_ended role src hheld htrip htap, congrArg Boot.held hboot, congrArg Boot.state hboot,
    congrArg Boot.pairRole hboot, congrArg Boot.bootSrc hboot, s.released_fuses role src, s.released_pairRole_shown role src,
    s.released_bootSrc_shown role src, hcause, fun _ => s.released_rd_other role src hinv.regs⟩

end
